-- ==== Sys2Proof/Word.lean ====
section
/-! DEFINITION. The plain word types of the model: bytes, 32-bit words, 13-bit SRAM codewords, and sparse memories. -/

namespace Sys2Proof

/-- One byte (R6). -/
abbrev Byte := BitVec 8

/-- One 32-bit word of a packet, register or Exchange Bank word (R6). -/
abbrev Word := BitVec 32

/-- One stored SRAM codeword: 8 data bits and 5 check bits (R340). -/
abbrev Codeword := BitVec 13

/-- A byte memory: address and byte, addresses strictly rising, no entry equal to zero. -/
abbrev Mem := List (Nat × Byte)

/-- A memory of codewords: index and codeword, indexes strictly rising, no entry equal to zero. -/
abbrev CMem := List (Nat × Codeword)

end Sys2Proof
end

