-- ==== Sys2Proof/Syntax.lean ====
section
/-! DEFINITION. The commands of the block: one constructor of Instr for each row of the spec's command table,
and the plain data that their operands hold. -/

namespace Sys2Proof

/-- A command packet as the host writes it (R35), without LENGTH and CRC, which follow from the rest.
The opcode is named by the command row; `word6` holds RSEL and the reserved bits of word 6. -/
structure Pkt where
  version : BitVec 8 := 3
  flags : BitVec 12 := 0
  context : BitVec 4 := 0
  tag : BitVec 12 := 0
  arg0 : Word := 0
  arg1 : Word := 0
  arg2 : Word := 0
  arg3 : Word := 0
  word6 : Word := 0
  payload : List Byte := []
  deriving DecidableEq, Repr

/-- The three guard inputs of a pin (R206). -/
inductive Guard where
  | drv
  | ppmu
  | ov
  deriving DecidableEq, Repr

/-- One ADC sample taken by PPMU_MEASURE (R216). -/
structure Sample where
  /-- pA or µV, as FORCE and measure units of the pin's mode. -/
  value : Int := 0
  /-- Taken while the PPMU stood at a clamp. -/
  clamped : Bool := false
  deriving DecidableEq, Repr

/-- An event pin: GATE0 to GATE3 or TAP_IO0 to TAP_IO7 (R323). -/
inductive EvSel where
  | gate (n : Fin 4)
  | io (n : Fin 8)
  deriving DecidableEq, Repr

/-- Bits of a stored 64-bit word of the Pattern Store that have turned over (R76): the byte address of the word, whether the
error can still be corrected, and the data bits that differ from what was written. -/
structure MemErr where
  addr : Nat := 0
  uncorrectable : Bool := false
  flip : BitVec 64 := 0
  deriving DecidableEq, Repr

/-- A memory error that a drain access meets (R76, R346): the byte offset of the word in the data that the access moves, and the
error with the byte address of the word in its partition. -/
structure DrainErr where
  off : Nat := 0
  err : MemErr := {}
  deriving DecidableEq, Repr

/-- The upkeep of the Pattern Store that a MAINT slot carries (R19). -/
inductive Upkeep where
  | refresh
  | turnaround
  | checkBits
  | calibration
  deriving DecidableEq, Repr

/-- A Tuning result (R350, R352): physical channel, quantity and value as found. -/
structure TuneRes where
  chan : Nat := 0
  qty : Nat := 0
  value : Int := 0
  deriving DecidableEq, Repr

/-- A report of a source whose detector the spec places outside every other command (R373). -/
structure ExtReport where
  src : Nat := 0
  inst : Nat := 0
  cleared : Bool := false
  d0 : Nat := 0
  d1 : Nat := 0
  deriving DecidableEq, Repr

/-- A ring control block (R397 to R412). -/
structure CtlBlock where
  /-- 0 the status of a position; 1 the results of the training; 2 a link of the training; else a block that has a command
  of its own. -/
  kind : Nat := 0
  /-- Position that the block is about. -/
  pos : Nat := 0
  /-- A burst runs there. -/
  running : Bool := false
  /-- A burst with GLOBAL runs there. -/
  global : Bool := false
  /-- Its HOLD. -/
  hold : Bool := false
  /-- Its grade. -/
  grade : Nat := 0
  /-- Its pass delay, fine LSB. -/
  pass : Nat := 0
  /-- Flight time of its outgoing link, fine LSB. -/
  flight : Nat := 0
  /-- Padded loop, fine LSB, of training results. -/
  loop : Nat := 0
  /-- Active devices, of training results. -/
  count : Nat := 0
  /-- Frames in the loop. -/
  frames : Nat := 0
  /-- Frame length in unit intervals. -/
  tfUi : Nat := 0
  /-- Padding in the master, fine LSB. -/
  pad : Nat := 0
  /-- GDL, fine LSB. -/
  gdl : Nat := 0
  /-- GDL_PERIOD of the master. -/
  gdlPeriod : Nat := 0
  /-- DB_LOG2 of the master. -/
  dbLog2 : Nat := 0
  deriving DecidableEq, Repr

/-- Why the ring is lost (R416). -/
inductive RingLossCause where
  | laneUnlock (lane : Fin 4)
  | missedDownbeats
  | loopChange
  | bypassChange
  | ringReset
  deriving DecidableEq, Repr

/-- How the start-up step in progress ended (R448). -/
structure StepResult where
  /-- BOOT_FAIL code, 0 when the step succeeded. -/
  fail : Nat := 0
  /-- Tries the HBM training took, for that step. -/
  tries : Nat := 0
  /-- Number of the self-test that failed (R433), for the self-test step. -/
  test : Nat := 0
  /-- Milliseconds since start-up step 1 began, for READY_MS. -/
  ms : Nat := 0
  deriving DecidableEq, Repr

/-- The commands of the block, one for each row of the command table. -/
inductive Instr where
  /-- CTX_OPEN (R45): Opens the context of the mailbox, with its response rings, quota and permissions, after the checks of R46. -/
  | ctxOpen (c : Fin 8) (p : Pkt)
  /-- CTX_CLOSE (R50): Closes the context without FORCE: completes earlier commands, releases groups and resources, and posts the close response; refused if work is running. -/
  | ctxClose (c : Fin 8) (p : Pkt)
  /-- CTX_CLOSE_FORCE (R50): Closes the context with FORCE: first aborts its running sequencers and disarms its engines and units, then closes as without FORCE. -/
  | ctxCloseForce (c : Fin 8) (p : Pkt)
  /-- COMMIT (R61): Checks the whole staging set by R62, issues one commit strobe, and empties the set. -/
  | commit (c : Fin 8) (p : Pkt)
  /-- COMMIT_AT (R65): Commit with AT: the clock unit releases the commit strobe at the named Metronome tick, or the commit is refused with TIME_PAST. -/
  | commitAt (c : Fin 8) (p : Pkt)
  /-- COMMIT_STROBE_RELEASE (R65): The named tick of a COMMIT with AT is reached and the clock unit releases the commit strobe. -/
  | commitStrobeRelease (c : Fin 8)
  /-- COMMIT_APPLY_AT_VECTOR (R61): Staged fields owned by a running sequencer take effect at its first vector issued after the strobe, and the COMMIT response is posted once all fields are in effect. -/
  | commitApplyAtVector (q : Fin 4)
  /-- DISCARD (R66): Empties the context's staging set without effect. -/
  | discard (c : Fin 8) (p : Pkt)
  /-- FENCE (R55): Completes only after every earlier command of the context has completed. -/
  | fence (c : Fin 8) (p : Pkt)
  /-- ECHO (R67): Returns its arguments and payload unchanged. -/
  | echo (c : Fin 8) (p : Pkt)
  /-- DEVICE_INFO (R68): Returns the 64-byte device information block. -/
  | deviceInfo (c : Fin 8) (p : Pkt)
  /-- DOORBELL_WRITE (R34): A write of DOORBELL is checked against mailbox free space and either advances PROD or is ignored and counted as BAD_PACKET. -/
  | doorbellWrite (c : Fin 8) (off : Nat) (bytes : List Byte) (v : Word)
  /-- RING_CONS_WRITE (R487): A write of RING_CONSk releases posted ring space if it passes its checks, or is ignored and counted as BAD_PACKET. -/
  | ringConsWrite (c : Fin 8) (k : Fin 4) (v : Word)
  /-- TIME0_READ (R31): A read of TIME0 latches the whole 80-bit Metronome value for later reads of TIME1 and TIME2. -/
  | time0Read
  /-- XB_BUSY_CLEAR (R30): Writing one to XB_BUSY.COLLIDED clears the collision flag. -/
  | xbBusyClear (v : Word)
  /-- BAR0_WRITE_OTHER (R29): A write to a BAR0 register that has no behaviour of its own, or a misaligned access, completes without effect. -/
  | bar0WriteOther (off : Nat) (size : Nat) (v : Word)
  /-- RESPONSE_POST (R41): A waiting response, notice or stream entry is written to its response ring once the ring has space, word 6 last, and RING_PROD advances. -/
  | responsePost (c : Fin 8) (k : Fin 4)
  /-- MSIX_TIMER_EXPIRE (R43): The TIME timer of a ring runs out after its first unsignaled entry, and the ring's MSI-X vector is signaled. -/
  | msixTimerExpire (c : Fin 8) (k : Fin 4)
  /-- PCIE_LINK_DOWN (R51): The PCIe link goes down and every open context is closed as by a forced close, with no responses posted. -/
  | pcieLinkDown
  /-- RING_SETUP (R401): Writes the ring settings of the device: ENABLE, Downbeat period, GDL period and declared link flight times. -/
  | ringSetup (c : Fin 8) (p : Pkt)
  /-- RING_TRAIN (R402): At the master starts a training; at a non-master waits for the next training to end. -/
  | ringTrain (c : Fin 8) (p : Pkt)
  /-- RING_STATUS (R417): Returns the ring device block and the 32 position entries. -/
  | ringStatus (c : Fin 8) (p : Pkt)
  /-- STORE_PARTITION (R73): Sets the store partition and paging parameters, evicting every page and emptying the capture ring and Fail Log. -/
  | storePartition (c : Fin 8) (p : Pkt)
  /-- PAGE_FILL (R85): Writes one chunk of a pattern page, assigns a frame if the page is absent, sets STICKY, and with FINAL makes the page Resident. -/
  | pageFill (c : Fin 8) (p : Pkt)
  /-- PAGE_EVICT (R86): Evicts one page of the context unless it is pinned. -/
  | pageEvict (c : Fin 8) (p : Pkt)
  /-- PAGE_EVICT_ALL (R86): Evicts every unpinned page of the context and reports the pinned pages kept. -/
  | pageEvictAll (c : Fin 8) (p : Pkt)
  /-- STORE_WRITE (R87): Writes whole lines into the pattern space, assigning a frame and making an absent page Resident. -/
  | storeWrite (c : Fin 8) (p : Pkt)
  /-- STORE_CLEAR_WRITTEN (R87): Expert STORE_WRITE with CLEAR_WRITTEN clears the written bits of the named 4 KiB blocks. -/
  | storeClearWritten (c : Fin 8) (p : Pkt)
  /-- STORE_READ (R88): Reads pattern-space bytes as a best-effort host read in idle slots, with per-entry status. -/
  | storeRead (c : Fin 8) (p : Pkt)
  /-- PAGE_DEMAND (R92): A plan entry's page that is not Resident comes within the prefetch window of a running burst and a PAGE_DEMAND notice is issued. -/
  | pageDemand (q : Fin 4)
  /-- GROUP_ASSIGN (R102): Assigns groups to a sequencer and to the context after the ownership, running and assignment checks. -/
  | groupAssign (c : Fin 8) (p : Pkt)
  /-- GROUP_RELEASE (R102): GROUP_ASSIGN with RELEASE releases the selected groups, which take the reset pin state. -/
  | groupRelease (c : Fin 8) (p : Pkt)
  /-- SEQ_CONFIG (R112): Stages the line format, GLOBAL, HALT_MODE and role mask of a sequencer. -/
  | seqConfig (c : Fin 8) (p : Pkt)
  /-- BURST_START (R140): Checks and admits a burst, reserving SEQ slots and streaming budget, and posts the start record. -/
  | burstStart (c : Fin 8) (p : Pkt)
  /-- BURST_VECTOR0 (R142): The start tick of an admitted burst is reached and vector 0 begins at the pins with empty stacks, BASE 0, PF0 and a clear fail flag. -/
  | burstVector0 (q : Fin 4)
  /-- BURST_FINAL (R143): Once a burst has ended and every result has reached the Fail Map, Fail Log and capture engines, the final entry with the end record is posted. -/
  | burstFinal (q : Fin 4)
  /-- BURST_STOP (R147): Requests that a running burst end with reason STOPPED at its next vector issue. -/
  | burstStop (c : Fin 8) (p : Pkt)
  /-- BURST_STOP_AT_RESTART (R147): Requests that a running burst end with STOPPED at the next restart point reached with both stacks empty. -/
  | burstStopAtRestart (c : Fin 8) (p : Pkt)
  /-- STOP_REQUEST_ARRIVE (R144): A BURST_STOP, forced-close or Gong abort request reaches the sequencer island and ends the burst at the next vector issue. -/
  | stopRequestArrive (q : Fin 4)
  /-- SEQ_STATUS (R148): Returns a snapshot of a sequencer's state. -/
  | seqStatus (c : Fin 8) (p : Pkt)
  /-- NOP (R116): Issues the vector once and continues at the next address. -/
  | nop (q : Fin 4)
  /-- RPT (R117): Issues the vector n times, each a full vector with compares. -/
  | rpt (q : Fin 4)
  /-- LPB (R122): Pushes a loop frame and issues the first vector of a loop body. -/
  | lpb (q : Fin 4)
  /-- LPE (R122): Issues its vector and either loops back to the frame's LPB or pops the frame. -/
  | lpe (q : Fin 4)
  /-- CALL (R122): Issues its vector, pushes a return frame and continues at the target. -/
  | call (q : Fin 4)
  /-- RET (R122): Issues its vector, pops the call frame and continues at the return address. -/
  | ret (q : Fin 4)
  /-- JMP (R123): Issues its vector and continues at the target address. -/
  | jmp (q : Fin 4)
  /-- JMPF (R125): Issues its vector and branches on the fail flag at the decision. -/
  | jmpf (q : Fin 4)
  /-- JMPG (R137): Issues its vector and branches on a ring global decision taken at its sample tick. -/
  | jmpg (q : Fin 4)
  /-- MATCH (R126): Repeats its vector until a repetition passes or the timeout runs out. -/
  | matchRep (q : Fin 4)
  /-- TAPW (R128): Repeats its vector until a tap on its channel arrives or is pending, or the timeout runs out. -/
  | tapw (q : Fin 4)
  /-- TAPR (R129): Issues its vector and raises a tap channel at the vector start. -/
  | tapr (q : Fin 4)
  /-- TSET (R120): Issues its vector and then replaces the timing-set base and/or active period-file entry. -/
  | tset (q : Fin 4)
  /-- MARK (R118): Issues its vector and sends a user mark to the capture island. -/
  | mark (q : Fin 4)
  /-- CLRF (R119): Issues its vector and clears the fail flag. -/
  | clrf (q : Fin 4)
  /-- SYNC (R130): Repeats its vector and aligns the next vector start to the releasing Downbeat plus 64 ns. -/
  | sync (q : Fin 4)
  /-- HALT (R131): Issues its vector as the last of the burst and ends it with reason HALT. -/
  | halt (q : Fin 4)
  /-- TSET_WRITE (R162): Stages timing sets of a group's timing-set table. -/
  | tsetWrite (c : Fin 8) (p : Pkt)
  /-- PERIOD_SET (R157): Stages period-file entries of a sequencer, converted from femtoseconds. -/
  | periodSet (c : Fin 8) (p : Pkt)
  /-- DESKEW_WRITE (R169): Stages a group's deskew table and reference plane. -/
  | deskewWrite (c : Fin 8) (p : Pkt)
  /-- ALARM_SET (R173): Configures an alarm or time-capture unit and returns its status. -/
  | alarmSet (c : Fin 8) (p : Pkt)
  /-- ALARM_QUERY (R173): ALARM_SET with QUERY returns the unit status only. -/
  | alarmQuery (c : Fin 8) (p : Pkt)
  /-- ALARM_RELEASE (R173): ALARM_SET with RELEASE disables the unit and gives up ownership. -/
  | alarmRelease (c : Fin 8) (p : Pkt)
  /-- ALARM_FIRE (R174): An enabled alarm's due tick is reached; it raises its tap and schedules or disables its next firing. -/
  | alarmFire (n : Fin 8)
  /-- DRIVE_EVENT (R180): At a placed time the formatter assigns a level, turns the driver on, or turns it off. -/
  | driveEvent (p : Fin 128)
  /-- FORMAT_SET (R186): Stages the format, OFF_MODE and edge rate entries of a group. -/
  | formatSet (c : Fin 8) (p : Pkt)
  /-- REFLEX_SET (R192): Stages the reflex entries of a group. -/
  | reflexSet (c : Fin 8) (p : Pkt)
  /-- REFLEX_QUERY (R192): REFLEX_SET with QUERY returns the status of the group's reflex units. -/
  | reflexQuery (c : Fin 8) (p : Pkt)
  /-- COMPARATOR_CROSSING (R194): A comparator output crosses at the pin; reflex units, TDCs and edge pairing act on it. -/
  | comparatorCrossing (p : Fin 128) (voh : Bool) (rising : Bool) (t : Nat)
  /-- ARM_WINDOW_CLOSE (R193): A reflex arm window closes 2.0 ns before the next drive event or at the next non-Keep vector. -/
  | armWindowClose (p : Fin 128)
  /-- LOAD_SET (R187): Stages the active load entries of a group. -/
  | loadSet (c : Fin 8) (p : Pkt)
  /-- LEVELS_SET (R199): Stages the level entries, pair span and hysteresis of a group. -/
  | levelsSet (c : Fin 8) (p : Pkt)
  /-- COMPARATOR_VALID (R204): 200 ns after an enable and with the input outside its band, a compare comparator's output becomes valid. -/
  | comparatorValid (p : Fin 128) (voh : Bool) (above : Bool)
  /-- GUARD_SET (R209): Writes the live guard settings of a group. -/
  | guardSet (c : Fin 8) (p : Pkt)
  /-- GUARD_QUERY (R209): GUARD_SET with QUERY returns the pin status entries of the group. -/
  | guardQuery (c : Fin 8) (p : Pkt)
  /-- GUARD_CLEAR (R210): GUARD_SET with CLEAR clears the trip latches of the selected pins. -/
  | guardClear (c : Fin 8) (p : Pkt)
  /-- GUARD_TRIP (R206): A guard input passes its trip point for its FILTER time; the pin goes to high impedance and the trip is latched and reported. -/
  | guardTrip (p : Fin 128) (g : Guard)
  /-- PPMU_SET (R212): Writes the PPMU entries of a group. -/
  | ppmuSet (c : Fin 8) (p : Pkt)
  /-- PPMU_SETTLED (R214): A PPMU entry's settling time runs out after its write. -/
  | ppmuSettled (p : Fin 128)
  /-- PPMU_MEASURE (R215): Measures selected pins of a group through the group ADC after settling. -/
  | ppmuMeasure (c : Fin 8) (p : Pkt)
  /-- PPMU_MEASURE_DONE (R216): The last selected pin's samples are taken and the measurement response is posted. -/
  | ppmuMeasureDone (g : Fin 8) (samples : List (List Sample))
  /-- LEVEL_MEASURE_RAMP (R218): Measures a DC level on one pin by sweeping a comparator threshold and timing the crossing. -/
  | levelMeasureRamp (c : Fin 8) (p : Pkt)
  /-- LEVEL_MEASURE_SLOPE (R222): Collects edge pairs on one pin and reports their crossing interval and slope. -/
  | levelMeasureSlope (c : Fin 8) (p : Pkt)
  /-- LEVEL_MEASURE_DONE (R219): The last ramp or edge pair, or the timeout, ends a level measurement and its response is posted. -/
  | levelMeasureDone (g : Fin 8) (ramps : List (Option Nat))
  /-- COMP_CHECK_STATUS (R225): Returns the comparator, guard and carry status of a group's pins and reserve channel. -/
  | compCheckStatus (c : Fin 8) (p : Pkt)
  /-- COMP_CHECK_SWAP (R223): Finds each selected comparator's offset with inputs normal and exchanged. -/
  | compCheckSwap (c : Fin 8) (p : Pkt)
  /-- COMP_CHECK_TIE (R223): Finds each selected comparator's largest trip error against three internal levels. -/
  | compCheckTie (c : Fin 8) (p : Pkt)
  /-- COMP_CHECK_DONE (R224): A SWAP or TIE check completes and its entries are returned, reporting failures to the Gong. -/
  | compCheckDone (g : Fin 8) (errs : List (Int × Int))
  /-- STROBE (R229): A strobe closes and its result byte, first-fail record and fail counter are formed. -/
  | strobe (p : Fin 128)
  /-- FAIL_FLAG_SET (R133): A flag-setting result reaches the sequencer and sets its fail flag, raising FAIL_SEQn and the global fail OR. -/
  | failFlagSet (q : Fin 4)
  /-- RESULT_TO_CAPTURE (R252): Result bytes reach the capture island and update the Fail Map, stage Fail Log records and feed Snare lanes. -/
  | resultToCapture (q : Fin 4)
  /-- MASK_SET_PIN_MASK (R235): Stages a group's pin mask. -/
  | maskSetPinMask (c : Fin 8) (p : Pkt)
  /-- MASK_SET_RANGES (R235): Stages range mask entries of a group. -/
  | maskSetRanges (c : Fin 8) (p : Pkt)
  /-- MASK_SET_FAILPROC (R235): Stages the Fail Map and Fail Log settings of a sequencer. -/
  | maskSetFailproc (c : Fin 8) (p : Pkt)
  /-- FAIL_READ (R240): Returns the first-fail records and fail counters of a group. -/
  | failRead (c : Fin 8) (p : Pkt)
  /-- FAILMAP_READ (R245): Reads bytes of a sequencer's Fail Map. -/
  | failmapRead (c : Fin 8) (p : Pkt)
  /-- FAILMAP_STATUS (R245): FAILMAP_READ with SIZE 0 returns the map status. -/
  | failmapStatus (c : Fin 8) (p : Pkt)
  /-- FAILLOG_DRAIN (R251): Moves records from a sequencer's Fail Log sub-ring to the response ring. -/
  | faillogDrain (c : Fin 8) (p : Pkt)
  /-- CAP_CONFIG (R259): Stages the configuration of one capture engine. -/
  | capConfig (c : Fin 8) (p : Pkt)
  /-- CAP_ARM (R272): Arms a capture engine, reserving its CAP slots and ring segment. -/
  | capArm (c : Fin 8) (p : Pkt)
  /-- CAP_ARMED (R272): The first Bar after admission begins and the engine becomes armed. -/
  | capArmed (e : Fin 8)
  /-- CAP_DISARM (R275): Stops an engine taking data, drains or discards its segment, releases its resources, and optionally its ownership. -/
  | capDisarm (c : Fin 8) (p : Pkt)
  /-- CAP_QUERY (R275): CAP_DISARM with QUERY returns the engine status block and changes nothing. -/
  | capQuery (c : Fin 8) (p : Pkt)
  /-- TRIGGER_EVAL (R262): An occurrence of the trigger pattern is evaluated, qualified, counted and, if it is a trigger, starts a capture or is missed. -/
  | triggerEval (e : Fin 8)
  /-- AUTO_TRIGGER (R267): In AUTO mode no trigger comes within AUTO_US of READY and a trigger occurs at that tick. -/
  | autoTrigger (e : Fin 8)
  /-- CAPTURE_END (R270): A capture ends at its last post-trigger vector, burst end or disarm, writes CAPTURE_END and enters REARM. -/
  | captureEnd (e : Fin 8)
  /-- REARM_DONE (R268): 64 ns after a capture ends the engine returns to READY, or WAIT_TAP with ARM_ON_TAP. -/
  | rearmDone (e : Fin 8)
  /-- SINGLE_DRAINED (R268): A SINGLE capture has been drained and the engine disarms. -/
  | singleDrained (e : Fin 8)
  /-- LADDER_EVAL (R282): At each Bar start the reduction ladder steps down or up by fill and writes a LEVEL mark. -/
  | ladderEval (e : Fin 8)
  /-- TMU_CONFIG (R298): Writes the configuration of one interval unit. -/
  | tmuConfig (c : Fin 8) (p : Pkt)
  /-- TMU_ARM (R299): Arms an interval unit, taking its measurement lanes, and enters SETTING. -/
  | tmuArm (c : Fin 8) (p : Pkt)
  /-- TMU_DISARM (R300): TMU_ARM with DISARM disarms the unit, releases its lanes and posts the arm's final entry. -/
  | tmuDisarm (c : Fin 8) (p : Pkt)
  /-- TMU_RELEASE (R300): TMU_ARM with RELEASE disarms the unit if armed and gives up ownership. -/
  | tmuRelease (c : Fin 8) (p : Pkt)
  /-- TMU_SETTING_DONE (R294): 16 ns after entering SETTING, interpolator calibration and setup end and the unit becomes READY. -/
  | tmuSettingDone (u : Fin 16) (c1s c2s c1p c2p : Nat)
  /-- TMU_WINDOW_OPEN (R293): A gate edge or gate tap, in tick t, opens a measurement window. -/
  | tmuWindowOpen (u : Fin 16) (t : Nat)
  /-- TMU_WINDOW_CLOSE (R293): A gate window closes, in tick t, by its inactive edge or after WINDOW_NS. -/
  | tmuWindowClose (u : Fin 16) (t : Nat)
  /-- TMU_ENDPOINT_EVENT (R296): A start or stop endpoint event is taken or ignored by the unit. -/
  | tmuEndpointEvent (u : Fin 16) (code : Nat)
  /-- TMU_RANGE_EXPIRE (R297): 2^40 ticks pass after one endpoint with no other taken, and the result is formed with NO_START or NO_STOP. -/
  | tmuRangeExpire (u : Fin 16)
  /-- TMU_LATCH (R294): 4 ns after the later event or close, the result is formed, enters statistics, and the unit disarms at its N-th result. -/
  | tmuLatch (u : Fin 16)
  /-- TMU_RESULT (R303): Returns a unit's statistics block and its most recent results. -/
  | tmuResult (c : Fin 8) (p : Pkt)
  /-- TAP_ROUTE (R312): Writes one tap channel's producer, consumers and attributes after the checks of R313. -/
  | tapRoute (c : Fin 8) (p : Pkt)
  /-- TAP_RELEASE (R312): TAP_ROUTE with RELEASE disables and clears the channel and gives up ownership and claims. -/
  | tapRelease (c : Fin 8) (p : Pkt)
  /-- TAP_STATUS (R326): Returns a channel's entry and consumer entries, optionally clearing counters. -/
  | tapStatus (c : Fin 8) (p : Pkt)
  /-- TAP_RAISE (R305): A producer raises a tap, which enters each enabled channel it feeds. -/
  | tapRaise
  /-- TAP_HUB_ROUTE (R315): The hub passes a channel's taps of one SI cycle as one tap toward its consumers. -/
  | tapHubRoute (ch : Fin 64)
  /-- TAP_ACTIVATION (R316): Taps usable at one consumer input in one cycle produce one activation, or are refused as overrun or idle. -/
  | tapActivation (i : Fin 161)
  /-- CONSUMER_BUSY_END (R318): A consumer input's busy time ends and it can accept a tap again. -/
  | consumerBusyEnd (i : Fin 161)
  /-- EVENT_PIN_EDGE (R323): An edge on a GATE or TAP_IO input is sampled and raises a tap at its tick. -/
  | eventPinEdge (pin : EvSel) (level : Bool)
  /-- TAP_IO_PULSE_END (R324): A TAP_IO output pulse of PULSE ticks ends and the pin returns low. -/
  | tapIoPulseEnd (n : Fin 8)
  /-- TAP_IO_RETURN_INPUT (R324): A TAP_IO pin released by its last route returns to input within 1 µs. -/
  | tapIoReturnInput (n : Fin 8)
  /-- SCRATCH_READ (R331): Reads scratchpad bytes of the sender's window. -/
  | scratchRead (c : Fin 8) (p : Pkt)
  /-- SCRATCH_WRITE (R330): Writes scratchpad bytes of the sender's window. -/
  | scratchWrite (c : Fin 8) (p : Pkt)
  /-- SCRATCH_SET (R335): Expert alias write that ORs data into scratchpad bytes at the memory. -/
  | scratchSet (c : Fin 8) (p : Pkt)
  /-- SCRATCH_CLR (R335): Expert alias write that clears data bits in scratchpad bytes at the memory. -/
  | scratchClr (c : Fin 8) (p : Pkt)
  /-- XB_HOST_READ (R334): A host read through BAR2 reads Exchange Bank words in host slots, subject to collision and ECC rules. -/
  | xbHostRead (off : Nat) (be : Nat)
  /-- XB_HOST_WRITE (R334): A host write through BAR2 writes Exchange Bank words in host slots. -/
  | xbHostWrite (off : Nat) (be : Nat) (v : Word)
  /-- XB_SET_ALIAS_WRITE (R335): A host write through the SET alias ORs data into Exchange Bank bytes. -/
  | xbSetAliasWrite (off : Nat) (be : Nat) (v : Word)
  /-- XB_CLR_ALIAS_WRITE (R335): A host write through the CLR alias clears data bits in Exchange Bank bytes. -/
  | xbClrAliasWrite (off : Nat) (be : Nat) (v : Word)
  /-- XP_READ (R336): A board agent reads an Exchange Bank word through port A. -/
  | xpRead (w : Fin 16384) (pt2 : Bool)
  /-- XP_WRITE (R336): A board agent writes an Exchange Bank word through port A. -/
  | xpWrite (w : Fin 16384) (v : Word) (pt2 : Bool)
  /-- ECC_DIAG_READ_RAW (R343): Returns stored SRAM codewords without correction. -/
  | eccDiagReadRaw (c : Fin 8) (p : Pkt)
  /-- ECC_DIAG_WRITE_RAW (R343): Stores SRAM codewords exactly as given. -/
  | eccDiagWriteRaw (c : Fin 8) (p : Pkt)
  /-- ECC_DIAG_FLIP (R343): XORs stored SRAM codewords with given entries at the memory. -/
  | eccDiagFlip (c : Fin 8) (p : Pkt)
  /-- BRUSH_STATUS (R348): Returns the Brush log of every memory, optionally clearing counters from SECURE. -/
  | brushStatus (c : Fin 8) (p : Pkt)
  /-- BRUSH_SCRUB (R345): Brush uses an idle access opportunity to check and correct codewords of its current lap. -/
  | brushScrub (m : Fin 9) (errs : List MemErr)
  /-- BRUSH_STALL (R347): Brush waits 1 ms with no idle opportunity in a memory and STALLING sets; the lap counts as stalled. -/
  | brushStall (m : Fin 9)
  /-- SEQ_SLOT_FETCH (R94): A SEQ slot of a burst fetches vector lines into the sequencer's fetch buffers. -/
  | seqSlotFetch (q : Fin 4) (alt : Bool) (addr : Nat) (errs : List MemErr)
  /-- CAP_SLOT_WRITE (R280): A CAP slot writes 1,024 bytes of an engine's staged records to its segment. -/
  | capSlotWrite (e : Fin 8)
  /-- FLOG_SLOT_DRAIN (R249): A FLOG slot writes up to 32 staged Fail Log records of one sequencer to its sub-ring. -/
  | flogSlotDrain
  /-- HOSTIN_SLOT (R89): A HOSTIN slot writes host data into the store, demanded pages first. -/
  | hostinSlot
  /-- HOSTOUT_SLOT (R284): A HOSTOUT slot reads capture segments or Fail Log records for drain to the host. -/
  | hostoutSlot
  /-- MAINT_SLOT (R19): A MAINT slot carries refresh, turnarounds, check-bit transfers or interface calibration. -/
  | maintSlot
  /-- SUP_SLOT (R91): The SUP slot serves supervisor accesses, including page plan reads of running bursts. -/
  | supSlot
  /-- IDLE_SLOT (R22): An idle flexible slot serves a best-effort host read, or else Brush. -/
  | idleSlot (errs : List MemErr)
  /-- TUNE_RUN_FULL (R356): Starts a full Tuning pass of the named pin dies. -/
  | tuneRunFull (c : Fin 8) (p : Pkt)
  /-- TUNE_FULL_DIE_DONE (R357): A die's full pass reaches step 6; results are judged, applied and its reference temperature recorded. -/
  | tuneFullDieDone (res : List TuneRes)
  /-- TUNE_RUN_REFLECT (R368): Measures the fixture delay of selected pins by socket reflection. -/
  | tuneRunReflect (c : Fin 8) (p : Pkt)
  /-- REFLECT_DONE (R370): The last selected pin's reflection is measured and the results are returned. -/
  | reflectDone (g : Fin 8) (trips : List (Option Nat))
  /-- TUNE_RUN_LIVE (R369): Enables or disables live Tuning of named groups and sets TAKEOVER_MS. -/
  | tuneRunLive (c : Fin 8) (p : Pkt)
  /-- TUNE_STATUS (R371): Returns the Tuning device block and group entries. -/
  | tuneStatus (c : Fin 8) (p : Pkt)
  /-- CAL_STORE (R355): Writes the field Tuning tables in force to one flash copy. -/
  | calStore (c : Fin 8) (p : Pkt)
  /-- CAL_STORE_DONE (R355): The flash write and read-back of CAL_STORE complete and its response is posted. -/
  | calStoreDone (readBackOk : Bool)
  /-- FIXTURE_DELAY (R367): Stages a group's fixture table and FIX source. -/
  | fixtureDelay (c : Fin 8) (p : Pkt)
  /-- GAP_CALIBRATION (R359): An edge cell or pin TDC with a 2 ns gap measures its interpolator and nudges its trim. -/
  | gapCalibration (p : Fin 128) (cell : Fin 7) (meas gain : Int)
  /-- EDGE_CELL_STARVED (R360): An edge cell finds no gap for 10 ms and becomes STARVED. -/
  | edgeCellStarved (p : Fin 128) (cell : Fin 7)
  /-- TAKEOVER_CYCLE (R361): Every TAKEOVER_MS, or on a TUNE_Gg tap, a takeover cycle starts on the group's next eligible pin. -/
  | takeoverCycle (g : Fin 8)
  /-- TAKEOVER_PREPARE_DONE (R362): The reserve channel has taken the pin's settings and been matched, and the handoff search begins. -/
  | takeoverPrepareDone (g : Fin 8) (residual : Int) (handoff : Option Nat)
  /-- HANDOFF (R363): At an armed handoff vector the reserve channel takes or returns the pin without a visible change. -/
  | handoff (g : Fin 8)
  /-- TAKEOVER_DEFER (R364): No handoff vector is issued within the 100 µs window and the takeover is deferred. -/
  | takeoverDefer (g : Fin 8) (handoff : Option Nat)
  /-- CARRY_DONE (R362): The channel's calibration during CARRY ends and the handback search begins. -/
  | carryDone (g : Fin 8) (res : List TuneRes) (handoff : Option Nat)
  /-- HANDBACK_AFTER_BURST (R365): 100 ns after a burst ends the pin is handed back from the reserve channel without a handoff vector. -/
  | handbackAfterBurst (g : Fin 8)
  /-- GONG_CONFIG_SOURCE (R388): Sets the class, reactions and reset target of a Gong source instance. -/
  | gongConfigSource (c : Fin 8) (p : Pkt)
  /-- GONG_CONFIG_QUIET (R388): Sets QUIET_MS. -/
  | gongConfigQuiet (c : Fin 8) (p : Pkt)
  /-- GONG_CONFIG_NOTICE (R391): Sets the context's Gong notice enable, minimum class and ring. -/
  | gongConfigNotice (c : Fin 8) (p : Pkt)
  /-- GONG_READ_LOG (R392): Returns the Gong device block and log records. -/
  | gongReadLog (c : Fin 8) (p : Pkt)
  /-- GONG_READ_COUNTERS (R392): Returns the Gong device block and per-source counters. -/
  | gongReadCounters (c : Fin 8) (p : Pkt)
  /-- GONG_REPORT (R376): A source report reaches the Gong, is recorded and has its configured reactions applied. -/
  | gongReport (ext : Option ExtReport)
  /-- SUBSYS_RESET (R387): A RESET reaction resets one subsystem and, on completion, the Gong records SUBSYS_RESET. -/
  | subsysReset
  /-- QUIET_EXPIRE (R382): QUIET_MS passes with no Fault report and the device leaves the fault state. -/
  | quietExpire
  /-- HOLD_EXPIRE (R383): A SAFE or STOP_TICK hold from a Note or Warn report ends after QUIET_MS without a further report of that instance. -/
  | holdExpire (src : Nat) (inst : Nat)
  /-- TICK_TOGGLE (R385): Every 500 µs while ready and unheld, the TICK pin toggles. -/
  | tickToggle
  /-- HEARTBEAT (R386): A supervisor core signals the Gong heartbeat watchdog. -/
  | heartbeat (core : Fin 4)
  /-- SUP_HANG (R386): A core misses its 50 ms heartbeat and the watchdog reports SUP_HANG. -/
  | supHang (core : Fin 4)
  /-- CLOCK_LOCK_LOSS (R373): A timing island loses lock to the forwarded clock and reports Fatal. -/
  | clockLockLoss (die : Fin 4)
  /-- REFCLK_LOSS (R445): REFCLK has no edge for 100 ns or is off frequency for 10 µs and REFCLK_LOSS is reported. -/
  | refclkLoss
  /-- ENUMERATION (R398): An enumeration symbol arrives; a device takes its position and forwards the count, or the master finds N or a conflict. -/
  | enumeration (count : Nat) (own : Bool)
  /-- LOOP_MEASURED (R404): The master measures and pads the loop and computes flight times, GDL and frame length. -/
  | loopMeasured (raw : Nat) (passes : List Nat)
  /-- COUNT_LOAD (R406): At the announced tick each non-master loads the master's count plus its delay. -/
  | countLoad (masterFine : Nat) (dk : Nat)
  /-- TRAINING_END (R403): Alignment converges, RING_READY sets and the RING_TRAIN responses are posted. -/
  | trainingEnd
  /-- TRAIN_TIMEOUT (R403): A training not ended within its limit, or a non-master's wait of 1 s, fails with TRAIN_TIMEOUT. -/
  | trainTimeout
  /-- DECISION_WORD (R408): A decision word passes the device, which writes its fail contribution bit and reads the others. -/
  | decisionWord (w : Word) (valid : Bool)
  /-- GT_SLOT (R409): A GT frame slot passes; the device writes a waiting raise into its slot and raises received global taps. -/
  | gtSlot (pos : Fin 32) (slot : BitVec 16) (valid : Bool)
  /-- CONTROL_BLOCK (R410): A ring control block carrying Downbeat, count load, enumeration or status is sent or received. -/
  | controlBlock (cb : CtlBlock)
  /-- DOWNBEAT (R412): A Downbeat block arrives, its alignment error is measured and a correction begins. -/
  | downbeat (tick : Nat) (carried : Nat) (measured : Nat)
  /-- ALIGN_STEP (R412): At a Bar, the Metronome takes one 1-fine-LSB correction step. -/
  | alignStep
  /-- DOWNBEAT_MISSED (R414): A Downbeat does not arrive within ±1 tick, or its error is too large; MISSED_DB increments and HOLD sets. -/
  | downbeatMissed
  /-- RING_ERROR_BLOCK (R415): A block with a sync or framing error is received and forwarded as an error block. -/
  | ringErrorBlock (lane : Fin 4)
  /-- RING_LOSS (R416): Lane unlock, missed Downbeats, loop change, bypass change or a RING reset makes the ring lost. -/
  | ringLoss (cause : RingLossCause)
  /-- OFFICER_AUTH_CHALLENGE (R426): Returns a single-use 32-byte challenge for the sending context. -/
  | officerAuthChallenge (c : Fin 8) (p : Pkt)
  /-- OFFICER_AUTH_PROVE (R426): Grants the officer role on a valid signature over the challenge, or provisions the officer key hash. -/
  | officerAuthProve (c : Fin 8) (p : Pkt)
  /-- OFFICER_AUTH_POLICY (R428): Sets the expert and cycle policy per context. -/
  | officerAuthPolicy (c : Fin 8) (p : Pkt)
  /-- OFFICER_AUTH_RELINQUISH (R426): The sending context drops the officer role. -/
  | officerAuthRelinquish (c : Fin 8) (p : Pkt)
  /-- CHALLENGE_EXPIRE (R426): An officer challenge is no longer valid 10 s after it was issued. -/
  | challengeExpire (c : Fin 8)
  /-- LOCKOUT_EXPIRE (R427): 1 s after a failed PROVE, the PROVE lockout ends. -/
  | lockoutExpire
  /-- ATTEST_REPORT (R434): Returns a signed attestation report over the host nonce. -/
  | attestReport (c : Fin 8) (p : Pkt)
  /-- ATTEST_CERT (R425): Returns the identity certificate chain. -/
  | attestCert (c : Fin 8) (p : Pkt)
  /-- SEAL_OPEN_OFFER (R429): Generates an ephemeral ML-KEM key pair and device nonce and returns them signed. -/
  | sealOpenOffer (c : Fin 8) (p : Pkt)
  /-- SEAL_OPEN_ACCEPT (R429): Decapsulates the shared secret, derives the session keys and opens a sealed session. -/
  | sealOpenAccept (c : Fin 8) (p : Pkt)
  /-- SEAL_OPEN_CLOSE (R429): Closes the sealed session once every sealed command has completed. -/
  | sealOpenClose (c : Fin 8) (p : Pkt)
  /-- OFFER_EXPIRE (R429): 10 s after an OFFER with no ACCEPT, the decapsulation key is erased. -/
  | offerExpire (c : Fin 8)
  /-- ZEROIZE (R436): Erases session keys and sealed data, and at level FULL the identity seed. -/
  | zeroize (c : Fin 8) (p : Pkt)
  /-- ZEROIZE_N_ASSERT (R437): ZEROIZE_N held low for 1 µs starts a SESSIONS zeroization. -/
  | zeroizeNAssert
  /-- ZEROIZE_DONE (R436): Key and sealed-data erasure ends and the zeroization completes. -/
  | zeroizeDone
  /-- FW_UPDATE_WRITE (R424): Writes image bytes into the region of the image not running. -/
  | fwUpdateWrite (c : Fin 8) (p : Pkt)
  /-- FW_UPDATE_VERIFY (R424): Judges the non-running image by the boot rules. -/
  | fwUpdateVerify (c : Fin 8) (p : Pkt)
  /-- FW_UPDATE_ADVANCE (R424): Blows anti-rollback counter bits up to the running image's SVN. -/
  | fwUpdateAdvance (c : Fin 8) (p : Pkt)
  /-- FW_UPDATE_REVOKE (R424): Blows the revocation bit of a vendor key slot. -/
  | fwUpdateRevoke (c : Fin 8) (p : Pkt)
  /-- DEBUG_UNLOCK (R435): On a valid token, zeroizes sessions, leaves approved mode and opens debug access. -/
  | debugUnlock (c : Fin 8) (p : Pkt)
  /-- HEALTH_READ (R456): Returns the health device block, sensor entries and rail entries. -/
  | healthRead (c : Fin 8) (p : Pkt)
  /-- POWER_ON (R439): VIN rises past 11.4 V and start-up begins at step 1. -/
  | powerOn (masterSel : Bool)
  /-- STARTUP_STEP_DONE (R448): A start-up step completes, the next step starts, or start-up stops with a BOOT_FAIL code. -/
  | startupStepDone (r : StepResult)
  /-- RAIL_TIMEOUT (R442): A rail fails to reach tolerance within 5 ms and start-up stops with BOOT_FAIL REGULATOR. -/
  | railTimeout (rail : Fin 11)
  /-- REFCLK_WAIT_TIMEOUT (R445): REFCLK is not valid 10 ms after step 2 needs it and BOOT_FAIL REFCLK is reported. -/
  | refclkWaitTimeout
  /-- BROWN_OUT (R442): VIN below 10.8 V for 2 µs puts the device in reset. -/
  | brownOut
  /-- OVERVOLTAGE (R442): VIN above 13.5 V for 10 µs stops every regulator and holds the device in reset. -/
  | overvoltage
  /-- SUPPLY_CONDITION (R442): VIN or a rail stays out of tolerance for 10 µs, or returns, and the SUPPLY condition is reported. -/
  | supplyCondition (rail : Fin 11) (out : Bool) (mv : Int)
  /-- RESET_N_ASSERT (R446): A low pulse on RESET_N resets the device and resumes start-up at step 3. -/
  | resetNAssert (masterSel : Bool)
  /-- PERST_N_ASSERT (R446): A low pulse on PERST_N resets the PCIe function and closes every context. -/
  | perstNAssert
  /-- PERST_N_RELEASE (R450): PERST_N is released and link training is enabled if the device is ready. -/
  | perstNRelease
  /-- TEMP_SAMPLE (R454): A thermal sensor is read and the TEMP_HIGH and TEMP_CRIT conditions begin or end. -/
  | tempSample (sensor : Fin 16) (temp : Int)
  /-- THERMAL_RESTART (R455): After thermal shutdown, sensors 14 and 15 fall below 85 °C and start-up restarts at step 1. -/
  | thermalRestart (masterSel : Bool)
  /-- SMBUS_READ (R457): A read transaction on the SMBus sideband returns the addressed status data. -/
  | smbusRead (code : Byte)
  /-- SMBUS_WRITE (R457): A write transaction on the SMBus sideband is answered with NACK. -/
  | smbusWrite (code : Byte) (data : Byte)
  /-- PCIE_LINK_UP (R450): The PCIe link reaches L0 after training is enabled, and MSI-X vector 0 then fires. -/
  | pcieLinkUp
  /-- MSIX_TABLE_WRITE (R27): A host write to the MSI-X table in BAR0 sets the message address and data that the device later uses for its interrupt writes. -/
  | msixTableWrite (vec : Fin 64) (k : Fin 4) (v : Word)
  /-- FW_UPDATE_DONE (R424): A flash or OTP operation of FW_UPDATE (WRITE, VERIFY, ADVANCE) ends, its response is posted and FLASH_BUSY is released. -/
  | fwUpdateDone
  /-- ZEROIZE_N_RELEASE (R437): ZEROIZE_N returns high, ending the time during which OFFER is refused with ZEROIZE_HELD. -/
  | zeroizeNRelease
  /-- OVERVOLTAGE_RELEASE (R442): VIN falls below 12.6 V after an overvoltage, releasing the reset hold so that the device restarts. -/
  | overvoltageRelease (masterSel : Bool)
  /-- REFCLK_RETURN (R445): REFCLK becomes valid again after a loss and the REFCLK_LOSS condition reports CLEARED, although the Fatal fault state remains. -/
  | refclkReturn
  /-- RING_LANE_LOCK (R415): A RING_IN lane regains lock, and its RING_LINK condition reports CLEARED. -/
  | ringLaneLock (lane : Fin 4)
  /-- GUARD_ARMED (R207): After an enable, a guard's input leaves its band on the inner side and the guard moves from the no-trip state to armed. -/
  | guardArmed (p : Fin 128) (g : Guard)
  deriving DecidableEq, Repr

end Sys2Proof
end

