-- ==== Sys2Proof/Decode.lean ====
section
/-! DEFINITION. Commands spelled as words: no row of the command table has bits, so no word spells a command. -/

namespace Sys2Proof

/-- The command that a word of the table spells: none, since the table gives no row any bits. [DESIGN CHOICE, log 134] -/
def decodeTableWord (_nbits _w : Nat) : Option Instr := none

end Sys2Proof
end

