-- ==== Sys2Proof/Config.lean ====
section
/-! DEFINITION. What a part or an implementation fixes and what the spec leaves open.
Every constant here is opaque: nothing can be proved of its value, so a claim holds for every value it may have. -/

namespace Sys2Proof.Config

open Sys2Proof

/-- Free values, one for each index; State.free counts those already drawn. -/
opaque freeNat : Nat → Nat

/-- Errors that have arisen in the memory that an access of firmware's own reads, one list for each free value drawn (R76). [DESIGN CHOICE, log 163] -/
opaque freeMemErrs : Nat → List MemErr

/-- Errors that have arisen in the memory that a drain access reads, one list for each free value drawn (R76, R346). [DESIGN CHOICE, log 163] -/
opaque freeDrainErrs : Nat → List DrainErr

/-- The upkeep that is due at a MAINT position, if any, one for each free value drawn (R19). [DESIGN CHOICE, log 163] -/
opaque freeUpkeep : Nat → Option Upkeep

/-- The part is a KN8128-M; else a KN8128-H (R30). -/
opaque gradeM : Bool

/-- BUILD of image A and of image B as shipped (R30, R421). -/
opaque build : Bool → Nat

/-- Banks of the stack that refresh takes in rotation (R19). -/
opaque hbmBanks : Nat

/-- Device serial, 64 bits (R425). -/
opaque serial : Nat

/-- SHA3-256 of the boot ROM (R434). -/
opaque romDigest : List Byte

/-- DIGEST field of image A and of image B (R421). -/
opaque imageDigest : Bool → List Byte

/-- Hash in an OTP vendor key slot (R420). -/
opaque slotHash : Nat → List Byte

/-- Judgement of an image that FW_UPDATE has written only in part: image B or A, the writes, and which check of R422
(0 MAGIC and reserved fields, 1 key hash, 2 signature, 3 digest). -/
opaque imageCheck : Bool → List (Nat × List Byte) → Nat → Bool

/-- The identity certificate chain in DER, as the flash holds it (R425). -/
opaque certChain : List Byte

/-- The certificate chain matches its hash in OTP (R425). -/
opaque certOk : Bool

/-- The factory trim of a physical channel and quantity (R353). -/
opaque factoryTrim : Nat → Nat → Int

/-- The span c2 − c1 that the full pass of a number recorded for an interpolator of an interval unit: pass, 2·unit + side (R295). -/
opaque tmuSpan : Nat → Nat → Nat

/-- The bytes of the field tables in force, as their digest takes them, from trims and reflection values (R434). -/
opaque tableImage : List (Nat × Nat × Int) → List (Nat × Nat) → List Byte

/-- SHA3-256 (R419). -/
opaque sha3 : List Byte → List Byte

/-- SHAKE256 with a 64-byte output (R429). -/
opaque shake64 : List Byte → List Byte

/-- ML-DSA-44 verification: public key, message, signature (R419). -/
opaque verify : List Byte → List Byte → List Byte → Bool

/-- ML-DSA-44 signature under the identity key (R425). -/
opaque sign : List Byte → List Byte

/-- Random bytes of the DRBG: draw number and byte count (R419). -/
opaque drbg : Nat → Nat → List Byte

/-- ML-KEM-768 encapsulation key of the key pair generated at a DRBG draw (R429). -/
opaque kemKey : Nat → List Byte

/-- The pair-wise consistency test of that key pair passes (R433). -/
opaque kemPairOk : Nat → Bool

/-- ML-KEM-768 decapsulation of a ciphertext with that key pair; none if it fails (R429). -/
opaque kemDecap : Nat → List Byte → Option (List Byte)

/-- AES-256-GCM encryption: key, IV, AAD and plaintext give ciphertext and tag (R430). -/
opaque gcmSeal : List Byte → List Byte → List Byte → List Byte → List Byte

/-- AES-256-GCM decryption of ciphertext and tag; none if the tag does not verify (R430). -/
opaque gcmOpen : List Byte → List Byte → List Byte → List Byte → Option (List Byte)

end Sys2Proof.Config
end

