-- ==== Sys2Proof/Machine/Bits.lean ====
section
/-! DEFINITION. Bit fields, byte order, checksums, sparse memories and fixed files: the helpers every meaning uses. -/

namespace Sys2Proof.Machine

open Sys2Proof

/-- Bits `hi` to `lo` of a word, as a number (R6). -/
def bits (w hi lo : Nat) : Nat := (w >>> lo) % 2 ^ (hi + 1 - lo)

/-- Bit `i` of a word. -/
def bit (w i : Nat) : Bool := w.testBit i

/-- The number 1 for true and 0 for false. -/
def b2n (b : Bool) : Nat := if b then 1 else 0

/-- A number cut to `n` bits. -/
def cut (n v : Nat) : Nat := v % 2 ^ n

/-- A counter of `n` bits that saturates. -/
def sat (n v : Nat) : Nat := min v (2 ^ n - 1)

/-- Two's complement reading of the low `n` bits. -/
def sext (n v : Nat) : Int :=
  let w := v % 2 ^ n
  if 2 * w < 2 ^ n then (w : Int) else (w : Int) - 2 ^ n

/-- The `n`-bit two's complement pattern of an integer. -/
def enc (n : Nat) (v : Int) : Nat := (v % 2 ^ n).toNat

/-- Little-endian bytes of the low `8 n` bits (R6). -/
def le : Nat → Nat → List Byte
  | 0, _ => []
  | n + 1, v => BitVec.ofNat 8 v :: le n (v / 256)

/-- Little-endian bytes of a two's complement integer. -/
def leI (n : Nat) (v : Int) : List Byte := le n (enc (8 * n) v)

/-- The number that little-endian bytes spell (R6). -/
def unle : List Byte → Nat
  | [] => 0
  | b :: bs => b.toNat + 256 * unle bs

/-- The number at offset `off` of `n` bytes; bytes past the end count as zero. -/
def rd (bs : List Byte) (off n : Nat) : Nat := unle ((bs.drop off).take n)

/-- 32-bit word `i` of a byte list. -/
def rdw (bs : List Byte) (i : Nat) : Nat := rd bs (4 * i) 4

/-- `n` zero bytes. -/
def zeros (n : Nat) : List Byte := List.replicate n 0

/-- Bytes padded with zeros to a multiple of `k`. -/
def padTo (k : Nat) (bs : List Byte) : List Byte := bs ++ zeros ((k - bs.length % k) % k)

/-- Little-endian 32-bit words. -/
def words (ws : List Nat) : List Byte := ws.flatMap (le 4)

/-- The indexes of the bits set in the low `n` bits, ascending. -/
def setBits (n v : Nat) : List Nat := (List.range n).filter (fun i => v.testBit i)

/-- The mask with the listed bits set. -/
def maskOf (is : List Nat) : Nat := is.foldl (fun m i => m ||| 2 ^ i) 0

/-- A list cut into pieces of `k` elements, the last one shorter; `fuel` bounds the number of pieces. -/
def chunksAux {α : Type} (k : Nat) : Nat → List α → List (List α)
  | 0, _ => []
  | n + 1, xs => if xs.isEmpty then [] else xs.take k :: chunksAux k n (xs.drop k)

/-- A list cut into pieces of `k` elements. -/
def chunks {α : Type} (k : Nat) (xs : List α) : List (List α) := chunksAux k (xs.length + 1) xs

/-- One bit step of the reflected CRC-32C (R37). -/
def crcBit (c : Nat) : Nat := if c % 2 = 1 then (c / 2) ^^^ 0x82F63B78 else c / 2

/-- One byte step of the reflected CRC-32C (R37). -/
def crcByte (c : Nat) (b : Byte) : Nat :=
  crcBit (crcBit (crcBit (crcBit (crcBit (crcBit (crcBit (crcBit (c ^^^ b.toNat))))))))

/-- CRC-32C (Castagnoli) of a byte list (R37). -/
def crc32c (bs : List Byte) : Nat := (bs.foldl crcByte 0xFFFFFFFF) ^^^ 0xFFFFFFFF

/-- Quotient rounded up. -/
def ceilDiv (a d : Nat) : Nat := (a + d - 1) / d

/-- Integer square root by bisection over `fuel` bits: the largest `r` with `r * r ≤ n`. -/
def isqrtAux (n : Nat) : Nat → Nat → Nat
  | 0, r => r
  | k + 1, r => let t := r + 2 ^ k; isqrtAux n k (if t * t ≤ n then t else r)

/-- Integer square root of a number below `2 ^ 160`. -/
def isqrt (n : Nat) : Nat := isqrtAux n 80 0

/-- The value a sparse memory holds at an address; an address that is not listed holds `z`. -/
def cellGet {α : Type} (z : α) : List (Nat × α) → Nat → α
  | [], _ => z
  | (a, v) :: m, x => if a = x then v else cellGet z m x

/-- A sparse memory with one address written; writing `z` drops the entry. -/
def cellSet {α : Type} [DecidableEq α] (z : α) : List (Nat × α) → Nat → α → List (Nat × α)
  | [], x, v => if v = z then [] else [(x, v)]
  | (a, u) :: m, x, v =>
    if x < a then (if v = z then (a, u) :: m else (x, v) :: (a, u) :: m)
    else if x = a then (if v = z then m else (x, v) :: m)
    else (a, u) :: cellSet z m x v

/-- The canonical form of a sparse memory: addresses strictly rising, no entry equal to `z`. -/
def cellWf {α : Type} [DecidableEq α] (z : α) : List (Nat × α) → Bool
  | [] => true
  | [(_, v)] => !decide (v = z)
  | (a, v) :: (b, w) :: m => !decide (v = z) && decide (a < b) && cellWf z ((b, w) :: m)

end Sys2Proof.Machine

namespace Sys2Proof

open Sys2Proof.Machine

/-- The byte at an address. [DESIGN CHOICE, log 8] [DESIGN CHOICE, log 9] -/
def Mem.byte (m : Mem) (a : Nat) : Byte := cellGet 0 m a

/-- Memory with one byte written. -/
def Mem.setByte (m : Mem) (a : Nat) (v : Byte) : Mem := cellSet 0 m a v

/-- The canonical form of a byte memory. [DESIGN CHOICE, log 9] -/
def Mem.wf (m : Mem) : Bool := cellWf 0 m

/-- The `n` bytes from an address on. -/
def Mem.read (m : Mem) : Nat → Nat → List Byte
  | _, 0 => []
  | a, n + 1 => Mem.byte m a :: Mem.read m (a + 1) n

/-- Memory with bytes written from an address on. -/
def Mem.write (m : Mem) : Nat → List Byte → Mem
  | _, [] => m
  | a, v :: vs => Mem.write (Mem.setByte m a v) (a + 1) vs

/-- Memory with a range of addresses cleared. -/
def Mem.clear (m : Mem) (a n : Nat) : Mem := m.filter (fun e => e.1 < a || a + n ≤ e.1)

/-- The stored codeword at an index. [DESIGN CHOICE, log 9] -/
def CMem.code (m : CMem) (a : Nat) : Codeword := cellGet 0 m a

/-- Codeword memory with one codeword stored. -/
def CMem.setCode (m : CMem) (a : Nat) (v : Codeword) : CMem := cellSet 0 m a v

/-- The canonical form of a codeword memory. [DESIGN CHOICE, log 9] -/
def CMem.wf (m : CMem) : Bool := cellWf 0 m

end Sys2Proof

namespace Sys2Proof.Machine

open Sys2Proof

/-- A file with one element changed. -/
def vmod {α : Type} {n : Nat} (v : Vector α n) (i : Fin n) (f : α → α) : Vector α n := v.set i (f v[i])

/-- A file with every element changed. -/
def vmap {α : Type} {n : Nat} (v : Vector α n) (f : Fin n → α → α) : Vector α n :=
  (List.finRange n).foldl (fun w i => vmod w i (f i)) v

/-- A fold over the indexes of a file, ascending. -/
def forFin {σ : Type} (n : Nat) (f : Fin n → σ → σ) (s : σ) : σ :=
  (List.finRange n).foldl (fun t i => f i t) s

/-- The index of a file cut to its size. -/
def fin (n : Nat) [NeZero n] (v : Nat) : Fin n := Fin.ofNat n v

/-- A number put in its place in an ascending list. -/
def insNat (x : Nat) : List Nat → List Nat
  | [] => [x]
  | y :: l => if x < y then x :: y :: l else if x = y then y :: l else y :: insNat x l

/-- The numbers of a list ascending, each once. -/
def sortNat (l : List Nat) : List Nat := l.foldr insNat []

/-- An item put in its place in a list by a key, behind items of the same key. -/
def insBy {α : Type} (key : α → Nat) (x : α) : List α → List α
  | [] => [x]
  | y :: l => if key x < key y then x :: y :: l else y :: insBy key x l

/-- A list in ascending order of a key; items of one key keep their order. -/
def sortBy {α : Type} (key : α → Nat) (l : List α) : List α := l.foldl (fun a x => insBy key x a) []

/-- Sum of integers. -/
def sumI (l : List Int) : Int := l.foldl (fun a x => a + x) 0
/-- Smallest of a list of integers. -/
def minI (l : List Int) : Int := l.foldl min (l.headD 0)
/-- Largest of a list of integers. -/
def maxI (l : List Int) : Int := l.foldl max (l.headD 0)
/-- Mean rounded half up (R216). [DEDUCED, log 62] -/
def meanI (l : List Int) : Int := (2 * sumI l + l.length) / (2 * l.length)
/-- Standard deviation over all values, rounded half up. [DEDUCED, log 62] -/
def sigmaI (l : List Int) : Nat :=
  let n := l.length
  let sq := sumI (l.map (fun x => x * x))
  let a := (n * sq - sumI l * sumI l).toNat
  (isqrt (4 * a) + n) / (2 * n)

end Sys2Proof.Machine
end

