-- ==== Sys2Proof/Machine/State.lean ====
section
/-! DEFINITION. The state of the block as plain data: every register, buffer, queue, counter, mode and pin of the spec,
with its reset value as the field's default. Each field names the spec's chapter and rule. -/

namespace Sys2Proof.Machine

open Sys2Proof

/-- A memory write that the device issued as bus master (R28). -/
structure BusWrite where
  addr : Nat
  bytes : List Byte
  deriving DecidableEq, Repr

/-- Who owns a resource (R10, R49). -/
inductive Owner where
  | none
  | ctx (c : Fin 8)
  | secure
  deriving DecidableEq, Repr

/-- Phase of a sequencer: STATE of R148. -/
inductive SeqSt where
  | idle
  | admitted
  | running
  | ending
  deriving DecidableEq, Repr

/-- What a running sequencer repeats its vector for: WAIT of R148. -/
inductive Wait where
  | none
  | matching
  | tapw
  | sync
  deriving DecidableEq, Repr

/-- The decision that a conditional or waiting vector has left for the issue of the next vector (R124 to R128). -/
inductive Dec where
  | none
  | jmpf (target : Nat)
  | jmpg (glob : Bool) (gt : Fin 16) (target : Nat)
  | matching (n target : Nat)
  | tapw (chan : Fin 64) (n : Nat)
  deriving DecidableEq, Repr

/-- Output of a compare comparator (R203, R204). -/
inductive CompSt where
  | low
  | high
  | invalid
  deriving DecidableEq, Repr

/-- The two driven levels (R182). -/
inductive Level where
  | vil
  | vih
  deriving DecidableEq, Repr

/-- Pin codes of a vector beat (R110). -/
inductive Code where
  | k
  | d0
  | d1
  | dz
  | el
  | eh
  | em
  | cp
  deriving DecidableEq, Repr

/-- What the formatter does at a placed drive event (R180, R182). -/
inductive DrvAct where
  /-- a level is assigned, which turns the driver ON. -/
  | assign (l : Level)
  /-- D_ON: the driver turns ON if it is OFF, at a level or at the last one driven. -/
  | turnOn (l : Option Level)
  /-- a code other than a drive code: the driver turns OFF, or the load is updated if it is OFF. -/
  | release (c : Code)
  /-- a reflex edge of an ACTION; no drive event. -/
  | reflex (action : Nat)
  /-- the halt state; no drive event. -/
  | halt (mode : Nat)
  /-- vector 0 of a burst begins at the pin; no drive event. -/
  | start
  deriving DecidableEq, Repr

/-- Phase of a capture engine: STATE of R275. -/
inductive CapSt where
  | idle
  | waitTap
  | ready
  | post
  | rearm
  | done
  | draining
  deriving DecidableEq, Repr

/-- Phase of an interval unit (R294, R303). -/
inductive TmuSt where
  | idle
  | setting
  | ready
  | measuring
  | latch
  deriving DecidableEq, Repr

/-- Phase of a live takeover (R361, R371). -/
inductive TakeSt where
  | idle
  | prepare
  | search
  | carry
  | handback
  deriving DecidableEq, Repr

/-- Phase of the ring (R417). -/
inductive RingSt where
  | down
  | linking
  | training
  | ready
  | lost
  deriving DecidableEq, Repr

/-- An 80-bit timestamp (R153): time in fine LSB and the seven flag bits. -/
structure Ts where
  /-- TICK and FINE joined: tick count times 512 plus the fine field (R153, 00). -/
  fine : Nat := 0
  /-- RING 6, HOLD 5, SRC 4:3, WIDE 2, CLASH 1, REC 0 (R153, 00). -/
  flags : Nat := 0
  deriving DecidableEq, Repr

/-- What a later response of a command needs of its packet (R38, R40). -/
structure Hdr where
  /-- mailbox the packet came from (R40, 02). -/
  mb : Fin 8 := 0
  /-- OPCODE echoed (R40, 02). -/
  opcode : Nat := 0
  /-- E, C, N, S echoed (R40, 02). -/
  flags : Nat := 0
  /-- CONTEXT echoed (R40, 02). -/
  context : Nat := 0
  /-- TAG echoed (R40, 02). -/
  tag : Nat := 0
  /-- response ring named by RSEL (R38, 02). -/
  ring : Fin 4 := 0
  /-- the session that it belongs to has ended without responses (R51, 02). -/
  gone : Bool := false
  /-- sealed session that its response is sealed in (R430, 16). -/
  sess : Nat := 0
  deriving DecidableEq, Repr

/-- One response, notice or stream entry that is formed (R40). -/
structure Entry where
  /-- opcode, context, tag and the echoed flags (R40, 02). -/
  hdr : Hdr := {}
  /-- FLAGS bit 5 MORE (R40, 02). -/
  more : Bool := false
  /-- FLAGS bit 4 U (R40, 02). -/
  unsol : Bool := false
  /-- STATUS (R69, 02). -/
  status : Nat := 0
  /-- DETAIL (R40, 02). -/
  detail : Nat := 0
  /-- SUBCODE (R69, 02). -/
  sub : Nat := 0
  /-- timestamp (R40, 02). -/
  ts : Ts := {}
  /-- payload in plain (R40, 02). -/
  payload : List Byte := []
  /-- the entry is sealed when it is posted (R430, 16). -/
  wrap : Bool := false
  /-- posting it takes the command out of flight (R52, 02). -/
  finishes : Bool := false
  /-- it is the close response of its context (R50, 02). -/
  closes : Bool := false
  /-- sequencer whose burst ends when it is posted (R141, 04). -/
  ends : Option (Fin 4) := none
  /-- group and pins whose PPMU entries it keeps locked until it is posted (R216, 07). -/
  locks : Option (Fin 8 × Nat) := none
  /-- sequencer and number of Fail Log records freed when it is posted (R251, 08). -/
  flogFree : Option (Fin 4 × Nat) := none
  deriving DecidableEq, Repr

/-- One response ring of a context (R41 to R45). -/
structure Ring where
  /-- the context has opened it (R45, 02). -/
  isOpen : Bool := false
  /-- BASE (R45, 02). -/
  base : Nat := 0
  /-- ring size in bytes (R45, 02). -/
  size : Nat := 0
  /-- MSIX_VEC (R43, 02). -/
  vec : Nat := 0
  /-- TIME, µs (R43, 02). -/
  time : Nat := 0
  /-- COUNT (R43, 02). -/
  count : Nat := 0
  /-- RING_PRODk, 32-byte units (R30, 02). -/
  prod : Nat := 0
  /-- RING_CONSk, 32-byte units (R487, 02). -/
  cons : Nat := 0
  /-- SEQ of the next entry (R41, 02). -/
  seq : Nat := 1
  /-- entries that wait to be posted, oldest first (R42, 02). -/
  queue : List Entry := []
  /-- entries posted since the last signal (R43, 02). -/
  unsignaled : Nat := 0
  /-- tick of the first entry not yet signaled (R43, 02). -/
  firstUnsig : Nat := 0
  deriving DecidableEq, Repr

/-- A staged write as it is kept in the staging set (R60). -/
structure Staged where
  /-- opcode of the write (R60, 02). -/
  opcode : Nat := 0
  /-- the packet: form, arguments and payload (R60, 02). -/
  pkt : Pkt := {}
  deriving DecidableEq, Repr

/-- A FENCE that waits (R55). -/
structure Fence where
  /-- its header (R55, 02). -/
  hdr : Hdr := {}
  /-- tags of the earlier commands still in flight (R55, 02). -/
  waits : List Nat := []
  deriving DecidableEq, Repr

/-- Sealed-session state of a context (R429 to R431). -/
structure SealSt where
  /-- a session is open (R429, 16). -/
  isOpen : Bool := false
  /-- SESSION number (R429, 16). -/
  session : Nat := 0
  /-- key of commands (R429, 16). -/
  kH2d : List Byte := []
  /-- key of responses (R429, 16). -/
  kD2h : List Byte := []
  /-- COUNTER of the last command accepted (R431, 16). -/
  lastH2d : Nat := 0
  /-- next device-to-host COUNTER (R431, 16). -/
  nextD2h : Nat := 1
  /-- an OFFER waits for its ACCEPT (R429, 16). -/
  offered : Bool := false
  /-- tick of the OFFER (R429, 16). -/
  offerTick : Nat := 0
  /-- which ephemeral decapsulation key the enclave holds (R420, 16). -/
  kemSeed : Nat := 0
  /-- device nonce n_d (R429, 16). -/
  nonceD : List Byte := []
  /-- tags of sealed commands in flight (R429, 16). -/
  tags : List Nat := []
  /-- a SEAL_OPEN CLOSE that waits for them (R429, 16). -/
  closing : Option Hdr := none
  deriving DecidableEq, Repr

/-- One context with its mailbox (R30, R32, R45 to R55). -/
structure Ctx where
  /-- DOORBELL.PROD (R30, 02). -/
  prod : Nat := 0
  /-- MB_CONS (R30, 02). -/
  cons : Nat := 0
  /-- the 1 MiB mailbox window (R32, 02). -/
  window : Mem := []
  /-- CTX_STATE.OPEN (R30, 02). -/
  isOpen : Bool := false
  /-- CTX_STATE.EXPERT (R30, 02). -/
  expert : Bool := false
  /-- CTX_STATE.OFFICER (R30, 02). -/
  officer : Bool := false
  /-- CTX_STATE.ALLOW_CYCLE (R30, 02). -/
  allowCycle : Bool := false
  /-- CTX_STATE.CLOSING (R50, 02). -/
  closing : Bool := false
  /-- tags in flight; its length is CTX_STATE.INFLIGHT (R52, 02). -/
  inflight : List Nat := []
  /-- CTX_QUOTA (R30, 02). -/
  quota : Nat := 0
  /-- DROPPED (R30, 02). -/
  dropped : Nat := 0
  /-- INTAKE_ERR BAD_PACKET count (R30, 02). -/
  badPacket : Nat := 0
  /-- INTAKE_ERR BAD_CRC count (R30, 02). -/
  badCrc : Nat := 0
  /-- LAST_ERR status (R30, 02). -/
  lastStatus : Nat := 0
  /-- LAST_ERR subcode (R30, 02). -/
  lastSub : Nat := 0
  /-- DELAYED_CNT (R30, 02). -/
  delayed : Nat := 0
  /-- response rings (R45, 02). -/
  rings : Vector Ring 4 := Vector.replicate 4 {}
  /-- the staging set, oldest first (R66, 02). -/
  stage : List Staged := []
  /-- FENCEs that wait (R55, 02). -/
  fences : List Fence := []
  /-- an accepted CTX_CLOSE that waits for earlier commands (R50, 02). -/
  closeHdr : Option Hdr := none
  /-- OP NOTICE ENABLE (R388, 14). -/
  noticeOn : Bool := true
  /-- OP NOTICE MIN_CLASS (R388, 14). -/
  noticeMin : Nat := 1
  /-- ring of Gong notices (R391, 14). -/
  noticeRing : Fin 4 := 0
  /-- notices dropped since the last one posted (R391, 14). -/
  noticeLost : Nat := 0
  /-- officer challenge in force; empty if none (R426, 16). -/
  challenge : List Byte := []
  /-- tick at which it was issued (R426, 16). -/
  challengeTick : Nat := 0
  /-- sealed session (R429, 16). -/
  session : SealSt := {}
  deriving DecidableEq, Repr

/-- PCIe function and BAR0 state that no context owns (R27 to R31, R43). -/
structure HostLink where
  /-- the link is in L0 (R450, 17). -/
  linkUp : Bool := false
  /-- link training is enabled (R450, 17). -/
  training : Bool := false
  /-- PERST_N is held low (R446, 17). -/
  perstLow : Bool := false
  /-- TIME0 to TIME2 latch (R31, 02). -/
  timeLatch : Nat := 0
  /-- XB_BUSY.COLLIDED (R30, 02). -/
  xbCollided : Bool := false
  /-- XB_BUSY collision count (R30, 02). -/
  xbCollisions : Nat := 0
  /-- data of the last host read completion (R29, 02). -/
  readData : Nat := 0
  /-- its EP bit (R341, 12). -/
  readPoison : Bool := false
  /-- MSI-X table: address low, high, data, control (R27, 02). -/
  msix : Vector (Vector Word 4) 64 := Vector.replicate 64 (Vector.replicate 4 0)
  /-- MSI-X pending-bit array (R27, 02). -/
  pba : Nat := 0
  /-- memory writes the device has issued as bus master, newest first (R28, 02). -/
  bus : List BusWrite := []
  deriving DecidableEq, Repr

/-- One timing set of a group (R160, R161): header fields and sixteen pin entries of twenty words. -/
structure TSet where
  /-- KIND (R160, 05). -/
  kind : Nat := 0
  /-- PF_MASK (R160, 05). -/
  pfMask : Nat := 0
  /-- NB_LOG2 (R160, 05). -/
  nbLog2 : Nat := 0
  /-- pin entries; 0xFFFFFFFF is NONE (R161, 05). -/
  pins : Vector (Vector Word 20) 16 := Vector.replicate 16 (Vector.replicate 20 0xFFFFFFFF)
  deriving DecidableEq, Repr

/-- A range mask entry (R235). -/
structure RangeEnt where
  /-- PINS (R235, 08). -/
  pins : Nat := 0
  /-- EN (R235, 08). -/
  en : Bool := false
  /-- FIRST (R235, 08). -/
  first : Nat := 0
  /-- LAST (R235, 08). -/
  last : Nat := 0
  deriving DecidableEq, Repr

/-- A reflex entry (R192). -/
structure ReflexCfg where
  /-- ENABLE (R192, 06). -/
  enable : Bool := false
  /-- ACTION (R192, 06). -/
  action : Nat := 0
  /-- ONCE (R192, 06). -/
  once : Bool := false
  /-- SRC_EDGE (R192, 06). -/
  srcEdge : Nat := 0
  /-- SRC_COMP (R192, 06). -/
  srcComp : Nat := 0
  /-- SRC_PIN (R192, 06). -/
  srcPin : Nat := 0
  /-- REARM (R192, 06). -/
  rearm : Nat := 0
  deriving DecidableEq, Repr

/-- Committed table entries of one pin (R169, R186, R187, R192, R199, R367). -/
structure PinCfg where
  /-- DSK_D, fine LSB (R169, 05). -/
  dskD : Int := 0
  /-- DSK_S, fine LSB (R169, 05). -/
  dskS : Int := 0
  /-- FORMAT (R186, 06). -/
  format : Nat := 0
  /-- OFF_MODE TERM (R186, 06). -/
  offTerm : Bool := false
  /-- EDGE_RATE as written (R186, 06). -/
  edgeRate : Nat := 0
  /-- edge rate in force: AUTO resolved at commit (R186, 06). -/
  edgeSel : Nat := 2
  /-- load MODE (R187, 06). -/
  loadMode : Nat := 0
  /-- IOL code of 6 µA (R187, 06). -/
  iol : Nat := 0
  /-- IOH code of 6 µA (R187, 06). -/
  ioh : Nat := 0
  /-- VCOM code of 125 µV (R187, 06). -/
  vcom : Int := 0
  /-- reflex entry (R192, 06). -/
  reflex : ReflexCfg := {}
  /-- VIH code (R199, 07). -/
  vih : Int := 8000
  /-- VIL code (R199, 07). -/
  vil : Int := 0
  /-- VT code (R199, 07). -/
  vt : Int := 0
  /-- VOH code (R199, 07). -/
  voh : Int := 4800
  /-- VOL code (R199, 07). -/
  vol : Int := 3200
  /-- PAIR_SPAN (R199, 07). -/
  pairSpan : Nat := 32
  /-- HYST (R199, 07). -/
  hyst : Nat := 2
  /-- SOURCE REFLECT (R367, 13). -/
  fixReflect : Bool := false
  /-- FIX_TABLE, fine LSB (R367, 13). -/
  fixTable : Nat := 0
  deriving DecidableEq, Repr

/-- Committed tables of one group. -/
structure GrpCfg where
  /-- timing-set table (R160, 05). -/
  sets : Vector TSet 64 := Vector.replicate 64 {}
  /-- PLANE (R169, 05). -/
  plane : Nat := 0
  /-- pin entries (R186, 06). -/
  pins : Vector PinCfg 16 := Vector.replicate 16 {}
  /-- pin mask (R235, 08). -/
  pinMask : Nat := 0
  /-- range entries (R235, 08). -/
  ranges : Vector RangeEnt 16 := Vector.replicate 16 {}
  deriving DecidableEq, Repr

/-- Committed fields of one sequencer (R112, R156, R235). -/
structure SeqCfg where
  /-- BEATS_LOG2 (R112, 04). -/
  beatsLog2 : Nat := 0
  /-- CODE (R112, 04). -/
  compact : Bool := false
  /-- GLOBAL (R112, 04). -/
  global : Bool := false
  /-- HALT_MODE (R112, 04). -/
  haltMode : Nat := 0
  /-- role mask (R112, 04). -/
  roles : Nat := 0
  /-- period file, fine LSB (R156, 05). -/
  pf : Vector Nat 4 := #v[8192,0,0,0]
  /-- FM_BLOCKS (R235, 08). -/
  fmBlocks : Nat := 0
  /-- FM_SHIFT (R235, 08). -/
  fmShift : Nat := 0
  /-- FM_CLEAR (R235, 08). -/
  fmClear : Bool := true
  /-- FM_BASE (R235, 08). -/
  fmBase : Nat := 0
  /-- FM_PINS (R235, 08). -/
  fmPins : Nat := 0
  /-- LOG_MODE (R235, 08). -/
  logMode : Nat := 1
  /-- LOG_N (R235, 08). -/
  logN : Nat := 0
  deriving DecidableEq, Repr

/-- Committed configuration of one capture engine (R259). -/
structure CapCfg where
  /-- MODE (R259, 09). -/
  mode : Nat := 0
  /-- SEQ (R259, 09). -/
  seq : Fin 4 := 0
  /-- PRE_VECTORS (R259, 09). -/
  pre : Nat := 0
  /-- POST_VECTORS (R259, 09). -/
  post : Nat := 0
  /-- SEG (R259, 09). -/
  seg : Nat := 16
  /-- K_CAP (R259, 09). -/
  kCap : Nat := 4
  /-- START_LEVEL (R259, 09). -/
  startLevel : Nat := 0
  /-- NO_STEP_UP (R259, 09). -/
  noStepUp : Bool := false
  /-- EDGE_DIR (R259, 09). -/
  edgeDir : Nat := 0
  /-- SQ_QUAL (R259, 09). -/
  sqQual : Nat := 0
  /-- TAP_QUAL (R259, 09). -/
  tapQual : Nat := 0
  /-- RAW_COMP (R259, 09). -/
  rawComp : Nat := 0
  /-- TRIG_SRC RAW (R259, 09). -/
  trigRaw : Bool := false
  /-- TRIG_EDGE (R259, 09). -/
  trigEdge : Nat := 0
  /-- LANES (R259, 09). -/
  lanes : Nat := 0
  /-- TRIG_PIN (R259, 09). -/
  trigPin : Fin 128 := 0
  /-- COUNT_LOG2 (R259, 09). -/
  countLog2 : Nat := 8
  /-- HIST_LOG2 (R259, 09). -/
  histLog2 : Nat := 12
  /-- HIST_BIN_LOG2 (R259, 09). -/
  histBin : Nat := 4
  /-- N (R259, 09). -/
  n : Nat := 1
  /-- VTRIG code (500,000 µV by R198) (R259, 09). -/
  vtrig : Int := 4000
  /-- HOLDOFF_NS (R259, 09). -/
  holdoffNs : Nat := 0
  /-- AUTO_US (R259, 09). -/
  autoUs : Nat := 1000
  /-- HIST_START (R259, 09). -/
  histStart : Int := 0
  /-- QUAL_NS (R259, 09). -/
  qualNs : Nat := 0
  /-- SEL_PINS (R259, 09). -/
  selPins : Nat := 0
  /-- CARE (R259, 09). -/
  care : Nat := 0
  /-- VALUE (R259, 09). -/
  value : Nat := 0
  deriving DecidableEq, Repr

/-- Everything that COMMIT writes, as committed. -/
structure Cfg where
  /-- sequencer fields (R62, 02). -/
  seqs : Vector SeqCfg 4 := Vector.replicate 4 {}
  /-- group tables (R62, 02). -/
  grps : Vector GrpCfg 8 := Vector.replicate 8 {}
  /-- engine fields (R62, 02). -/
  caps : Vector CapCfg 8 := Vector.replicate 8 {}
  deriving DecidableEq, Repr

/-- One part of a commit still to take effect at a sequencer's vector (R61). -/
structure CommitPart where
  /-- the running sequencer (R61, 02). -/
  seq : Fin 4 := 0
  /-- the writes whose fields it owns (R61, 02). -/
  writes : List Staged := []
  deriving DecidableEq, Repr

/-- One COMMIT response entry (R61). -/
structure CommitRep where
  /-- SEQ (R61, 02). -/
  seq : Fin 4 := 0
  /-- AT_BOUNDARY (R61, 02). -/
  atBoundary : Bool := false
  /-- VECTOR (R61, 02). -/
  vector : Nat := 0
  deriving DecidableEq, Repr

/-- A commit whose strobe is out, or waits for its tick (R61, R65). -/
structure PendCommit where
  /-- header of the response (R61, 02). -/
  hdr : Hdr := {}
  /-- context (R61, 02). -/
  ctx : Fin 8 := 0
  /-- named tick (R65, 02). -/
  atTick : Nat := 0
  /-- the strobe waits for the named tick (R65, 02). -/
  waiting : Bool := false
  /-- the whole set, while the strobe waits (R61, 02). -/
  all : List Staged := []
  /-- parts not yet in effect (R61, 02). -/
  parts : List CommitPart := []
  /-- entries known (R61, 02). -/
  reps : List CommitRep := []
  /-- STAGED payload of a write with C (R61, 02). -/
  payload : List Byte := []
  /-- timestamp of the strobe (R65, 02). -/
  ts : Ts := {}
  deriving DecidableEq, Repr

/-- One 64-byte line in a fetch buffer (R94). -/
structure BufLine where
  /-- pattern address of the line (R94, 03). -/
  addr : Nat := 0
  /-- its bytes (R94, 03). -/
  data : List Byte := []
  /-- its block's written bit was set (R78, 03). -/
  written : Bool := false
  /-- it holds an uncorrectable word (R79, 03). -/
  ue : Bool := false
  /-- its page is sealed (R255, 08). -/
  sealed : Bool := false
  /-- time from which it is usable, fine LSB (R94, 03). -/
  usable : Nat := 0
  deriving DecidableEq, Repr

/-- A page plan entry (R90). -/
structure PlanEnt where
  /-- PAGE (R90, 03). -/
  page : Nat := 0
  /-- FIRST_USE (R90, 03). -/
  firstUse : Nat := 0
  /-- the moment of its demand has passed (R92, 03). -/
  past : Bool := false
  deriving DecidableEq, Repr

/-- A loop frame (R122). -/
structure LoopFr where
  /-- address of the LPB (R122, 04). -/
  addr : Nat := 0
  /-- iterations left (R122, 04). -/
  count : Nat := 0
  deriving DecidableEq, Repr

/-- A call frame (R122). -/
structure CallFr where
  /-- return address (R122, 04). -/
  ret : Nat := 0
  /-- loop depth saved (R122, 04). -/
  depth : Nat := 0
  deriving DecidableEq, Repr

/-- A flag-related result on its way to a sequencer (R133, R252). -/
structure FlagRes where
  /-- burst vector number (R133, 04). -/
  vec : Nat := 0
  /-- result timestamp (R253, 08). -/
  ts : Ts := {}
  /-- strobe close, fine LSB (R252, 08). -/
  close : Nat := 0
  /-- CLASS FAIL or INVALID (R133, 04). -/
  isFail : Bool := false
  /-- belongs to a MATCH repetition (R126, 04). -/
  isMatch : Bool := false
  /-- NOFLAG vector (R133, 04). -/
  noflag : Bool := false
  /-- an unmasked EL, EH or EM strobe (R126, 04). -/
  expects : Bool := false
  /-- group (R253, 08). -/
  grp : Fin 8 := 0
  deriving DecidableEq, Repr

/-- A result byte on its way to the capture island (R252). -/
structure CapRes where
  /-- pin (R252, 08). -/
  pin : Fin 128 := 0
  /-- result byte (R230, 08). -/
  result : Nat := 0
  /-- beat (R248, 08). -/
  beat : Nat := 0
  /-- result timestamp (R231, 08). -/
  ts : Ts := {}
  /-- strobe close (R252, 08). -/
  close : Nat := 0
  /-- burst vector number (R248, 08). -/
  vec : Nat := 0
  /-- vector address (R248, 08). -/
  addr : Nat := 0
  /-- MARK field (R248, 08). -/
  mark : Nat := 0
  /-- BEAT field of the vector (R277, 09). -/
  beatLog2 : Nat := 0
  /-- NOFLAG (R248, 08). -/
  noflag : Bool := false
  /-- sealed (R255, 08). -/
  sealed : Bool := false
  /-- vector start (R277, 09). -/
  vstart : Nat := 0
  deriving DecidableEq, Repr

/-- What is kept of an issued vector while its results and edges are taken (R104, R263, R277). -/
structure VecRec where
  /-- burst vector number (R104, 04). -/
  vec : Nat := 0
  /-- vector address (R103, 04). -/
  addr : Nat := 0
  /-- start, fine LSB (R165, 05). -/
  start : Nat := 0
  /-- end, fine LSB (R165, 05). -/
  fin : Nat := 0
  /-- SQ flag (R107, 04). -/
  sq : Bool := false
  /-- repetition of a MATCH, TAPW or SYNC (R264, 09). -/
  waitRep : Bool := false
  /-- fail flag when issued (R264, 09). -/
  flagSet : Bool := false
  /-- burst sealed at it (R255, 08). -/
  sealed : Bool := false
  /-- strobes it placed on unmasked pins with an expectation (R126, 04). -/
  strobes : Nat := 0
  /-- valid passes known of them (R126, 04). -/
  passes : Nat := 0
  /-- one of them did not pass (R126, 04). -/
  failed : Bool := false
  /-- groups whose FAIL_Gg it has raised (R253, 08). -/
  failGrps : Nat := 0
  /-- it has updated the Fail Map (R242, 08). -/
  mapped : Bool := false
  /-- latest strobe close, fine LSB (R262, 09). -/
  lastClose : Nat := 0
  /-- latest strobe close among the valid passes known (R126, 04). -/
  passClose : Nat := 0
  /-- latest strobe close of each pin with a strobe (R262, 09). -/
  closes : List (Fin 128 × Nat) := []
  deriving DecidableEq, Repr

/-- One vector sequencer (R101 to R148). -/
structure Seq where
  /-- owning context or SECURE (R101, 04). -/
  owner : Owner := .none
  /-- STATE (R148, 04). -/
  st : SeqSt := .idle
  /-- WAIT (R148, 04). -/
  wait : Wait := .none
  /-- BASE (R120, 04). -/
  base : Nat := 0
  /-- active period-file entry (R120, 04). -/
  pf : Fin 4 := 0
  /-- fail flag (R133, 04). -/
  flag : Bool := false
  /-- vectors issued in the burst (R104, 04). -/
  vecs : Nat := 0
  /-- vector address due next (R103, 04). -/
  addr : Nat := 0
  /-- vector address of the last vector issued (R146, 04). -/
  lastAddr : Nat := 0xFFFFFFFF
  /-- loop stack, top first (R122, 04). -/
  loops : List LoopFr := []
  /-- call stack, top first (R122, 04). -/
  calls : List CallFr := []
  /-- start of the vector due next, fine LSB (R165, 05). -/
  nextStart : Nat := 0
  /-- start of vector 0, fine LSB (R165, 05). -/
  startFine : Nat := 0
  /-- START_VA (R139, 04). -/
  startVa : Nat := 0
  /-- START (R90, 03). -/
  patStart : Nat := 0
  /-- L of the burst (R105, 04). -/
  lineLen : Nat := 8
  /-- BURST_START in flight (R143, 04). -/
  hdr : Hdr := {}
  /-- context that started the burst (R81, 03). -/
  ctx : Fin 8 := 0
  /-- the burst was started by a SECURE packet (R49, 02). -/
  secure : Bool := false
  /-- descriptor address (R139, 04). -/
  descAddr : Nat := 0
  /-- its descriptor lies in a page (R83, 03). -/
  descHeld : Bool := false
  /-- plan entries that the store has read (R91, 03). -/
  plan : List PlanEnt := []
  /-- plan entries still to be read in SUP slots (R91, 03). -/
  planRest : List PlanEnt := []
  /-- pages demanded in this burst (R92, 03). -/
  demanded : List Nat := []
  /-- those demanded with UNPLANNED, with the tick of the demand (R93, 03). -/
  unplanned : List (Nat × Nat) := []
  /-- SEQ slots held (R95, 03). -/
  kSeq : Nat := 0
  /-- Bar positions held (R20, 01). -/
  slots : List Nat := []
  /-- streaming budget held, MB/s, rounded up (R143, 04). -/
  streamMbps : Nat := 0
  /-- streaming budget held, STREAM_BPV x 8, over streamDen GB/s (R95, 03). -/
  streamNum : Nat := 0
  /-- period of admission in fine LSB (R95, 03). -/
  streamDen : Nat := 1
  /-- admission tick (R140, 04). -/
  admTick : Nat := 0
  /-- shortest non-zero period at admission (R158, 05). -/
  admPeriod : Nat := 0
  /-- global burst (R143, 04). -/
  globalB : Bool := false
  /-- fetch buffer of the active path (R94, 03). -/
  buf : List BufLine := []
  /-- fetch buffer of the alternate path (R94, 03). -/
  alt : List BufLine := []
  /-- fetch pointer of the active path (R83, 03). -/
  fetchPtr : Nat := 0
  /-- fetch pointer of the alternate path (R83, 03). -/
  altPtr : Nat := 0
  /-- decision left for the issue of the next vector (R124, 04). -/
  dec : Dec := .none
  /-- time at which the fail flag was set, fine LSB (R124, 04). -/
  flagAt : Nat := 0
  /-- time at which a pass of the MATCH in progress is known (R126, 04). -/
  passAt : Option Nat := none
  /-- repetitions issued of the vector at addr (R117, 04). -/
  reps : Nat := 0
  /-- the vector due is an LPB reached by looping back (R122, 04). -/
  lpbPlain : Bool := false
  /-- issue time of the last conditional decision (R124, 04). -/
  decAt : Nat := 0
  /-- its alternate target (R135, 04). -/
  decTarget : Nat := 0
  /-- a conditional was issued in this burst (R135, 04). -/
  decAny : Bool := false
  /-- start to which a SYNC aligns (R130, 04). -/
  syncTo : Nat := 0
  /-- burst vector number of the last CLRF (R119, 04). -/
  clrfVec : Nat := 0
  /-- TAPW pending bits, one per channel (R128, 04). -/
  tapPend : Nat := 0
  /-- time at which the tap awaited became usable (R128, 04). -/
  tapSeen : Option Nat := none
  /-- channel of the TAPW that waits (R128, 04). -/
  tapwChan : Nat := 0
  /-- sample tick of the previous SRC 1 JMPG per GT in the burst, fine LSB (R137, 04). -/
  jmpgLast : Vector (Option Nat) 16 := Vector.replicate 16 none
  /-- arrival time of a BURST_STOP request (R144, 04). -/
  stopReq : Option Nat := none
  /-- arrival time of a forced-close request (R144, 04). -/
  closeReq : Option Nat := none
  /-- arrival time of a Gong abort (R144, 04). -/
  abortReq : Option Nat := none
  /-- arrival time of an AT_RESTART request (R147, 04). -/
  restartReq : Option Nat := none
  /-- results on their way to the sequencer (R252, 08). -/
  results : List FlagRes := []
  /-- results on their way to the capture island (R252, 08). -/
  capQ : List CapRes := []
  /-- issued vectors still needed, newest first (R263, 09). -/
  hist : List VecRec := []
  /-- strobes placed and not yet closed (R143, 04). -/
  strobesOut : Nat := 0
  /-- UNWRITTEN (R146, 04). -/
  unwritten : Bool := false
  /-- FAILED (R146, 04). -/
  failed : Bool := false
  /-- FIRST_FLAG (R146, 04). -/
  firstFlag : Nat := 0xFFFFFFFFFFFFFFFF
  /-- MATCH_TO (R146, 04). -/
  matchTo : Nat := 0
  /-- TAPW_TO (R146, 04). -/
  tapwTo : Nat := 0
  /-- vector at which the burst became sealed (R255, 08). -/
  sealedVec : Option Nat := none
  /-- END_REASON (R144, 04). -/
  endReason : Nat := 0
  /-- fault subcode (R132, 04). -/
  endSub : Nat := 0
  /-- END_TICK, fine LSB (R146, 04). -/
  endFine : Nat := 0
  /-- END_ADDR (R146, 04). -/
  endAddr : Nat := 0
  /-- ADDR and REASON of the store end record (R99, 03). -/
  storeEnd : Option (Nat × Nat) := none
  /-- EDGE_CLASH reported in this burst (R167, 05). -/
  clashSeen : Bool := false
  /-- FLOG_OVERFLOW reported in this burst (R250, 08). -/
  flogOver : Bool := false
  /-- changes of the fail flag of a running burst, newest first: time, value (R407, 15). -/
  flagHist : List (Nat × Bool) := []
  /-- NOHANDOFF of the last vector issued (R107, 04). -/
  noHand : Bool := false
  /-- BURST_STOPs on their way: header, arrival time, AT_RESTART (R147, 04). -/
  stops : List (Hdr × Nat × Bool) := []
  deriving DecidableEq, Repr

/-- A placed drive event of a pin (R180). -/
structure DrvEv where
  /-- placed time at the ball, fine LSB (R166, R167, 05). -/
  fine : Nat := 0
  /-- its time before the spacing rule (R166, 05). -/
  want : Nat := 0
  /-- what the formatter does (R180, 06). -/
  act : DrvAct := .turnOn none
  /-- it is a drive event in the driver state expected at it (R185, 06). -/
  live : Bool := false
  /-- CLASH (R167, 05). -/
  clash : Bool := false
  /-- burst vector number that placed it (R167, 05). -/
  vec : Nat := 0
  /-- its programmed time, vector start plus edge time (R292, 10). -/
  prog : Nat := 0
  deriving DecidableEq, Repr

/-- A placed strobe of a pin (R227). -/
structure StrobeEv where
  /-- strobe time or window opening, fine LSB (R227, 08). -/
  opens : Nat := 0
  /-- close (R227, 08). -/
  closes : Nat := 0
  /-- window strobe (R227, 08). -/
  window : Bool := false
  /-- EL, EH, EM or CP (R110, 04). -/
  code : Code := .k
  /-- beat (R240, 08). -/
  beat : Nat := 0
  /-- burst vector number (R240, 08). -/
  vec : Nat := 0
  /-- vector address (R240, 08). -/
  addr : Nat := 0
  /-- MARK field (R248, 08). -/
  mark : Nat := 0
  /-- BEAT field (R277, 09). -/
  beatLog2 : Nat := 0
  /-- masked when its vector was issued (R237, 08). -/
  masked : Bool := false
  /-- MATCH repetition (R230, 08). -/
  isMatch : Bool := false
  /-- NOFLAG (R107, 04). -/
  noflag : Bool := false
  /-- CLASH (R167, 05). -/
  clash : Bool := false
  /-- sealed (R255, 08). -/
  sealed : Bool := false
  /-- vector start (R165, 05). -/
  vstart : Nat := 0
  deriving DecidableEq, Repr

/-- A comparator crossing as timed (R220, R229). -/
structure Cross where
  /-- MEASURED time, fine LSB (R263, 09). -/
  t : Nat := 0
  /-- VOH comparator; else VOL (R202, 07). -/
  voh : Bool := false
  /-- rising (R220, 07). -/
  rising : Bool := false
  /-- vector in which it falls (R278, 09). -/
  vec : Option Nat := none
  deriving DecidableEq, Repr

/-- An edge pair or a single crossing taken (R220, R278). -/
structure Pair where
  /-- later crossing (R278, 09). -/
  t : Nat := 0
  /-- VOL crossing time (R221, 07). -/
  tl : Nat := 0
  /-- VOH crossing time (R221, 07). -/
  th : Nat := 0
  /-- direction (R220, 07). -/
  rising : Bool := false
  /-- single crossing (R220, 07). -/
  single : Bool := false
  deriving DecidableEq, Repr

/-- One compare comparator (R203 to R205). -/
structure CompS where
  /-- output state (R204, 07). -/
  out : CompSt := .invalid
  /-- time of the last enable, fine LSB (R204, 07). -/
  enabledAt : Nat := 0
  /-- time from which the output is valid, fine LSB (R204, 07). -/
  validAt : Nat := 0
  /-- disconnected from strobes by a measurement or self-check (R218, 07). -/
  off : Bool := false
  /-- output state before the last enable (R204, 07). -/
  prev : CompSt := .invalid
  deriving DecidableEq, Repr

/-- One guard comparator of a pin (R206, R207). -/
structure GuardS where
  /-- armed; else in the no-trip state (R207, 07). -/
  armed : Bool := false
  /-- trip latch (R206, 07). -/
  latched : Bool := false
  deriving DecidableEq, Repr

/-- The PPMU entry of a pin (R212). -/
structure PpmuEnt where
  /-- MODE (R212, 07). -/
  mode : Nat := 0
  /-- RANGE (R212, 07). -/
  range : Nat := 4
  /-- FORCE, µV or pA (R212, 07). -/
  force : Int := 0
  /-- FORCE as converted (R212, 07). -/
  forceCode : Int := 0
  /-- CLAMP_HI code (6,000,000 µV) (R212, 07). -/
  clampHi : Int := 48000
  /-- CLAMP_LO code (-1,500,000 µV) (R212, 07). -/
  clampLo : Int := -12000
  /-- SETTLE_US (R212, 07). -/
  settleUs : Nat := 0
  /-- response tick of the PPMU_SET (R214, 07). -/
  wroteTick : Nat := 0
  /-- settled (R214, 07). -/
  settled : Bool := true
  deriving DecidableEq, Repr

/-- First-fail record and counter of a pin (R238, R240). -/
structure FailRec where
  /-- HAS_FIRST (R240, 08). -/
  has : Bool := false
  /-- RESULT (R240, 08). -/
  result : Nat := 0
  /-- BEAT (R240, 08). -/
  beat : Nat := 0
  /-- SEALED (R240, 08). -/
  sealed : Bool := false
  /-- SAT (R240, 08). -/
  sat : Bool := false
  /-- ADDR (R240, 08). -/
  addr : Nat := 0
  /-- VECTOR (R240, 08). -/
  vec : Nat := 0
  /-- timestamp (R240, 08). -/
  ts : Ts := {}
  /-- FAIL_COUNT (R240, 08). -/
  count : Nat := 0
  deriving DecidableEq, Repr

/-- Reflex unit status of a pin (R192 to R196). -/
structure ReflexS where
  /-- FIRES (R192, 06). -/
  fires : Nat := 0
  /-- SKIPS (R192, 06). -/
  skips : Nat := 0
  /-- FIRST (R192, 06). -/
  first : Ts := {}
  /-- a firing in the burst (R192, 06). -/
  hasFired : Bool := false
  /-- arm windows, oldest first: opening, close once known, a crossing accepted in it (R193, 06). -/
  wins : List (Nat × Option Nat × Bool) := []
  /-- last accepted crossing (R194, 06). -/
  lastAt : Option Nat := none
  /-- disarmed for the rest of the burst (R196, 06). -/
  offBurst : Bool := false
  deriving DecidableEq, Repr

/-- An edge cell, or the pin TDC, of a channel (R359, R360). -/
structure EdgeCell where
  /-- gap trim, fine LSB (R360, 13). -/
  trim : Int := 0
  /-- tick of the last update (R360, 13). -/
  lastUpd : Option Nat := none
  /-- tick of the last gap found (R360, 13). -/
  lastGap : Nat := 0
  /-- STARVED (R360, 13). -/
  starved : Bool := false
  deriving DecidableEq, Repr

/-- One user channel (R179 to R240). -/
structure Pin where
  /-- driver ON (R179, 06). -/
  on : Bool := false
  /-- last level driven (R182, 06). -/
  level : Level := .vil
  /-- code that turned the driver OFF or last updated it (R188, 06). -/
  lastCode : Code := .k
  /-- something driven or updated since the group was assigned (R182, 06). -/
  driven : Bool := false
  /-- the pin is in a burst, or in the HOLD or RELEASE halt state (R188, 06). -/
  inBurst : Bool := false
  /-- SAFE or RELEASE halt state, or never driven: high impedance whatever OFF_MODE is (R189, 06). -/
  haltHiz : Bool := true
  /-- SAFE halt state: load off (R145, 04). -/
  haltSafe : Bool := false
  /-- safe state holds (R380, 14). -/
  safe : Bool := false
  /-- placed drive events, earliest first (R180, 06). -/
  driveQ : List DrvEv := []
  /-- placed strobes, earliest first (R227, 08). -/
  strobeQ : List StrobeEv := []
  /-- time of the last drive event that has come (R167, 05). -/
  lastDrive : Option Nat := none
  /-- time of the last strobe event placed (R167, 05). -/
  lastStrobe : Option Nat := none
  /-- tick of the last drive event (R206, 07). -/
  drvTick : Option Nat := none
  /-- level before the events of that tick (R206, 07). -/
  preLevel : Level := .vil
  /-- `driven` before them (R206, 07). -/
  preDriven : Bool := false
  /-- `lastCode` before them (R206, 07). -/
  preCode : Code := .k
  /-- its record and counter are those of an earlier burst (R239, 08). -/
  stale : Bool := false
  /-- the burst whose vector 0 is still to begin at the pin has become sealed (R255, 08). -/
  sealNext : Bool := false
  /-- DNRZ events of the last vector: edge time and act, still to be placed (R184, 06). -/
  carry : List (Nat × DrvAct) := []
  /-- the pin's code was K in every beat of the last vector (R363, 13). -/
  prevKeep : Bool := true
  /-- the same of the vector before it (R363, 13). -/
  keep2 : Bool := true
  /-- VOH comparator (R202, 07). -/
  voh : CompS := {}
  /-- VOL comparator (R202, 07). -/
  vol : CompS := {}
  /-- crossings since the burst began, newest first (R220, 07). -/
  crosses : List Cross := []
  /-- rising VOL crossing that may still form a pair (R220, 07). -/
  openRise : Option Cross := none
  /-- falling VOH crossing that may still form a pair (R220, 07). -/
  openFall : Option Cross := none
  /-- edges since the burst began, newest first (R266, 09). -/
  pairs : List Pair := []
  /-- edges of the burst that the capture engines have taken (R258, 09). -/
  edgesIn : Nat := 0
  /-- DRV guard (R206, 07). -/
  gDrv : GuardS := {}
  /-- PPMU guard (R206, 07). -/
  gPpmu : GuardS := {}
  /-- OV guard (R206, 07). -/
  gOv : GuardS := {}
  /-- DRV_ILIM (R209, 07). -/
  drvIlim : Nat := 100
  /-- FILTER (R209, 07). -/
  filter : Nat := 0
  /-- PPMU_EN (R209, 07). -/
  ppmuEn : Bool := true
  /-- OV_EN (R209, 07). -/
  ovEn : Bool := true
  /-- DRV_EN (R209, 07). -/
  drvEn : Bool := true
  /-- OVH (R209, 07). -/
  ovh : Int := 6500
  /-- OVL (R209, 07). -/
  ovl : Int := -2000
  /-- TRIPS (R225, 07). -/
  trips : Nat := 0
  /-- spans of ticks during which a guard of the pin has been latched, newest first (R216, 07). -/
  latches : List (Nat × Option Nat) := []
  /-- PPMU entry (R212, 07). -/
  ppmu : PpmuEnt := {}
  /-- first-fail record and counter (R238, 08). -/
  fail : FailRec := {}
  /-- counted fails in the burst (R247, 08). -/
  logged : Nat := 0
  /-- reflex unit (R192, 06). -/
  reflex : ReflexS := {}
  /-- last accepted reflection value (R368, 13). -/
  reflFix : Option Nat := none
  /-- six edge cells and the pin TDC (R359, 13). -/
  cells : Vector EdgeCell 7 := Vector.replicate 7 {}
  deriving DecidableEq, Repr

/-- A PPMU measurement that waits or runs (R215). -/
structure Meas where
  /-- header (R215, 07). -/
  hdr : Hdr := {}
  /-- PIN_MASK (R215, 07). -/
  mask : Nat := 0
  /-- SAMPLES (R215, 07). -/
  samples : Nat := 0
  /-- tick at which the ADC started (R216, 07). -/
  started : Option Nat := none
  deriving DecidableEq, Repr

/-- A level measurement in progress (R217). -/
structure LevMeas where
  /-- header (R217, 07). -/
  hdr : Hdr := {}
  /-- pin (R217, 07). -/
  pin : Fin 128 := 0
  /-- MODE SLOPE (R217, 07). -/
  slope : Bool := false
  /-- SEL (R217, 07). -/
  sel : Bool := false
  /-- KEEP_HYST (R217, 07). -/
  keepHyst : Bool := false
  /-- V_START, µV (R217, 07). -/
  vStart : Int := 0
  /-- V_END, µV (R217, 07). -/
  vEnd : Int := 0
  /-- SLOPE, µV/ns (R217, 07). -/
  rate : Nat := 0
  /-- RAMPS (R217, 07). -/
  ramps : Nat := 0
  /-- COUNT (R222, 07). -/
  count : Nat := 0
  /-- TIMEOUT, µs (R222, 07). -/
  timeout : Nat := 0
  /-- tick of the start (R222, 07). -/
  startTick : Nat := 0
  /-- intervals of the pairs taken, fine LSB, newest first (R222, 07). -/
  dts : List Nat := []
  /-- SINGLES (R222, 07). -/
  singles : Nat := 0
  /-- VOH code minus VOL code at the start (R221, 07). -/
  codes : Nat := 0
  deriving DecidableEq, Repr

/-- A comparator self-check in progress (R223). -/
structure CompChk where
  /-- header (R223, 07). -/
  hdr : Hdr := {}
  /-- TIE; else SWAP (R223, 07). -/
  tie : Bool := false
  /-- CHAN_MASK (R223, 07). -/
  mask : Nat := 0
  /-- tick of the start (R223, 07). -/
  startTick : Nat := 0
  deriving DecidableEq, Repr

/-- Takeover state and Tuning status of a group (R361 to R371). -/
structure Take where
  /-- STATE (R371, 13). -/
  st : TakeSt := .idle
  /-- CARRIED (R371, 13). -/
  carried : Option (Fin 16) := none
  /-- pin of the cycle in progress (R361, 13). -/
  cand : Fin 16 := 0
  /-- next pin in the rotation (R361, 13). -/
  next : Fin 16 := 0
  /-- armed handoff address (R362, 13). -/
  handAddr : Option Nat := none
  /-- tick at which the phase began (R362, 13). -/
  phaseTick : Nat := 0
  /-- ENABLE (R369, 13). -/
  live : Bool := true
  /-- TAKEOVER_MS (R369, 13). -/
  ms : Nat := 50
  /-- tick of the last cycle (R361, 13). -/
  cycleTick : Nat := 0
  /-- a pass requested by TUNE_Gg is in progress (R307, 11). -/
  tapBusy : Bool := false
  /-- the pin is calibrated while the sequencer is idle, without a handoff vector (R365, 13). -/
  direct : Bool := false
  /-- TAKEOVERS (R371, 13). -/
  takeovers : Nat := 0
  /-- DEFERRALS (R371, 13). -/
  deferrals : Nat := 0
  /-- IMPLAUSIBLE (R371, 13). -/
  implausible : Nat := 0
  /-- LAST_QTY (R371, 13). -/
  lastQty : Nat := 0
  /-- LAST_CHAN (R371, 13). -/
  lastChan : Nat := 0
  /-- LAST_VALUE (R371, 13). -/
  lastValue : Int := 0
  /-- LAST_TICK (R371, 13). -/
  lastTick : Nat := 0
  /-- a guard has tripped or the safe state has come on the carried pin, which stays until the burst ends (R366, 13). -/
  stuck : Bool := false
  /-- end of the burst during which the pin was carried (R365, 13). -/
  endAt : Option Nat := none
  deriving DecidableEq, Repr

/-- A measurement of a group (R215, R217, R223). -/
inductive MeasJob where
  | ppmu (m : Meas)
  | level (m : LevMeas)
  | check (m : CompChk)
  deriving DecidableEq, Repr

/-- One group (R9 to R12, R102). -/
structure Grp where
  /-- owning context or SECURE (R10, 01). -/
  owner : Owner := .none
  /-- owning sequencer (R10, 01). -/
  seq : Option (Fin 4) := none
  /-- measurements in command order, the first in progress (R55, 02; R215, 07). -/
  jobs : List MeasJob := []
  /-- live takeover (R361, 13). -/
  take : Take := {}
  /-- the reserve channel's own comparators, guards and counters (R12, 01). -/
  rv : Pin := {}
  /-- GROUP_ASSIGNs that wait for the group's measurements (R55, 02). -/
  after : List (Hdr × Pkt) := []
  deriving DecidableEq, Repr

/-- A page that holds a frame (R80). -/
structure Page where
  /-- page number (R80, 03). -/
  num : Nat := 0
  /-- Resident; else Filling (R80, 03). -/
  resident : Bool := false
  /-- STICKY (R85, 03). -/
  sticky : Bool := false
  /-- sealed attribute (R85, 03). -/
  sealed : Bool := false
  /-- owner (R81, 03). -/
  owner : Owner := .none
  /-- response tick of the write that made it resident (R80, 03). -/
  since : Nat := 0
  /-- least-recently-used stamp (R84, 03). -/
  used : Nat := 0
  deriving DecidableEq, Repr

/-- Host write data that waits for HOSTIN slots (R89). -/
structure HostIn where
  /-- header of the write (R89, 03). -/
  hdr : Hdr := {}
  /-- pattern address of the next byte (R89, 03). -/
  addr : Nat := 0
  /-- bytes still to be written (R89, 03). -/
  data : List Byte := []
  /-- page (R85, 03). -/
  page : Nat := 0
  /-- FINAL takes effect when the data is in (R85, 03). -/
  final : Bool := false
  /-- a PAGE_FILL chunk (R85, 03). -/
  fill : Bool := false
  /-- the chunk carried S (R85, 03). -/
  sealed : Bool := false
  /-- HOSTIN slots already used for the block it writes first, zero lines included (R77, 03). -/
  step : Nat := 0
  deriving DecidableEq, Repr

/-- A store command that waits for earlier commands of the same page (R55). -/
structure StoreWait where
  /-- its header (R55, 02). -/
  hdr : Hdr := {}
  /-- opcode (R71, 02). -/
  op : Nat := 0
  /-- its packet (R55, 02). -/
  pkt : Pkt := {}
  deriving DecidableEq, Repr

/-- A best-effort host read that waits for idle slots (R22, R88). -/
structure ReadOp where
  /-- header (R88, 03). -/
  hdr : Hdr := {}
  /-- next address (R88, 03). -/
  addr : Nat := 0
  /-- bytes still to be read (R88, 03). -/
  left : Nat := 0
  /-- bytes gathered for the entry (R88, 03). -/
  got : List Byte := []
  /-- tick at which the next access became ready (R22, 01). -/
  readyTick : Nat := 0
  /-- ticks waited in the entry (R22, 01). -/
  waited : Nat := 0
  /-- line indexes with an uncorrectable word, newest first (R88, 03). -/
  ueLines : List Nat := []
  /-- line indexes unwritten, newest first (R88, 03). -/
  unwLines : List Nat := []
  /-- UNWRITTEN_READ reported (R78, 03). -/
  unwRep : Bool := false
  deriving DecidableEq, Repr

/-- Pattern Store (R72 to R100). -/
structure Store where
  /-- bytes by pattern address, of pages with a frame (R75, 03). -/
  mem : Mem := []
  /-- 4 KiB blocks of the pattern space whose written bit is set, ascending (R77, 03). -/
  written : List Nat := []
  /-- pages with a frame (R80, 03). -/
  pages : List Page := []
  /-- counter of the least-recently-used stamps (R84, 03). -/
  stamp : Nat := 0
  /-- FLOG_UNITS (R73, 03). -/
  flogUnits : Nat := 6
  /-- CAP_UNITS (R73, 03). -/
  capUnits : Nat := 24
  /-- STREAM_BUDGET (R73, 03). -/
  streamBudget : Nat := 48
  /-- PREFETCH_US (R73, 03). -/
  prefetchUs : Nat := 2000
  /-- host writes waiting, in arrival order (R89, 03). -/
  hostin : List HostIn := []
  /-- host reads waiting, in order (R22, 01). -/
  reads : List ReadOp := []
  /-- store commands that wait for earlier commands of the same page, in order (R55, 02). -/
  waits : List StoreWait := []
  /-- errors in stored words of the pattern window, by ascending pattern address (R75, R76, 03). -/
  errs : List MemErr := []
  /-- errors in stored words of the supervisor partition, by ascending address in it (R75, R76, 03). -/
  supErrs : List MemErr := []
  /-- Brush access whose corrected lines wait to be written back, and those lines (R346, 12). -/
  brushBack : List Nat := []
  /-- bank that the next refresh takes (R19, 01). -/
  refreshBank : Nat := 0
  /-- MAINT slots used for upkeep (R19, 01). -/
  maintUsed : Nat := 0
  /-- SUP slots used (R18, 01). -/
  supUsed : Nat := 0
  /-- the last Bar slot used, counted from Metronome zero (R17, 01). -/
  lastSlot : Option Nat := none
  deriving DecidableEq, Repr

/-- A Fail Log record (R248). -/
structure FlogRec where
  /-- timestamp (R248, 08). -/
  ts : Ts := {}
  /-- RESULT (R248, 08). -/
  result : Nat := 0
  /-- TYPE (R248, 08). -/
  type : Nat := 0
  /-- SEALED (R248, 08). -/
  sealed : Bool := false
  /-- NOFLAG (R248, 08). -/
  noflag : Bool := false
  /-- SEQ (R248, 08). -/
  seq : Fin 4 := 0
  /-- PIN (R248, 08). -/
  pin : Nat := 0
  /-- BEAT (R248, 08). -/
  beat : Nat := 0
  /-- MARK (R248, 08). -/
  mark : Nat := 0
  /-- ADDR (R248, 08). -/
  addr : Nat := 0
  /-- COUNT (R248, 08). -/
  count : Nat := 0
  /-- VECTOR (R248, 08). -/
  vec : Nat := 0
  /-- fine LSB from which a FLOG slot can take it from the staging buffer (R252, 08). -/
  usable : Nat := 0
  deriving DecidableEq, Repr

/-- A FAILLOG_DRAIN in progress (R251). -/
structure DrainOp where
  /-- header (R251, 08). -/
  hdr : Hdr := {}
  /-- records still to move (R251, 08). -/
  left : Nat := 0
  /-- its first entry, with the status block, is still to come (R251, 08). -/
  first : Bool := true
  /-- records moved (R251, 08). -/
  moved : Nat := 0
  /-- bytes of records gathered for the entry (R251, 08). -/
  got : List Byte := []
  /-- 32-byte units among them with an uncorrectable word (R346, 12). -/
  bad : List Nat := []
  deriving DecidableEq, Repr

/-- Fail Log of one sequencer (R246 to R251). -/
structure Flog where
  /-- staging buffer, oldest first (R249, 08). -/
  staging : List FlogRec := []
  /-- sub-ring, oldest first (R246, 08). -/
  ring : List FlogRec := []
  /-- sub-ring records whose space is not yet freed (R251, 08). -/
  held : Nat := 0
  /-- DROPPED_BUF (R251, 08). -/
  droppedBuf : Nat := 0
  /-- DROPPED_RING (R251, 08). -/
  droppedRing : Nat := 0
  /-- WRITTEN (R251, 08). -/
  written : Nat := 0
  /-- LOST record that covers the drops at the staging buffer so far (R250, 08). -/
  lost : Option FlogRec := none
  /-- LOST record that covers the drops at the sub-ring so far (R250, 08). -/
  lostRing : Option FlogRec := none
  /-- drains, oldest first (R251, 08). -/
  drains : List DrainOp := []
  deriving DecidableEq, Repr

/-- Fail Map of one sequencer (R241 to R245). -/
structure Fmap where
  /-- codewords by byte offset (R241, 08). -/
  mem : CMem := []
  /-- SEALED (R245, 08). -/
  sealed : Bool := false
  /-- UPDATES (R245, 08). -/
  updates : Nat := 0
  /-- OUT_WINDOW (R245, 08). -/
  outWindow : Nat := 0
  /-- UE_SKIPPED (R245, 08). -/
  ueSkipped : Nat := 0
  deriving DecidableEq, Repr

/-- Brush log and lap state of one memory (R345 to R348). -/
structure Brush where
  /-- STALLING (R348, 12). -/
  stalling : Bool := false
  /-- INIT_DONE (R348, 12). -/
  initDone : Bool := false
  /-- LAPS (R348, 12). -/
  laps : Nat := 0
  /-- STALLED_LAPS (R348, 12). -/
  stalledLaps : Nat := 0
  /-- LAST_LAP_US (R348, 12). -/
  lastLapUs : Nat := 0
  /-- MAX_LAP_US (R348, 12). -/
  maxLapUs : Nat := 0
  /-- CE (R348, 12). -/
  ce : Nat := 0
  /-- UE (R348, 12). -/
  ue : Nat := 0
  /-- LAST_TYPE (R348, 12). -/
  lastType : Nat := 0
  /-- LAST_ADDR (R348, 12). -/
  lastAddr : Nat := 0
  /-- LAST_TICK (R348, 12). -/
  lastTick : Nat := 0
  /-- next address of the lap (R345, 12). -/
  pos : Nat := 0
  /-- tick at which the lap began (R348, 12). -/
  lapTick : Nat := 0
  /-- the lap has stalled (R347, 12). -/
  lapStalled : Bool := false
  /-- tick of the last idle opportunity used (R347, 12). -/
  lastOpp : Nat := 0
  deriving DecidableEq, Repr

/-- The last access of one Exchange Bank port (R338). -/
structure XbLast where
  /-- bank cycle (R338, 12). -/
  cycle : Option Nat := none
  /-- word (R338, 12). -/
  word : Nat := 0
  /-- a write (R338, 12). -/
  write : Bool := false
  /-- sampled at point 2 (R332, 12). -/
  pt2 : Bool := false
  /-- codewords of the word before the access (R338, 12). -/
  before : List Codeword := []
  deriving DecidableEq, Repr

/-- On-die SRAMs but the Fail Map (R328 to R343). -/
structure Sram where
  /-- scratchpad codewords (R328, 12). -/
  scratch : CMem := []
  /-- Exchange Bank codewords (R332, 12). -/
  xb : CMem := []
  /-- table memories of PD0 to PD3 (R345, 12). -/
  pdTab : Vector CMem 4 := Vector.replicate 4 []
  /-- control-die tables (R345, 12). -/
  ctl : CMem := []
  /-- last port A access (R338, 12). -/
  lastA : XbLast := {}
  /-- last port B access (R338, 12). -/
  lastB : XbLast := {}
  /-- last bank cycle given to a host access (R333, 12). -/
  hostSlot : Option Nat := none
  /-- XD as read by port A (R336, 12). -/
  xd : Nat := 0
  /-- XD driven (R336, 12). -/
  xdDriven : Bool := false
  /-- XBUSY_N pulled low (R336, 12). -/
  xbusy : Bool := false
  /-- the Exchange Bank's Brush pass runs (R337, 12). -/
  xbPass : Bool := false
  deriving DecidableEq, Repr

/-- A Snare record or mark, with what decides whether it is drained (R276). -/
structure CapRec where
  /-- the record (R276, 09). -/
  bytes : List Byte := []
  /-- its burst vector number (R269, 09). -/
  vec : Option Nat := none
  /-- a mark (R279, 09). -/
  isMark : Bool := false
  /-- sealed (R285, 09). -/
  sealed : Bool := false
  /-- ladder level when formed (R284, 09). -/
  level : Nat := 0
  /-- belongs to a capture, or STREAM (R269, 09). -/
  kept : Bool := false
  deriving DecidableEq, Repr

/-- A counted fail or a binned edge of a pin, kept for the L-count and L-hist windows (R277). -/
structure LaneEv where
  /-- pin (R277, 09). -/
  pin : Fin 128 := 0
  /-- its burst vector number (R277, 09). -/
  vec : Nat := 0
  /-- an edge for L-hist; else a counted fail for L-count (R277, 09). -/
  hist : Bool := false
  /-- direction of the edge: 0 rising, 1 falling (R278, 09). -/
  dir : Nat := 0
  /-- its time after the start of its vector, fine LSB (R278, 09). -/
  off : Int := 0
  deriving DecidableEq, Repr

/-- An L-raw record being formed (R277). -/
structure RawRow where
  /-- VECTOR (R277, 09). -/
  vec : Nat := 0
  /-- GROUP (R277, 09). -/
  grp : Fin 8 := 0
  /-- ADDR (R277, 09). -/
  addr : Nat := 0
  /-- MARK (R277, 09). -/
  mark : Nat := 0
  /-- BEAT (R277, 09). -/
  beatLog2 : Nat := 0
  /-- vector start (R277, 09). -/
  start : Nat := 0
  /-- result bytes by index 16j + p (R277, 09). -/
  res : List (Nat × Nat) := []
  /-- sealed (R285, 09). -/
  sealed : Bool := false
  deriving DecidableEq, Repr

/-- A trigger found, or one that waits for evaluation (R262 to R267). -/
structure Trig where
  /-- trigger time (R266, 09). -/
  ts : Ts := {}
  /-- vector (R266, 09). -/
  vec : Option Nat := none
  /-- its address (R279, 09). -/
  addr : Nat := 0
  /-- NO_EDGE (R266, 09). -/
  noEdge : Bool := false
  /-- by a TRIG tap (R267, 09). -/
  tap : Bool := false
  /-- hop count of the tap (R319, 11). -/
  hop : Nat := 0
  /-- AUTO (R267, 09). -/
  auto : Bool := false
  deriving DecidableEq, Repr

/-- One capture engine (R257 to R285). -/
structure Cap where
  /-- owner (R257, 09). -/
  owner : Owner := .none
  /-- STATE (R275, 09). -/
  st : CapSt := .idle
  /-- admitted; armed at the next Bar (R272, 09). -/
  admitted : Bool := false
  /-- ARM_ON_TAP (R272, 09). -/
  armOnTap : Bool := false
  /-- CAP_ARM in flight (R273, 09). -/
  hdr : Option Hdr := none
  /-- CAP_DISARMs that wait for the drain (R275, 09). -/
  disarms : List Hdr := []
  /-- RELEASE after the disarm (R275, 09). -/
  releaseAfter : Bool := false
  /-- Bar positions held (R20, 01). -/
  slots : List Nat := []
  /-- segment held, 16 MiB units (R272, 09). -/
  segHeld : Nat := 0
  /-- K_CAP held (R272, 09). -/
  kHeld : Nat := 0
  /-- ARM_TICK (R273, 09). -/
  armTick : Nat := 0
  /-- END (R275, 09). -/
  endCause : Nat := 0
  /-- STATE_TICK (R275, 09). -/
  stateTick : Nat := 0
  /-- ladder level (R281, 09). -/
  level : Nat := 0
  /-- CAPTURES (R275, 09). -/
  captures : Nat := 0
  /-- TRIGGERS (R275, 09). -/
  triggers : Nat := 0
  /-- MISSED (R275, 09). -/
  missed : Nat := 0
  /-- AUTO (R275, 09). -/
  autos : Nat := 0
  /-- GAP_RECORDS (R275, 09). -/
  gapRecords : Nat := 0
  /-- BLOCKS (R275, 09). -/
  blocks : Nat := 0
  /-- BYTES (R275, 09). -/
  bytes : Nat := 0
  /-- STEPS_DOWN (R275, 09). -/
  stepsDown : Nat := 0
  /-- STEPS_UP (R275, 09). -/
  stepsUp : Nat := 0
  /-- staging buffer, oldest first (R280, 09). -/
  staging : List CapRec := []
  /-- segment, oldest first (R280, 09). -/
  segment : List CapRec := []
  /-- records dropped since the last item written (R283, 09). -/
  gapRec : Nat := 0
  /-- marks dropped (R283, 09). -/
  gapMark : Nat := 0
  /-- time of the first dropped item (R279, 09). -/
  gapTs : Ts := {}
  /-- its vector (R279, 09). -/
  gapVec : Option Nat := none
  /-- unmasked results, for the trigger pattern (R262, 09). -/
  pats : List CapRes := []
  /-- time of the last crossing applied to the RAW pattern (R263, 09). -/
  rawAt : Nat := 0
  /-- the RAW pattern was met before that time (R263, 09). -/
  rawPrev : Bool := false
  /-- time from which the holdoff counts (R265, 09). -/
  holdFrom : Option Nat := none
  /-- first vector of which the segment holds every record (R269, 09). -/
  heldFrom : Nat := 0
  /-- steps of the ladder, newest first: time from which the step applies, fine LSB, and the level before it (R282, 09). -/
  levels : List (Nat × Nat) := []
  /-- records formed while the engine takes none, of vectors not yet taken: they belong to a capture that such a vector triggers
  (R269, 09). -/
  early : List (CapRec × Ts) := []
  /-- units of the oldest staged item that a slot has written already (R280, 09). -/
  cut : Nat := 0
  /-- L-hist windows, first and last vector, of which an edge may still come (R277, 09). -/
  histDue : List (Nat × Nat) := []
  /-- capture-island cycle of the last pattern trigger, fine LSB (R267, 09). -/
  patAt : Option Nat := none
  /-- 32-byte units formed since arm (R276, 09). -/
  units : Nat := 0
  /-- vectors whose RESULT pattern is evaluated (R262, 09). -/
  evald : List Nat := []
  /-- qualified occurrences counted (R265, 09). -/
  count : Nat := 0
  /-- time of the last trigger (R265, 09). -/
  lastTrig : Option Nat := none
  /-- origin times of QUAL taps (R264, 09). -/
  qualTaps : List Nat := []
  /-- tick at which it became READY (R267, 09). -/
  readyTick : Nat := 0
  /-- last post-trigger vector (R270, 09). -/
  postVec : Nat := 0
  /-- trigger vector of the capture in progress (R270, 09). -/
  capVec : Option Nat := none
  /-- v − P (R269, 09). -/
  preFrom : Nat := 0
  /-- first vector of the burst taken since READY (R269, 09). -/
  taken : Nat := 0
  /-- tick at which REARM ends (R268, 09). -/
  rearmAt : Nat := 0
  /-- Bar of the last MISSED mark (R271, 09). -/
  missedBar : Nat := 0
  /-- triggers missed in it (R271, 09). -/
  missedInBar : Nat := 0
  /-- first trigger missed in it (R271, 09). -/
  missedFirst : Option Trig := none
  /-- Bar of the last step down (R282, 09). -/
  lastDown : Option Nat := none
  /-- tick of the last step (R282, 09). -/
  lastStep : Nat := 0
  /-- tick since which both fills are below 25 % (R282, 09). -/
  lowSince : Option Nat := none
  /-- L-raw records being formed (R277, 09). -/
  raws : List RawRow := []
  /-- counted fails and edges of the burst, for the windows (R277, 09). -/
  lanes : List LaneEv := []
  /-- vectors of the burst whose results and edges have been taken (R270, 09). -/
  vecsIn : Nat := 0
  deriving DecidableEq, Repr

/-- One endpoint of an interval unit (R298). -/
structure TmuEnd where
  /-- KIND (R298, 10). -/
  kind : Nat := 0
  /-- EDGE (R298, 10). -/
  edge : Nat := 0
  /-- COMP: VOL comparator (R298, 10). -/
  vol : Bool := false
  /-- PIN (R298, 10). -/
  pin : Fin 128 := 0
  /-- GATE (R298, 10). -/
  gate : Fin 4 := 0
  deriving DecidableEq, Repr

/-- Configuration of an interval unit (R298). -/
structure TmuCfg where
  /-- N_M1 (R298, 10). -/
  nM1 : Nat := 0
  /-- GATE_SRC TAP (R298, 10). -/
  gateTap : Bool := false
  /-- GATE_PIN (R298, 10). -/
  gatePin : Fin 4 := 0
  /-- GATE_POL (R298, 10). -/
  gateLow : Bool := false
  /-- PER_WINDOW (R298, 10). -/
  perRepeat : Bool := false
  /-- STOP_AFTER (R298, 10). -/
  afterStart : Bool := false
  /-- REFER (R298, 10). -/
  ball : Bool := false
  /-- STOP_SKIP (R298, 10). -/
  stopSkip : Nat := 0
  /-- WINDOW_NS (R298, 10). -/
  windowNs : Nat := 0
  /-- START endpoint (R298, 10). -/
  start : TmuEnd := {}
  /-- STOP endpoint (R298, 10). -/
  stop : TmuEnd := {}
  deriving DecidableEq, Repr

/-- An endpoint event taken (R295, R296). -/
structure TmuTake where
  /-- referred time, 1/16 fine LSB (R295, 10). -/
  t16 : Int := 0
  /-- flags of its timestamp, without REC (R291, 10). -/
  flags : Nat := 0
  /-- event time, fine LSB (R293, 10). -/
  raw : Nat := 0
  /-- hop count of a tap (R319, 11). -/
  hop : Nat := 0
  deriving DecidableEq, Repr

/-- A result record (R303). -/
structure TmuRes where
  /-- timestamp (R303, 10). -/
  ts : Ts := {}
  /-- FLAGS (R297, 10). -/
  flags : Nat := 0
  /-- INDEX (R303, 10). -/
  index : Nat := 0
  /-- DELTA (R303, 10). -/
  delta : Int := 0
  deriving DecidableEq, Repr

/-- A measurement window of an interval unit (R293). -/
structure TmuWin where
  /-- its opening, fine LSB (R293, 10). -/
  from_ : Nat := 0
  /-- its close, once known (R293, 10). -/
  to_ : Option Nat := none
  /-- its close has come (R293, 10). -/
  ended : Bool := false
  /-- it has yielded its result (R294, 10). -/
  used : Bool := false
  deriving DecidableEq, Repr

/-- What comes to an interval unit (R291, R293). -/
inductive TmuSig where
  /-- the active edge of the gate, or a tap at GATE. -/
  | opens
  /-- the inactive edge of the gate, or the end of WINDOW_NS. -/
  | closes
  /-- an event of the START endpoint. -/
  | start
  /-- an event of the STOP endpoint. -/
  | stop
  deriving DecidableEq, Repr

/-- A window edge or an endpoint event on its way to an interval unit (R291, R293). -/
structure TmuIn where
  /-- what comes (R291, 10). -/
  sig : TmuSig := .start
  /-- its time, fine LSB; of a GATE pin, that of its tick (R293, 10). -/
  t : Nat := 0
  /-- time at which it has reached the unit (R323, 11). -/
  due : Nat := 0
  /-- CLASH of a drive event (R291, 10). -/
  clash : Bool := false
  /-- the GATE pin whose edge it is (R323, 11). -/
  gate : Option (Fin 4) := none
  deriving DecidableEq, Repr

/-- One interval unit (R289 to R303). -/
structure Tmu where
  /-- owner (R298, 10). -/
  owner : Owner := .none
  /-- configuration (R298, 10). -/
  cfg : TmuCfg := {}
  /-- TMU_CONFIG has passed (R299, 10). -/
  configured : Bool := false
  /-- STATE (R303, 10). -/
  st : TmuSt := .idle
  /-- TMU_ARM in flight (R299, 10). -/
  hdr : Option Hdr := none
  /-- time of entry into SETTING or READY, fine LSB (R294, 10). -/
  enterAt : Nat := 0
  /-- c1 of the start interpolator (R295, 10). -/
  c1s : Nat := 0
  /-- c2 of the start interpolator (R295, 10). -/
  c2s : Nat := 0
  /-- c1 of the stop interpolator (R295, 10). -/
  c1p : Nat := 0
  /-- c2 of the stop interpolator (R295, 10). -/
  c2p : Nat := 0
  /-- the cycle's calibration is implausible (R295, 10). -/
  calBad : Bool := false
  /-- a count load fell in MEASURING (R297, 10). -/
  timebase : Bool := false
  /-- the gate pin has been active since the arm, and no window has opened yet (R293, 10). -/
  gateAtArm : Bool := false
  /-- windows since the arm, newest first (R293, 10). -/
  wins : List TmuWin := []
  /-- window edges and endpoint events on their way, earliest first (R291, 10). -/
  inq : List TmuIn := []
  /-- start taken (R296, 10). -/
  start : Option TmuTake := none
  /-- stop taken (R296, 10). -/
  stop : Option TmuTake := none
  /-- stop events skipped (R296, 10). -/
  skipped : Nat := 0
  /-- hop count of the tap activation that completed the result (R319, 11). -/
  byTap : Option Nat := none
  /-- time of the later event, or of the close, that completed the measurement (R294, R303, 10). -/
  doneAt : Nat := 0
  /-- RESULTS (R303, 10). -/
  results : Nat := 0
  /-- sum of Δ (R302, 10). -/
  sum : Int := 0
  /-- sum of Δ² (R302, 10). -/
  sumSq : Nat := 0
  /-- MIN (R303, 10). -/
  minD : Int := 0
  /-- MAX (R303, 10). -/
  maxD : Int := 0
  /-- COUNT (R303, 10). -/
  count : Nat := 0
  /-- FLAGGED (R303, 10). -/
  flagged : Nat := 0
  /-- SUBRES_CNT (R303, 10). -/
  subres : Nat := 0
  /-- ORDER_CNT (R303, 10). -/
  order : Nat := 0
  /-- NO_START_CNT (R303, 10). -/
  noStart : Nat := 0
  /-- NO_STOP_CNT (R303, 10). -/
  noStop : Nat := 0
  /-- CAL_CNT (R303, 10). -/
  calCnt : Nat := 0
  /-- TIMEBASE_CNT (R303, 10). -/
  tbCnt : Nat := 0
  /-- IGNORED (R303, 10). -/
  ignored : Nat := 0
  /-- FIRST_TICK (R303, 10). -/
  firstTick : Nat := 0
  /-- LAST_TICK (R303, 10). -/
  lastTick : Nat := 0
  /-- END (R300, 10). -/
  endCause : Nat := 0
  /-- last results, newest first (R303, 10). -/
  recent : List TmuRes := []
  deriving DecidableEq, Repr

/-- A tap in flight (R305, R314). -/
structure Tap where
  /-- origin timestamp (R305, 11). -/
  ts : Ts := {}
  /-- hop count (R305, 11). -/
  hop : Nat := 0
  /-- channel (R305, 11). -/
  chan : Fin 64 := 0
  /-- earliest time at which it is usable at the next stage (R314, 11). -/
  usable : Nat := 0
  /-- consumers under the route that held when it entered the hub: code, TOGGLE, PULSE (R313, 11). -/
  consumers : List (Nat × Bool × Nat) := []
  deriving DecidableEq, Repr

/-- A producer's raise that has not yet entered its channels (R305). -/
structure Raise where
  /-- producer code (R306, 11). -/
  prod : Nat := 0
  /-- origin timestamp (R306, 11). -/
  ts : Ts := {}
  /-- hop count (R319, 11). -/
  hop : Nat := 0
  /-- the one channel of a TAPR (R305, 11). -/
  only : Option (Fin 64) := none
  /-- time of the raise (R306, 11). -/
  fine : Nat := 0
  /-- direction of an event-pin edge (R312, 11). -/
  edge : Option Bool := none
  /-- burst vector number of a FAIL_Gg (R253, 08). -/
  vec : Option Nat := none
  deriving DecidableEq, Repr

/-- One tap channel (R312, R326). -/
structure TapChan where
  /-- owner (R309, 11). -/
  owner : Owner := .none
  /-- ENABLE (R312, 11). -/
  enabled : Bool := false
  /-- SECURE (R311, 11). -/
  secure : Bool := false
  /-- PRODUCER (R312, 11). -/
  prod : Nat := 0
  /-- P_EDGE (R312, 11). -/
  pEdge : Nat := 0
  /-- consumer entries: CONSUMER, TOGGLE, PULSE (R312, 11). -/
  cons : Vector (Nat × Bool × Nat) 8 := Vector.replicate 8 (0,false,0)
  /-- RAISED (R326, 11). -/
  raised : Nat := 0
  /-- LAST_TS (R326, 11). -/
  lastTs : Ts := {}
  /-- LAST_HOP (R326, 11). -/
  lastHop : Nat := 0
  /-- LOOP_DROPS (R326, 11). -/
  loopDrops : Nat := 0
  /-- MERGED (R326, 11). -/
  merged : Nat := 0
  deriving DecidableEq, Repr

/-- One consumer input (R316 to R318, R326). -/
structure TapIn where
  /-- COALESCED (R326, 11). -/
  coalesced : Bool := false
  /-- OVERRUN (R326, 11). -/
  overrun : Bool := false
  /-- ACTIVATIONS (R326, 11). -/
  acts : Nat := 0
  /-- COALESCE (R326, 11). -/
  coalesce : Nat := 0
  /-- OVERRUN_CNT (R326, 11). -/
  overrunCnt : Nat := 0
  /-- IDLE (R326, 11). -/
  idle : Nat := 0
  /-- end of its busy time; none if not busy (R318, 11). -/
  busyTo : Option Nat := none
  deriving DecidableEq, Repr

/-- An event pin, GATE or TAP_IO (R323, R324). -/
structure EvPin where
  /-- level last sampled at the input (R323, 11). -/
  level : Bool := false
  /-- claim of the TAP_IO pin (R310, 11). -/
  claim : Owner := .none
  /-- the claim is one of an output (R310, 11). -/
  claimOut : Bool := false
  /-- in use as an output (R324, 11). -/
  isOut : Bool := false
  /-- level driven as output (R324, 11). -/
  out : Bool := false
  /-- the output driver is on (R324, 11). -/
  driving : Bool := false
  /-- tick at which the pulse ends (R324, 11). -/
  pulseTo : Option Nat := none
  /-- tick by which it returns to input (R324, 11). -/
  releaseBy : Option Nat := none
  deriving DecidableEq, Repr

/-- Tap Matrix (R305 to R326). -/
structure TapM where
  /-- channels (R305, 11). -/
  chans : Vector TapChan 64 := Vector.replicate 64 {}
  /-- consumer inputs by code (R307, 11). -/
  ins : Vector TapIn 161 := Vector.replicate 161 {}
  /-- raises that have not entered a channel (R305, 11). -/
  raises : List Raise := []
  /-- taps that travel to the hub (R315, 11). -/
  hub : List Tap := []
  /-- taps that travel to a consumer; one entry for each consumer (R314, 11). -/
  deliver : List Tap := []
  /-- GATE0 to GATE3 (R323, 11). -/
  gates : Vector EvPin 4 := Vector.replicate 4 {}
  /-- TAP_IO0 to TAP_IO7 (R323, 11). -/
  ios : Vector EvPin 8 := Vector.replicate 8 {}
  /-- claims on RING_GTn (R310, 11). -/
  gtClaim : Vector Owner 16 := Vector.replicate 16 .none
  deriving DecidableEq, Repr

/-- Alarm unit MAn (R173, R174). -/
structure Alarm where
  /-- owner (R173, 05). -/
  owner : Owner := .none
  /-- ENABLED (R173, 05). -/
  enabled : Bool := false
  /-- NEXT (R173, 05). -/
  due : Nat := 0
  /-- INTERVAL (R173, 05). -/
  interval : Nat := 0
  /-- LATE (R173, 05). -/
  late : Bool := false
  /-- COUNT (R173, 05). -/
  count : Nat := 0
  /-- LOST (R173, 05). -/
  lost : Nat := 0
  deriving DecidableEq, Repr

/-- Time-capture unit MCn (R173, R175). -/
structure TimeCap where
  /-- owner (R173, 05). -/
  owner : Owner := .none
  /-- ENABLED (R173, 05). -/
  enabled : Bool := false
  /-- BUF (R173, 05). -/
  buf : Nat := 0
  /-- SIZE_LOG2 (R173, 05). -/
  sizeLog2 : Nat := 0
  /-- NEXT (R173, 05). -/
  next : Nat := 0
  /-- COUNT (R173, 05). -/
  count : Nat := 0
  /-- LOST (R173, 05). -/
  lost : Nat := 0
  /-- ESEQ of the next entry (R175, 05). -/
  eseq : Nat := 1
  deriving DecidableEq, Repr

/-- A Tuning trim that differs from its factory value (R350, R353). -/
structure TrimEnt where
  /-- physical channel 0 to 135 (R350, 13). -/
  chan : Nat := 0
  /-- quantity (R350, 13). -/
  qty : Nat := 0
  /-- last accepted value (R353, 13). -/
  value : Int := 0
  deriving DecidableEq, Repr

/-- One flash copy of the field tables (R353). -/
structure CalCopy where
  /-- CRC, identity and format version match (R354, 13). -/
  valid : Bool := false
  /-- the flash holds it (R354, 13). -/
  present : Bool := false
  /-- sequence number (R353, 13). -/
  seqNo : Nat := 0
  /-- trims (R353, 13). -/
  trims : List TrimEnt := []
  /-- reflection FIX values by pin (R353, 13). -/
  refl : List (Nat × Nat) := []
  /-- die temperature at its last full pass (R353, 13). -/
  temps : Vector (Option Int) 4 := Vector.replicate 4 none
  deriving DecidableEq, Repr

/-- A full Tuning pass (R356). -/
structure FullPass where
  /-- TUNE_RUN FULL in flight (R369, 13). -/
  hdr : Hdr := {}
  /-- dies still to pass; the first is in its pass (R356, 13). -/
  dies : List (Fin 4) := []
  /-- dies passed (R370, 13). -/
  passed : List (Fin 4) := []
  /-- tick at which the die's pass began (R356, 13). -/
  dieTick : Nat := 0
  /-- REF EXTERNAL (R369, 13). -/
  external : Bool := false
  /-- VREF_EXT (R369, 13). -/
  vref : Nat := 0
  /-- results discarded (R370, 13). -/
  discards : Nat := 0
  /-- quantity of the first discard (R370, 13). -/
  firstQty : Nat := 0
  deriving DecidableEq, Repr

/-- A reflection in progress (R368). -/
structure Reflect where
  /-- TUNE_RUN REFLECT in flight (R368, 13). -/
  hdr : Hdr := {}
  /-- group (R368, 13). -/
  grp : Fin 8 := 0
  /-- PIN_MASK (R369, 13). -/
  mask : Nat := 0
  /-- tick of the start (R368, 13). -/
  startTick : Nat := 0
  deriving DecidableEq, Repr

/-- Tuning (R350 to R371). -/
structure Tuning where
  /-- field trims in force; factory trims where none is listed (R353, 13). -/
  trims : List TrimEnt := []
  /-- REF_TEMP of each die (R371, 13). -/
  refTemp : Vector (Option Int) 4 := Vector.replicate 4 none
  /-- LAST_FULL_TICK of each die (R371, 13). -/
  fullTick : Vector Nat 4 := Vector.replicate 4 0
  /-- within the Tuning temperature band (R177, 05). -/
  inBand : Vector Bool 4 := Vector.replicate 4 false
  /-- full passes, the first in progress (R356, 13). -/
  full : List FullPass := []
  /-- reflections in progress, oldest first (R368, 13). -/
  reflects : List Reflect := []
  /-- die passes done since reset: it names the interpolator spans that a pass recorded (R295, 10). -/
  passes : Nat := 0
  /-- RESTORE_SRC (R371, 13). -/
  restoreSrc : Nat := 0
  /-- TABLE_SEQ (R371, 13). -/
  tableSeq : Nat := 0
  /-- LAST_STORE_TICK (R371, 13). -/
  lastStore : Nat := 0
  /-- CAL_STORE in flight (R355, 13). -/
  storing : Option Hdr := none
  /-- copy being written: 0 A, 1 B (R355, 13). -/
  storeTo : Nat := 0
  /-- tick of the last CAL_IMPLAUSIBLE record of a channel (R352, 13). -/
  lastRep : List (Nat × Nat) := []
  deriving DecidableEq, Repr

/-- A report on its way to the Gong (R373, R374, R378). -/
structure GReport where
  /-- source code (R373, 14). -/
  src : Nat := 0
  /-- instance (R373, 14). -/
  inst : Nat := 0
  /-- default class of this report (R373, 14). -/
  dflt : Nat := 0
  /-- CLEARED (R374, 14). -/
  cleared : Bool := false
  /-- timestamp of the detector (R389, 14). -/
  ts : Ts := {}
  /-- DETAIL0 (R389, 14). -/
  d0 : Nat := 0
  /-- DETAIL1 (R389, 14). -/
  d1 : Nat := 0
  /-- hop count of the GONG tap it would raise (R379, 14). -/
  hop : Nat := 0
  /-- time of the report (R378, 14). -/
  fine : Nat := 0
  deriving DecidableEq, Repr

/-- Settings of a source instance that differ from the defaults (R388). -/
structure GSet where
  /-- SOURCE (R388, 14). -/
  src : Nat := 0
  /-- INSTANCE (R388, 14). -/
  inst : Nat := 0
  /-- CLASS (R388, 14). -/
  cls : Nat := 0
  /-- RESET (R388, 14). -/
  reset : Nat := 0
  /-- STOP_TICK (R388, 14). -/
  stopTick : Bool := false
  /-- SAFE (R388, 14). -/
  safe : Bool := false
  /-- ABORT (R388, 14). -/
  abort : Bool := false
  /-- TAP (R388, 14). -/
  tap : Bool := false
  /-- the instance is back at its defaults under a setting for every instance (R388, 14). -/
  restored : Bool := false
  deriving DecidableEq, Repr

/-- A Gong log record (R389). -/
structure GRec where
  /-- timestamp (R389, 14). -/
  ts : Ts := {}
  /-- SOURCE (R389, 14). -/
  src : Nat := 0
  /-- CLASS (R389, 14). -/
  cls : Nat := 0
  /-- ENTRY (R389, 14). -/
  entry : Bool := false
  /-- CLEARED (R389, 14). -/
  cleared : Bool := false
  /-- REACTED (R389, 14). -/
  reacted : Nat := 0
  /-- INSTANCE (R389, 14). -/
  inst : Nat := 0
  /-- SUPPRESSED (R389, 14). -/
  suppressed : Nat := 0
  /-- DETAIL0 (R389, 14). -/
  d0 : Nat := 0
  /-- DETAIL1 (R389, 14). -/
  d1 : Nat := 0
  /-- RECSEQ (R389, 14). -/
  recseq : Nat := 0
  /-- RESET (R389, 14). -/
  reset : Nat := 0
  deriving DecidableEq, Repr

/-- Counters of one source (R392). -/
structure GSrc where
  /-- REPORTS (R392, 14). -/
  reports : Nat := 0
  /-- RECOVERIES (R392, 14). -/
  recoveries : Nat := 0
  /-- LAST_RECSEQ (R392, 14). -/
  lastRec : Nat := 0
  /-- made a Fault report in the episode (R382, 14). -/
  inEpisode : Bool := false
  deriving DecidableEq, Repr

/-- What the Gong keeps of a source instance that has reported (R383, R389). -/
structure GInst where
  /-- source (R383, 14). -/
  src : Nat := 0
  /-- instance (R383, 14). -/
  inst : Nat := 0
  /-- time of its last report (R383, 14). -/
  lastRep : Nat := 0
  /-- time of its last record (R389, 14). -/
  lastRec : Option Nat := none
  /-- reports skipped (R389, 14). -/
  suppressed : Nat := 0
  /-- its condition holds (R374, 14). -/
  active : Bool := false
  /-- class of its last report (R383, 14). -/
  cls : Nat := 0
  /-- time until which a report below Fault counts in TOP_CLASS (R381, 14). -/
  warnTo : Nat := 0
  /-- its holds come from a Fault or Fatal report (R383, 14). -/
  holdHi : Bool := false
  /-- a SAFE hold of it is in force (R383, 14). -/
  holdSafe : Bool := false
  /-- a STOP_TICK hold of it is in force (R383, 14). -/
  holdTick : Bool := false
  /-- pins its SAFE hold covers (R375, 14). -/
  safePins : Nat := 0
  deriving DecidableEq, Repr

/-- The Gong (R373 to R392). -/
structure Gong where
  /-- reports on their way, earliest timestamp first (R378, R379, 14). -/
  inbox : List GReport := []
  /-- SAFE on its way to the pins of the listed groups, with the time of its arrival (R378, 14). -/
  safes : List (Nat × List (Fin 8)) := []
  /-- settings that differ from the defaults (R388, 14). -/
  sets : List GSet := []
  /-- log, oldest first (R389, 14). -/
  log : List GRec := []
  /-- NEXT_RECSEQ (R392, 14). -/
  nextRec : Nat := 1
  /-- LOG_LOST (R392, 14). -/
  lost : Nat := 0
  /-- source counters (R392, 14). -/
  srcs : Vector GSrc 32 := Vector.replicate 32 {}
  /-- instances (R383, 14). -/
  insts : List GInst := []
  /-- in the fault state (R381, 14). -/
  fault : Bool := false
  /-- a Fatal report is active (R381, 14). -/
  fatal : Bool := false
  /-- FAULT_TICK (R392, 14). -/
  faultTick : Nat := 0
  /-- RECOVERIES (R392, 14). -/
  recoveries : Nat := 0
  /-- QUIET_MS (R382, 14). -/
  quietMs : Nat := 100
  /-- time at which the quiet timer last restarted (R381, 14). -/
  quietFrom : Nat := 0
  /-- PRIOR_FATAL (R390, 14). -/
  prior : Option GRec := none
  /-- level of TICK (R385, 14). -/
  tick : Bool := false
  /-- toggle count of TICK_MIRROR (R30, 02). -/
  tickCount : Nat := 0
  /-- tick from which the 500 µs of the next toggle count (R385, 14). -/
  tickAt : Nat := 0
  /-- tick of the last heartbeat of each core (R386, 14). -/
  beats : Vector Nat 4 := Vector.replicate 4 0
  /-- cores that missed their heartbeat and have given none since (R386, 14). -/
  silent : Vector Bool 4 := Vector.replicate 4 false
  /-- RESETs in progress: target, source instance, tick of completion (R387, 14). -/
  resets : List (Nat × Nat × Nat) := []
  deriving DecidableEq, Repr

/-- A position entry (R417). -/
structure RingPos where
  /-- PRESENT (R417, 15). -/
  present : Bool := false
  /-- RUNNING (R417, 15). -/
  running : Bool := false
  /-- GLOBAL (R417, 15). -/
  global : Bool := false
  /-- HOLD (R417, 15). -/
  hold : Bool := false
  /-- GRADE (R417, 15). -/
  grade : Nat := 0
  /-- PASS (R417, 15). -/
  pass : Nat := 0
  /-- FLIGHT (R417, 15). -/
  flight : Nat := 0
  deriving DecidableEq, Repr

/-- A global raise that waits for a slot (R409). -/
structure GtWait where
  /-- GT (R409, 15). -/
  gt : Fin 16 := 0
  /-- origin (R409, 15). -/
  origin : Ts := {}
  /-- hop (R409, 15). -/
  hop : Nat := 0
  /-- it has missed a slot (R409, 15). -/
  missed : Bool := false
  deriving DecidableEq, Repr

/-- Beat Ring (R394 to R417). -/
structure BRing where
  /-- MASTER_SEL as sampled (R398, 15). -/
  master : Bool := false
  /-- ENABLE (R401, 15). -/
  enable : Bool := false
  /-- DB_LOG2 as written (R401, 15). -/
  dbLog2 : Nat := 22
  /-- GDL_PERIOD as written (R401, 15). -/
  gdlPeriod : Nat := 8192
  /-- declared flight times, fs (R401, 15). -/
  flights : Vector Nat 32 := Vector.replicate 32 0
  /-- STATE (R417, 15). -/
  st : RingSt := .down
  /-- RING_READY (R398, 15). -/
  trained : Bool := false
  /-- CONFLICT (R399, 15). -/
  conflict : Bool := false
  /-- HOLD (R414, 15). -/
  hold : Bool := false
  /-- ring position (R398, 15). -/
  pos : Nat := 0
  /-- N − 1 (R398, 15). -/
  countM1 : Nat := 0
  /-- TRAININGS (R417, 15). -/
  trainings : Nat := 0
  /-- LOOP (R417, 15). -/
  loop : Nat := 0
  /-- F (R417, 15). -/
  frames : Nat := 0
  /-- TF_UI (R417, 15). -/
  tfUi : Nat := 0
  /-- GDL (R417, 15). -/
  gdl : Nat := 0
  /-- GDL_PERIOD as trained (R417, 15). -/
  gdlPTrained : Nat := 8192
  /-- DB_LOG2 of the trained ring (R417, 15). -/
  dbTrained : Nat := 22
  /-- ALIGN_ERR (R417, 15). -/
  alignErr : Int := 0
  /-- TRAIN_TICK (R417, 15). -/
  trainTick : Nat := 0
  /-- MISSED_DB (R417, 15). -/
  missedDb : Nat := 0
  /-- LINK_ERRS (R417, 15). -/
  linkErrs : Nat := 0
  /-- INVALID_WINDOWS (R417, 15). -/
  invalidWin : Nat := 0
  /-- GT_SENT (R417, 15). -/
  gtSent : Nat := 0
  /-- GT_QUEUED (R417, 15). -/
  gtQueued : Nat := 0
  /-- GT_CLAMPED (R417, 15). -/
  gtClamped : Nat := 0
  /-- position entries (R417, 15). -/
  table : Vector RingPos 32 := Vector.replicate 32 {}
  /-- RING_TRAINs in flight: header, tick, at the master (R402, 15). -/
  trainHdrs : List (Hdr × Nat × Bool) := []
  /-- tick of acceptance (R403, 15). -/
  trainStart : Nat := 0
  /-- a training is in progress (R403, 15). -/
  inTraining : Bool := false
  /-- successive Downbeats with |e| ≤ 16 (R412, 15). -/
  goodDbs : Nat := 0
  /-- Downbeats missed in a row (R414, 15). -/
  missedRow : Nat := 0
  /-- correction steps still to take, fine LSB (R412, 15). -/
  corr : Int := 0
  /-- steps taken in this Downbeat period (R412, 15). -/
  corrDone : Nat := 0
  /-- position taken in the training in progress (R398, 15). -/
  posNew : Nat := 0
  /-- N − 1 found in the training in progress (R398, 15). -/
  countNew : Nat := 0
  /-- padding in the master, fine LSB (R404, 15). -/
  pad : Nat := 0
  /-- the count is loaded in the training in progress (R406, 15). -/
  loaded : Bool := false
  /-- last decision word that left the device (R408, 15). -/
  wordOut : Nat := 0
  /-- last GT slot of its own that left the device (R409, 15). -/
  slotOut : Nat := 0
  /-- Bar of the last step (R412, 15). -/
  corrBar : Nat := 0
  /-- d_k, fine LSB (R406, 15). -/
  delay : Nat := 0
  /-- sum of load offsets and alignment steps since reset, fine LSB (R152, 05). -/
  phi : Int := 0
  /-- RING flag of timestamps (R153, 00). -/
  ringBit : Bool := false
  /-- raises that wait for a slot (R409, 15). -/
  gtWait : List GtWait := []
  /-- origins of raises received, fine LSB, newest first (R137, 04). -/
  gtSeen : List (Fin 16 × Nat) := []
  /-- window, position, bit, valid; newest first (R408, 15). -/
  words : List (Nat × Nat × Bool × Bool) := []
  /-- times for which GT slots are invalid (R415, 15). -/
  gtBad : List (Nat × Nat) := []
  /-- time of the last ring loss (R416, 15). -/
  lostAt : Option Nat := none
  /-- lock of each RING_IN lane (R415, 15). -/
  laneLock : Vector Bool 4 := Vector.replicate 4 false
  /-- bypass closed (R396, 15). -/
  bypass : Bool := true
  /-- only idle blocks are sent after a conflict (R399, 15). -/
  idleOnly : Bool := false
  deriving DecidableEq, Repr

/-- A firmware image in a flash region (R421). -/
structure FwImage where
  /-- MAGIC correct and reserved fields zero (R422, 16). -/
  magicOk : Bool := true
  /-- IMAGE_VERSION (R421, 16). -/
  version : Nat := 0x03020000
  /-- SLOT (R421, 16). -/
  slot : Nat := 0
  /-- SVN (R421, 16). -/
  svn : Nat := 1
  /-- PUBLIC_KEY matches OTP slot SLOT (R422, 16). -/
  keyOk : Bool := true
  /-- SIGNATURE verifies (R422, 16). -/
  sigOk : Bool := true
  /-- DIGEST matches the body (R422, 16). -/
  digestOk : Bool := true
  /-- offset and bytes written by FW_UPDATE, newest first (R421, 16). -/
  writes : List (Nat × List Byte) := []
  deriving DecidableEq, Repr

/-- OTP array (R419 to R437). -/
structure Otp where
  /-- revocation bits (R424, 16). -/
  revoked : Vector Bool 3 := Vector.replicate 3 false
  /-- anti-rollback counter (R423, 16). -/
  counter : Nat := 0
  /-- officer key hash; none if blank (R426, 16). -/
  officerHash : Option (List Byte) := none
  /-- POLICY_SET (R428, 16). -/
  policySet : Bool := false
  /-- the identity seed is erased (ZEROIZED) (R436, 16). -/
  seedGone : Bool := false
  deriving DecidableEq, Repr

/-- Security enclave (R419 to R437). -/
structure Sec where
  /-- OTP (R419, 16). -/
  otp : Otp := {}
  /-- image A (R421, 16). -/
  imgA : FwImage := {}
  /-- image B (R421, 16). -/
  imgB : FwImage := {magicOk := false}
  /-- IMAGE: running image (R456, 17). -/
  runB : Bool := false
  /-- EXPERT_OK in force (R426, 16). -/
  expertOk : Nat := 255
  /-- CYCLE_OK in force (R426, 16). -/
  cycleOk : Nat := 255
  /-- policy record in the flash (R428, 16). -/
  policyRec : Option (Nat × Nat) := none
  /-- the record authenticates (R428, 16). -/
  policyValid : Bool := true
  /-- DEBUG (R435, 16). -/
  debug : Bool := false
  /-- SCOPE open (R435, 16). -/
  debugScope : Nat := 0
  /-- APPROVED (R420, 16). -/
  approved : Bool := true
  /-- tick of the last failed PROVE, while its lockout holds (R427, 16). -/
  lockTick : Option Nat := none
  /-- SESSION number to assign (R429, 16). -/
  nextSession : Nat := 1
  /-- DRBG draws made (R419, 16). -/
  drbg : Nat := 0
  /-- ZEROIZE_N is low (R437, 16). -/
  zeroPin : Bool := false
  /-- level of a zeroization in progress (R436, 16). -/
  zeroing : Option Nat := none
  /-- ZEROIZEs in flight (R436, 16). -/
  zeroHdrs : List Hdr := []
  /-- a zeroization waits for the end of step 3 (R449, 17). -/
  zeroLater : Bool := false
  /-- DEBUG_UNLOCK in flight and its SCOPE (R435, 16). -/
  debugHdr : Option (Hdr × Nat) := none
  /-- FW_UPDATE in flight and its OP (R424, 16). -/
  fwHdr : Option (Hdr × Nat) := none
  deriving DecidableEq, Repr

/-- A rail (R441, R456). -/
structure Rail where
  /-- ENABLED (R456, 17). -/
  enabled : Bool := false
  /-- SUPPLY condition holds (R456, 17). -/
  out : Bool := false
  /-- MV as last measured outside its tolerance or on its return; none: not measured, a read gives a free value (R456, 17). -/
  mv : Option Int := none
  deriving DecidableEq, Repr

/-- A thermal sensor (R454, R456). -/
structure Sensor where
  /-- TEMP, 1/16 °C (R456, 17). -/
  temp : Int := 0
  /-- HIGH (R456, 17). -/
  high : Bool := false
  /-- CRIT (R456, 17). -/
  crit : Bool := false
  deriving DecidableEq, Repr

/-- Power, clocks, reset and start-up (R439 to R457). -/
structure Power where
  /-- VIN has passed 11.4 V and start-up runs (R439, 17). -/
  vin : Bool := false
  /-- STEP: last start-up step completed (R456, 17). -/
  stepDone : Nat := 0
  /-- start-up has stopped (R448, 17). -/
  failed : Bool := false
  /-- held in reset by overvoltage or temperature (R442, 17). -/
  held : Bool := false
  /-- RESET_CAUSE (R456, 17). -/
  cause : Nat := 0
  /-- BOOT_FAIL (R456, 17). -/
  bootFail : Nat := 0
  /-- RESETS (R456, 17). -/
  resets : Nat := 0
  /-- READY_MS (R456, 17). -/
  readyMs : Nat := 0
  /-- HBM_TRIES (R456, 17). -/
  hbmTries : Nat := 0
  /-- READY (R30, 02). -/
  ready : Bool := false
  /-- READY_TICK (R68, 02). -/
  readyTick : Nat := 0
  /-- REFCLK valid (R445, 17). -/
  refclkOk : Bool := true
  /-- clock unit locked (R445, 17). -/
  locked : Bool := false
  /-- rails (R441, 17). -/
  rails : Vector Rail 11 := Vector.replicate 11 {}
  /-- sensors (R454, 17). -/
  sensors : Vector Sensor 16 := Vector.replicate 16 {}
  /-- flash lines at high impedance (R452, 17). -/
  flashHiz : Bool := true
  /-- data of the last SMBus read (R457, 17). -/
  smbOut : List Byte := []
  /-- the last SMBus transaction was answered with NACK (R457, 17). -/
  smbNack : Bool := false
  deriving DecidableEq, Repr

/-- Reasons a step stops with a fault.
No command of this block stops so; the type exists because the interface asks for one. -/
inductive Fault where
  /-- Raised by no command. Safe: a run never ends in it. -/
  | unused
  deriving DecidableEq, Repr

/-- Reasons a command is refused by the model. -/
inductive Refusal where
  /-- Raised by an arm of exec whose command has no meaning yet. Safe: nothing can be proved of what follows. -/
  | notModelled (mnemonic : String)
  deriving DecidableEq, Repr

/-- The whole block. -/
structure State where
  /-- queue of the commands that wait, first in, first out (the model's own field). -/
  pending : List Instr := []
  /-- Metronome in fine LSB: tick count times 512 plus the alignment fraction (R150, 05). -/
  metro : Nat := 0
  /-- index of the next free value: the model's own field (the model's own field). -/
  free : Nat := 0
  /-- host link (R27, 02). -/
  link : HostLink := {}
  /-- contexts (R32, 02). -/
  ctxs : Vector Ctx 8 := Vector.replicate 8 {}
  /-- committed configuration (R62, 02). -/
  cfg : Cfg := {}
  /-- commits not yet in full effect (R61, 02). -/
  commits : List PendCommit := []
  /-- sequencers (R101, 04). -/
  seqs : Vector Seq 4 := Vector.replicate 4 {}
  /-- user pins (R9, 01). -/
  pins : Vector Pin 128 := Vector.replicate 128 {}
  /-- groups (R9, 01). -/
  grps : Vector Grp 8 := Vector.replicate 8 {}
  /-- Pattern Store (R72, 03). -/
  store : Store := {}
  /-- Fail Logs (R246, 08). -/
  flogs : Vector Flog 4 := Vector.replicate 4 {}
  /-- sequencer whose staging buffer is served next (R249, 08). -/
  flogNext : Fin 4 := 0
  /-- Fail Maps (R241, 08). -/
  fmaps : Vector Fmap 4 := Vector.replicate 4 {}
  /-- capture engines (R257, 09). -/
  caps : Vector Cap 8 := Vector.replicate 8 {}
  /-- engine drained next (R284, 09). -/
  capNext : Fin 8 := 0
  /-- the next HOSTOUT access serves FAILLOG_DRAIN (R251, 08). -/
  outFlog : Bool := false
  /-- interval units (R289, 10). -/
  tmus : Vector Tmu 16 := Vector.replicate 16 {}
  /-- Tap Matrix (R305, 11). -/
  taps : TapM := {}
  /-- alarms (R173, 05). -/
  alarms : Vector Alarm 8 := Vector.replicate 8 {}
  /-- time-capture units (R175, 05). -/
  mcs : Vector TimeCap 8 := Vector.replicate 8 {}
  /-- SRAMs (R328, 12). -/
  sram : Sram := {}
  /-- Brush (R348, 12). -/
  brush : Vector Brush 9 := Vector.replicate 9 {}
  /-- Tuning (R350, 13). -/
  tune : Tuning := {}
  /-- flash copies A and B (R353, 13). -/
  flash : Vector CalCopy 2 := Vector.replicate 2 {}
  /-- Gong (R373, 14). -/
  gong : Gong := {}
  /-- Beat Ring (R394, 15). -/
  ring : BRing := {}
  /-- enclave (R419, 16). -/
  sec : Sec := {}
  /-- power and start-up (R448, 17). -/
  power : Power := {}
  deriving DecidableEq, Repr

/-- The machine right after power-on: every field at its reset value, start-up at its first step (R448). -/
def State.reset : State := {}

end Sys2Proof.Machine
end

