-- ==== Sys2Proof/Machine/Ops.lean ====
section
/-! DEFINITION. The named operations over State that every meaning shares: changes of one element, time and timestamps,
free values, reports to the Gong, tap raises, interrupts, and the front-register views. -/

namespace Sys2Proof.Machine

open Sys2Proof

/-! ### One element changed -/

/-- Context `c` changed. -/
def State.modCtx (s : State) (c : Fin 8) (f : Ctx → Ctx) : State := { s with ctxs := vmod s.ctxs c f }
/-- Sequencer `q` changed. -/
def State.modSeq (s : State) (q : Fin 4) (f : Seq → Seq) : State := { s with seqs := vmod s.seqs q f }
/-- Pin `p` changed. -/
def State.modPin (s : State) (p : Fin 128) (f : Pin → Pin) : State := { s with pins := vmod s.pins p f }
/-- Group `g` changed. -/
def State.modGrp (s : State) (g : Fin 8) (f : Grp → Grp) : State := { s with grps := vmod s.grps g f }
/-- Capture engine `e` changed. -/
def State.modCap (s : State) (e : Fin 8) (f : Cap → Cap) : State := { s with caps := vmod s.caps e f }
/-- Interval unit `u` changed. -/
def State.modTmu (s : State) (u : Fin 16) (f : Tmu → Tmu) : State := { s with tmus := vmod s.tmus u f }
/-- Fail Log `q` changed. -/
def State.modFlog (s : State) (q : Fin 4) (f : Flog → Flog) : State := { s with flogs := vmod s.flogs q f }
/-- Fail Map `q` changed. -/
def State.modFmap (s : State) (q : Fin 4) (f : Fmap → Fmap) : State := { s with fmaps := vmod s.fmaps q f }
/-- Alarm `n` changed. -/
def State.modAlarm (s : State) (n : Fin 8) (f : Alarm → Alarm) : State := { s with alarms := vmod s.alarms n f }
/-- Time-capture unit `n` changed. -/
def State.modMc (s : State) (n : Fin 8) (f : TimeCap → TimeCap) : State := { s with mcs := vmod s.mcs n f }
/-- Tap channel `n` changed. -/
def State.modChan (s : State) (n : Fin 64) (f : TapChan → TapChan) : State :=
  { s with taps := { s.taps with chans := vmod s.taps.chans n f } }
/-- Consumer input `i` changed. -/
def State.modIn (s : State) (i : Fin 161) (f : TapIn → TapIn) : State :=
  { s with taps := { s.taps with ins := vmod s.taps.ins i f } }
/-- TAP_IO pin `n` changed. -/
def State.modIo (s : State) (n : Fin 8) (f : EvPin → EvPin) : State :=
  { s with taps := { s.taps with ios := vmod s.taps.ios n f } }
/-- Brush log of memory `m` changed. -/
def State.modBrush (s : State) (m : Fin 9) (f : Brush → Brush) : State := { s with brush := vmod s.brush m f }
/-- Ring `k` of context `c` changed. -/
def State.modRing (s : State) (c : Fin 8) (k : Fin 4) (f : Ring → Ring) : State :=
  s.modCtx c (fun x => { x with rings := vmod x.rings k f })
/-- Store changed. -/
def State.modStore (s : State) (f : Store → Store) : State := { s with store := f s.store }
/-- Gong changed. -/
def State.modGong (s : State) (f : Gong → Gong) : State := { s with gong := f s.gong }
/-- The engine is armed (R268). -/
def Cap.armed (e : Cap) : Bool := e.st == .waitTap || e.st == .ready || e.st == .post || e.st == .rearm || e.st == .done

/-- Tap Matrix changed. -/
def State.modTaps (s : State) (f : TapM → TapM) : State := { s with taps := f s.taps }
/-- Beat Ring changed. -/
def State.modBeat (s : State) (f : BRing → BRing) : State := { s with ring := f s.ring }
/-- Tuning changed. -/
def State.modTune (s : State) (f : Tuning → Tuning) : State := { s with tune := f s.tune }
/-- Enclave changed. -/
def State.modSec (s : State) (f : Sec → Sec) : State := { s with sec := f s.sec }
/-- Power and start-up changed. -/
def State.modPower (s : State) (f : Power → Power) : State := { s with power := f s.power }
/-- Host link changed. -/
def State.modLink (s : State) (f : HostLink → HostLink) : State := { s with link := f s.link }
/-- Memories changed. -/
def State.modSram (s : State) (f : Sram → Sram) : State := { s with sram := f s.sram }

/-! ### Channels and groups (R9) -/

/-- The group of a user pin. -/
def grpOf (p : Fin 128) : Fin 8 := ⟨p.val / 16, by omega⟩
/-- The pin entry of a user pin in its group. -/
def entOf (p : Fin 128) : Fin 16 := ⟨p.val % 16, by omega⟩
/-- User pin `e` of group `g`. -/
def pinOf (g : Fin 8) (e : Fin 16) : Fin 128 := ⟨16 * g.val + e.val, by omega⟩
/-- The pin die of a group. -/
def dieOf (g : Fin 8) : Fin 4 := ⟨g.val / 2, by omega⟩
/-- Committed entry of a pin. -/
def State.pinCfg (s : State) (p : Fin 128) : PinCfg := s.cfg.grps[grpOf p].pins[entOf p]
/-- The Gong instance of a pin (R373). -/
def pinInst (p : Fin 128) : Nat := (grpOf p).val * 256 + (entOf p).val

/-! ### Time (R150 to R155) -/

/-- Metronome tick count. [DESIGN CHOICE, log 5] -/
def State.tick (s : State) : Nat := s.metro / 512
/-- The latest edge, at or before now, of an island clock with a period of `n` fine LSB (R152). -/
def State.edge (s : State) (n : Nat) : Nat := (s.metro - ((s.metro : Int) - s.ring.phi) % n : Int).toNat
/-- Flag bits of a timestamp: ring state, source, and the event's own flags (R153). -/
def State.tsFlags (s : State) (src : Nat) (wide clash rec : Bool) : Nat :=
  b2n s.ring.ringBit * 64 + b2n s.ring.hold * 32 + src % 4 * 8 + b2n wide * 4 + b2n clash * 2 + b2n rec
/-- A timestamp taken from an island clock with a period of `n` fine LSB (R152). -/
def State.tsIsland (s : State) (n : Nat) : Ts := { fine := s.edge n / 512 * 512, flags := s.tsFlags 0 false false false }
/-- Timestamp taken in the supervisor island. -/
def State.nowSI (s : State) : Ts := s.tsIsland 1280
/-- The first edge of an island clock with a period of `n` fine LSB that lies at or after a time (R152). -/
def State.edgeFrom (s : State) (n t : Nat) : Nat := ((t : Int) + (s.ring.phi - (t : Int)) % (n : Int)).toNat

/-- Timestamp taken in a 1.0 GHz island. -/
def State.nowGHz (s : State) : Ts := s.tsIsland 2048
/-- Timestamp taken in the clock unit or a timing island. -/
def State.nowTick (s : State) : Ts := { fine := s.tick * 512, flags := s.tsFlags 0 false false false }
/-- The 80-bit form of a timestamp (R153). -/
def Ts.val (t : Ts) : Nat := cut 73 t.fine * 128 + t.flags
/-- The ten bytes of a timestamp. -/
def Ts.bytes (t : Ts) : List Byte := le 10 t.val
/-- The tick count of a timestamp. -/
def Ts.tick (t : Ts) : Nat := t.fine / 512

/-- Ticks in a number of nanoseconds. [DESIGN CHOICE, log 85] -/
def nsT (n : Nat) : Nat := 4 * n
/-- Ticks in a number of microseconds. [DESIGN CHOICE, log 85] -/
def usT (n : Nat) : Nat := 4000 * n
/-- Ticks in a number of milliseconds. [DESIGN CHOICE, log 85] -/
def msT (n : Nat) : Nat := 4000000 * n
/-- Fine LSB in a number of nanoseconds. -/
def nsF (n : Nat) : Nat := 2048 * n

/-- A time in femtoseconds as fine LSB, to the nearest, halves up (R163). [DEDUCED, log 42] -/
def fsToFine (f : Int) : Int := (f * 2048 + 500000) / 1000000

/-! ### Free values -/

/-- The next free value. [DESIGN CHOICE, log 2] -/
def State.freeVal (s : State) : Nat := Config.freeNat s.free
/-- The state after one free value was drawn. [DESIGN CHOICE, log 2] [DESIGN CHOICE, log 133] -/
def State.drawn (s : State) : State := { s with free := s.free + 1 }
/-- The next free value as a truth value. [DESIGN CHOICE, log 2] -/
def State.freeBool (s : State) : Bool := Config.freeNat s.free % 2 == 1

/-! ### Ownership (R10, R49) -/

/-- The owner that a packet acts for: its context, or SECURE. -/
def Hdr.who (h : Hdr) : Owner := if h.context = 15 then .secure else .ctx h.mb

/-- Does the context hold the officer role? -/
def State.officer (s : State) (c : Fin 8) : Bool := s.ctxs[c].isOpen && s.ctxs[c].officer

/-- The mailbox that serves an owner: the context's own, or that of the officer. -/
def State.mbOf (s : State) : Owner → Option (Fin 8)
  | .none => none
  | .ctx c => some c
  | .secure => (List.finRange 8).find? (fun c => s.officer c)

/-- The CONTEXT value of an owner. -/
def Owner.code : Owner → Nat
  | .none => 0xE
  | .ctx c => c.val
  | .secure => 0xF

/-- The group's owning sequencer runs a burst. -/
def State.grpRuns (s : State) (g : Fin 8) : Bool :=
  match s.grps[g].seq with
  | none => false
  | some q => s.seqs[q].st != .idle

/-- The groups that a sequencer owns, ascending. -/
def State.grpsOf (s : State) (q : Fin 4) : List (Fin 8) :=
  (List.finRange 8).filter (fun g => s.grps[g].seq == some q)

/-- The pins that a sequencer owns, ascending. -/
def State.pinsOf (s : State) (q : Fin 4) : List (Fin 128) :=
  (s.grpsOf q).flatMap (fun g => (List.finRange 16).map (fun e => pinOf g e))

/-! ### Placed drive events (R167, R180, R185) -/

/-- The minimum spacing, 256 fine LSB (R164). -/
def minSpace : Nat := 256

/-- It is a drive event while the driver is ON or OFF (R180, R185). -/
def DrvAct.isDrive (a : DrvAct) (on : Bool) : Bool :=
  match a with
  | .assign _ => true
  | .turnOn _ => !on
  | .release _ => on
  | _ => false

/-- The driver state that it leaves. -/
def DrvAct.after (a : DrvAct) (on : Bool) : Bool :=
  match a with
  | .assign _ => true
  | .turnOn _ => true
  | .release _ => false
  | .reflex n => n != 3
  | .halt m => on && m == 0
  | .start => on

/-- Times of the events that wait, in their order, from the last drive event, the last event and the driver state: a drive event
keeps the spacing from the one before (R167, R185). [DEDUCED, log 49] -/
def replanAux : Option Nat → Nat → Bool → List DrvEv → List DrvEv
  | _, _, _, [] => []
  | last, prev, on, e :: l =>
    let d := e.act.isDrive on
    let u := max (max e.want prev) (match last with | some x => if d then x + minSpace else 0 | none => 0)
    { e with fine := u, live := d, clash := d && u != e.want } :: replanAux (if d then some u else last) u (e.act.after on) l

/-- The events that wait at a pin are placed from its present driver state. [DEDUCED, log 56] -/
def Pin.replan (p : Pin) : Pin := { p with driveQ := replanAux p.lastDrive 0 p.on p.driveQ }

/-- The state before the drive events of a tick is kept for a trip in the same tick (R26, R206). -/
def Pin.remember (p : Pin) (tick : Nat) : Pin :=
  if p.drvTick = some tick then p else { p with drvTick := some tick, preLevel := p.level, preDriven := p.driven, preCode := p.lastCode }

/-- A guard of the pin is latched (R206). -/
def Pin.latched (p : Pin) : Bool := p.gDrv.latched || p.gPpmu.latched || p.gOv.latched

/-- The PPMU output of a pin is on: neither a guard latch nor the safe state holds it at high impedance (R26, R206, R211, R380). -/
def Pin.ppmuOut (p : Pin) : Bool := p.ppmu.mode != 0 && !p.latched && !p.safe

/-- A guard of the pin is latched at a tick (R216). -/
def Pin.latchedAt (p : Pin) (t : Nat) : Bool :=
  p.latches.any (fun l => decide (l.1 ≤ t) && (match l.2 with | none => true | some e => decide (t < e)))

/-- The measurement of a group in progress is a PPMU measurement that has started: it has the ADC (R215, R216). -/
def Grp.adcHeld (g : Grp) : Option Meas :=
  match g.jobs with
  | .ppmu m :: _ => if m.started.isSome then some m else none
  | _ => none

/-- A PPMU measurement has the group's ADC, which Tuning waits for (R215, R362). -/
def State.adcBusy (s : State) (g : Fin 8) : Bool := s.grps[g].adcHeld.isSome

/-- Window edges come before endpoint events of the same time, and an opening before a close (R293). -/
def TmuSig.rank : TmuSig → Nat
  | .opens => 0
  | .closes => 1
  | _ => 2

/-- A window edge or event joins those on their way to a unit, in the order of their times. -/
def Tmu.push (x : Tmu) (i : TmuIn) : Tmu :=
  let before (j : TmuIn) : Bool := decide (j.t < i.t) || (j.t == i.t && decide (j.sig.rank ≤ i.sig.rank))
  { x with inq := x.inq.takeWhile before ++ i :: x.inq.dropWhile before }

/-- EDGE of an endpoint takes an edge (R298). -/
def TmuEnd.takes (e : TmuEnd) (rising : Bool) : Bool := e.edge == 2 || (e.edge == 0) == rising

/-- An event comes to the endpoints of an armed unit that `sel` names (R291). -/
def Tmu.feed (x : Tmu) (sel : TmuEnd → Bool) (i : TmuIn) : Tmu :=
  if x.st = .idle then x
  else
    let y := if sel x.cfg.start then x.push { i with sig := .start } else x
    if sel x.cfg.stop then y.push { i with sig := .stop } else y

/-- An event comes to the units (R290, R291). -/
def State.tmuFeed (s : State) (sel : TmuEnd → Bool) (i : TmuIn) : State := { s with tmus := vmap s.tmus (fun _ x => x.feed sel i) }

/-- A crossing of a comparator comes to the units that name it (R290, R291). -/
def State.feedCross (s : State) (p : Fin 128) (voh rising : Bool) (t : Nat) : State :=
  s.tmuFeed (fun e => e.kind == 0 && e.pin == p && e.vol != voh && e.takes rising) { t := t, due := t }

/-- A drive event that changes the driven level of a pin comes to the units that name it; it rises if the new level is the
higher (R291). -/
def State.feedDrive (s : State) (p : Fin 128) (new : Level) (t : Nat) (clash : Bool) : State :=
  let c := s.pinCfg p
  let rising := if new = .vih then decide (c.vil < c.vih) else decide (c.vih < c.vil)
  s.tmuFeed (fun e => e.kind == 1 && e.pin == p && e.takes rising) { t := t, due := t, clash := clash }

/-- An edge of a GATE pin comes to the units that it gates or ends, 2 ticks after its tick; one that takes back a level held for
less than that was never seen (R291, R293, R323). [DEDUCED, log 107] -/
def Tmu.gateEdge (x : Tmu) (n : Fin 4) (level : Bool) (tick : Nat) : Tmu :=
  let short (i : TmuIn) : Bool := i.gate == some n && decide (tick * 512 < i.t + 1024)
  let i : TmuIn := { t := tick * 512, due := tick * 512 + 1024, gate := some n }
  if x.st = .idle then x
  else if x.inq.any short then { x with inq := x.inq.filter (fun j => !short j) }
  else
    let y := if !x.cfg.gateTap && x.cfg.gatePin == n then x.push { i with sig := if level = x.cfg.gateLow then .closes else .opens } else x
    y.feed (fun e => e.kind == 2 && e.gate == n && e.takes level) i

/-- Drive events of the present tick have no effect (R26, R206). -/
def Pin.undoTick (p : Pin) (tick : Nat) : Pin :=
  if p.drvTick = some tick then { p with level := p.preLevel, driven := p.preDriven, lastCode := p.preCode } else p

/-! ### Reports and taps -/

/-- Default class of a Gong source: 0 Note, 1 Warn, 2 Fault, 3 Fatal (R373).
TUNING_DRIFT and CAL_RESTORE have two, which their reports carry. -/
def gongDefault (src : Nat) : Nat :=
  if src ∈ [1, 2, 3, 4, 5] then 3
  else if src ∈ [6, 8, 9] then 2
  else if src ∈ [7, 10, 12, 0x11, 0x12, 0x13, 0x14, 0x18, 0x1A, 0x1C, 0x1D, 0x1E] then 1
  else 0

/-- The supervisor has stopped responding: every core of it is silent (R26, R386). [DEDUCED, log 150] -/
def State.supDead (s : State) : Bool := s.gong.silent == Vector.replicate 4 true

/-- Does a report come after another, by timestamp and then by source code (R379)? -/
def GReport.after (a b : GReport) : Bool := decide (b.ts.fine < a.ts.fine) || (a.ts.fine == b.ts.fine && decide (b.src < a.src))

/-- A report with a default class of its own joins those on their way to the Gong (R373, R378). [DEDUCED, log 132] -/
def State.reportC (s : State) (src inst dflt : Nat) (cleared : Bool) (ts : Ts) (d0 d1 hop : Nat) : State :=
  let r : GReport := { src := src, inst := inst, dflt := dflt, cleared := cleared, ts := ts, d0 := cut 32 d0, d1 := cut 32 d1, hop := hop, fine := s.metro }
  s.modGong (fun g => { g with inbox := g.inbox.takeWhile (fun x => !x.after r) ++ r :: g.inbox.dropWhile (fun x => !x.after r) })

/-- A report with its source's default class. -/
def State.report (s : State) (src inst : Nat) (cleared : Bool) (ts : Ts) (d0 d1 : Nat) : State :=
  s.reportC src inst (gongDefault src) cleared ts d0 d1 0

/-- A producer raises a tap at a time, which waits to enter its channels (R305, R306). -/
def State.raiseAt (s : State) (fine prod : Nat) (ts : Ts) (hop : Nat) (only : Option (Fin 64)) (edge : Option Bool) : State :=
  let r : Raise := { prod := prod, ts := ts, hop := hop, only := only, fine := fine, edge := edge }
  s.modTaps (fun m => { m with raises := m.raises ++ [r] })

/-- A producer raises a tap now. -/
def State.raise (s : State) (prod : Nat) (ts : Ts) (hop : Nat) (only : Option (Fin 64)) (edge : Option Bool) : State :=
  s.raiseAt s.metro prod ts hop only edge

/-! ### Interrupts and device state -/

/-- Entry `v` of the MSI-X table is sent as a memory write (R28, R43). [PRESUMED, log 28] -/
def State.msix (s : State) (v : Fin 64) : State :=
  if s.link.linkUp then
    let e := s.link.msix[v]
    if e[3].getLsbD 0 then s.modLink (fun l => { l with pba := l.pba ||| 2 ^ v.val })
    else s.modLink (fun l => { l with bus := { addr := e[0].toNat + 2 ^ 32 * e[1].toNat, bytes := le 4 e[2].toNat } :: l.bus })
  else s

/-- A source instance whose report is active below Fault (R381, R383). -/
def GInst.liveWarn (i : GInst) (now : Nat) : Bool := i.cls == 1 && (i.active || now < i.warnTo)

/-- Highest active Gong class (R30). -/
def State.topClass (s : State) : Nat :=
  if s.gong.fatal then 3 else if s.gong.fault then 2
  else if s.gong.insts.any (fun i => i.liveWarn s.metro) then 1 else 0

/-- DEV_STATE (R30). -/
def State.devState (s : State) : Nat :=
  b2n s.power.ready * 2 ^ 31 + b2n s.gong.fault * 2 ^ 30 + b2n s.gong.fatal * 2 ^ 29 + b2n s.ring.trained * 2 ^ 28 + s.topClass

/-- RING_INFO (R30). -/
def State.ringInfo (s : State) : Nat :=
  b2n s.ring.trained * 2 ^ 31 + s.ring.countM1 % 32 * 2 ^ 16 + b2n s.ring.master * 256 + s.ring.pos % 32

/-- Vector 0 is signaled if DEV_STATE or RING_INFO bit 31 changed since `s0` (R43). [DEDUCED, log 27] -/
def State.devEvents (s0 s : State) : State :=
  if s0.devState ≠ s.devState ∨ s0.ring.trained ≠ s.ring.trained then s.msix 0 else s

/-- DEV_ID (R30). -/
def devId : Nat := 0x8128 * 2 ^ 16 + (if Config.gradeM then 0x4D else 0x48) * 256 + 0xB0

/-- The byte at an offset of an image, if FW_UPDATE wrote it. -/
def FwImage.wrote (m : FwImage) (off : Nat) : Option Byte :=
  (m.writes.find? (fun w => w.1 ≤ off && off < w.1 + w.2.length)).map (fun w => (w.2.drop (off - w.1)).headD 0)

/-- `n` bytes at an offset: as written, else those of `d`. -/
def FwImage.rd (m : FwImage) (off n d : Nat) : Nat :=
  unle ((List.range n).map (fun i => (m.wrote (off + i)).getD (BitVec.ofNat 8 (d / 256 ^ i))))

/-- IMAGE_VERSION of image B or A: as FW_UPDATE wrote it, else release 3.2 with the build number of the image as shipped
(R30, R421). [PRESUMED, log 117] -/
def FwImage.release (m : FwImage) (b : Bool) : Nat := m.rd 4 4 (m.version + Config.build b % 65536)

/-- FW_RELEASE: IMAGE_VERSION of the running image (R30, R421). -/
def State.fwRelease (s : State) : Nat := if s.sec.runB then s.sec.imgB.release true else s.sec.imgA.release false

/-- CTX_STATE.STALLED: some response of the context does not fit into its ring (R42). -/
def Entry.units (e : Entry) : Nat := 1 + (padTo 32 e.payload).length / 32 + (if e.wrap then 1 else 0)

/-- Units of the ring that hold entries not yet released (R41, R42). -/
def Ring.used (r : Ring) : Nat := (r.prod + r.size / 32 - r.cons) % (r.size / 32)

/-- An entry of `n` units fits, with at least one unit left free (R42). -/
def Ring.fits (r : Ring) (n : Nat) : Bool := r.used + n + 1 ≤ r.size / 32

/-- Some entry that waits does not fit (R42). -/
def Ring.stalled (r : Ring) : Bool := r.isOpen && !r.queue.isEmpty && !r.fits (r.queue.foldl (fun n e => n + e.units) 0)

/-- CTX_STATE.STALLED (R42). -/
def Ctx.stalled (x : Ctx) : Bool := (List.finRange 4).any (fun k => x.rings[k].stalled)

/-- CTX_STATE (R30). -/
def Ctx.stateReg (x : Ctx) : Nat :=
  b2n x.isOpen * 2 ^ 31 + b2n x.expert * 2 ^ 30 + b2n x.officer * 2 ^ 29 + b2n x.allowCycle * 2 ^ 28 +
  b2n x.stalled * 2 ^ 27 + b2n x.closing * 2 ^ 26 + cut 13 x.inflight.length

/-- TICK toggles: ready, not in the fault state, no hold in force (R385). -/
def State.tickRuns (s : State) : Bool :=
  s.power.ready && !s.gong.fault && !s.gong.insts.any (fun i => i.holdTick)

/-- TICK_MIRROR (R30). -/
def State.tickMirror (s : State) : Nat := b2n s.gong.tick + 2 * b2n s.tickRuns + s.gong.tickCount % 65536 * 65536

/-- A per-context front register, by offset in its block (R30). -/
def Ctx.reg (x : Ctx) (off : Nat) : Nat :=
  if off = 0x00 then x.prod
  else if off = 0x04 then x.cons
  else if off = 0x08 then x.stateReg
  else if off = 0x0C then x.quota
  else if off = 0x10 then x.dropped
  else if off = 0x14 then x.badCrc * 65536 + x.badPacket
  else if off = 0x18 then x.lastStatus * 65536 + x.lastSub
  else if off = 0x1C then x.delayed
  else if off % 4 = 0 ∧ 0x20 ≤ off ∧ off < 0x30 then x.rings[fin 4 ((off - 0x20) / 4)].cons
  else if off % 4 = 0 ∧ 0x30 ≤ off ∧ off < 0x40 then x.rings[fin 4 ((off - 0x30) / 4)].prod
  else 0

/-- The value a naturally aligned 32-bit read of BAR0 returns; any other offset reads zero (R29, R30, R31).
TIME0 is read through its latch. -/
def State.bar0 (s : State) (off : Nat) : Nat :=
  if off = 0x0000 then devId
  else if off = 0x0004 then s.fwRelease
  else if off = 0x0008 then 3
  else if off = 0x000C then s.devState
  else if off = 0x0010 then s.tickMirror
  else if off = 0x0014 then s.ringInfo
  else if off = 0x0020 then cut 32 s.link.timeLatch
  else if off = 0x0024 then cut 32 (s.link.timeLatch / 2 ^ 32)
  else if off = 0x0028 then cut 16 (s.link.timeLatch / 2 ^ 64)
  else if off = 0x0030 then b2n s.link.xbCollided + s.link.xbCollisions * 65536
  else if 0x1000 ≤ off ∧ off < 0x1800 then s.ctxs[fin 8 ((off - 0x1000) / 256)].reg ((off - 0x1000) % 256)
  else if off % 4 = 0 ∧ 0x3000 ≤ off ∧ off < 0x3400 then
    (s.link.msix[fin 64 ((off - 0x3000) / 16)])[fin 4 ((off - 0x3000) % 16 / 4)].toNat
  else if off = 0x3800 then cut 32 s.link.pba
  else if off = 0x3804 then s.link.pba / 2 ^ 32
  else 0

/-- A host read of `size` bytes of BAR0: anything but a naturally aligned 32-bit read returns zero (R29). -/
def State.bar0Read (s : State) (off size : Nat) : Nat := if size = 4 ∧ off % 4 = 0 then s.bar0 off else 0

/-- A host read of BAR4 returns zero (R29). -/
def State.bar4Read (_s : State) (_off : Nat) : Nat := 0

end Sys2Proof.Machine
end

