-- ==== Sys2Proof/Machine/Release.lean ====
section
/-! DEFINITION. Giving up resources: groups, tap channels, units and a whole context (R11, R50, R51). -/

namespace Sys2Proof.Machine

open Sys2Proof

/-- A pin as in reset: driver at high impedance, load off, PPMU disconnected; its guards, counters and Tuning state stay (R11), as does
a safe state that is held (R380). -/
def Pin.toReset (p : Pin) : Pin :=
  { p with on := false, level := .vil, lastCode := .k, driven := false, inBurst := false, haltHiz := true, haltSafe := false, driveQ := [], strobeQ := [], lastDrive := none, lastStrobe := none, drvTick := none, stale := false, sealNext := false, carry := [], prevKeep := true, keep2 := true, ppmu := {}, fail := {}, logged := 0 }

/-- Every pin of a group as in reset (R11). -/
def State.resetPins (s : State) (g : Fin 8) : State :=
  forFin 16 (fun e t => t.modPin (pinOf g e) Pin.toReset) s

/-- The Gong settings of the source instances that `f` selects return to their defaults (R375). -/
def State.forgetGong (s : State) (f : Nat → Nat → Bool) : State :=
  s.modGong (fun g => { g with sets := g.sets.filter (fun x => !f x.src x.inst) })

/-- GROUP-scope settings of group `g` return to their defaults (R375). -/
def State.forgetGroup (s : State) (g : Fin 8) : State :=
  s.forgetGong (fun src inst => (src == 0x11 || src == 0x12 || src == 0x13 || src == 0x14) && inst / 256 % 8 == g.val)

/-- SEQ-scope settings of sequencer `q` return to their defaults (R375). -/
def State.forgetSeq (s : State) (q : Fin 4) : State :=
  s.forgetGong (fun src inst => (src == 0x10 || src == 0x17 || src == 0x18 || src == 0x19) && inst == q.val)

/-- The Fail Map of a sequencer is cleared (R244, R245). -/
def State.clearMap (s : State) (q : Fin 4) : State := s.modFmap q (fun _ => {})

/-- The Fail Log of a sequencer is emptied and its counters cleared; a drain in progress has no more records (R246). -/
def State.emptyLog (s : State) (q : Fin 4) : State :=
  s.modFlog q (fun f => { drains := f.drains.map (fun d => { d with left := 0 }) })

/-- A sequencer changes its owning context: its Fail Map is cleared and its Fail Log emptied (R244, R246). -/
def State.setSeqOwner (s : State) (q : Fin 4) (o : Owner) : State :=
  if s.seqs[q].owner == o then s else (((s.modSeq q (fun x => { x with owner := o })).clearMap q).emptyLog q).forgetSeq q

/-- A sequencer that owns no group is owned by no context (R101). -/
def State.dropIdleSeqs (s : State) : State :=
  forFin 4 (fun q t => if (t.grpsOf q).isEmpty then t.setSeqOwner q .none else t) s

/-- Group `g` is released and takes the reset pin state (R11, R102). -/
def State.releaseGrp (s : State) (g : Fin 8) : State :=
  (((s.modGrp g (fun x => { x with owner := .none, seq := none, jobs := [] })).resetPins g).forgetGroup g).dropIdleSeqs

/-- The TAP_IO pin that a producer or consumer code names (R306, R307). -/
def ioOfProd (code : Nat) : Option (Fin 8) := if 0x50 ≤ code ∧ code < 0x58 then some (fin 8 (code - 0x50)) else none
/-- The TAP_IO pin that a consumer code names (R307). -/
def ioOfCons (code : Nat) : Option (Fin 8) := if 0x80 ≤ code ∧ code < 0x88 then some (fin 8 (code - 0x80)) else none
/-- The RING_GTn that a consumer code names (R307). -/
def gtOfCons (code : Nat) : Option (Fin 16) := if 0x90 ≤ code ∧ code < 0xA0 then some (fin 16 (code - 0x90)) else none

/-- Consumer codes of a channel entry. -/
def TapChan.consCodes (t : TapChan) : List Nat := t.cons.toList.map (fun e => e.1)

/-- Claims of event pins and global taps that no channel of their holder names any more are given up (R310).
An output pin that no enabled route names returns to input within 1 µs (R324). -/
def State.dropClaims (s : State) : State :=
  let named (o : Owner) (f : TapChan → Bool) : Bool := s.taps.chans.toList.any (fun t => t.owner == o && f t)
  let ioNamed (o : Owner) (n : Fin 8) : Bool :=
    named o (fun t => ioOfProd t.prod == some n || t.consCodes.any (fun k => ioOfCons k == some n))
  let ioOn (o : Owner) (n : Fin 8) : Bool :=
    named o (fun t => t.enabled && t.consCodes.any (fun k => ioOfCons k == some n))
  let gtNamed (o : Owner) (n : Fin 16) : Bool := named o (fun t => t.consCodes.any (fun k => gtOfCons k == some n))
  let s1 := s.modTaps (fun m => { m with gtClaim := vmap m.gtClaim (fun n o => if o != .none && !gtNamed o n then .none else o) })
  s1.modTaps (fun m => { m with ios := vmap m.ios (fun n p =>
    let p1 := if p.isOut && p.releaseBy.isNone && !ioOn p.claim n then { p with releaseBy := some (s.tick + usT 1) } else p
    if p1.claim != .none && !ioNamed p1.claim n then { p1 with claim := .none, claimOut := false } else p1) })

/-- A tap channel is disabled, cleared and given up (R312). Its counters stay until it is claimed again (R326). -/
def State.releaseChan (s : State) (n : Fin 64) : State :=
  ((s.modChan n (fun t => { t with owner := .none, enabled := false, secure := false, prod := 0, pEdge := 0, cons := Vector.replicate 8 (0, false, 0) })).forgetGong
    (fun src inst => (src == 0x1A || src == 0x1B) && inst == n.val)).dropClaims

/-- The page of a pattern address (R80). -/
def pageOf (a : Nat) : Nat := a / 2 ^ 21

/-- The shortest non-zero entry of the committed period file (R121). -/
def SeqCfg.shortest (k : SeqCfg) : Nat :=
  let l := k.pf.toList.filter (· != 0)
  l.foldl min (l.headD 8192)

/-- Issue time of a vector that begins at a time: 14 ns before (R23, R165). -/
def issueAt (start : Nat) : Nat := start - nsF 14

/-- Time of a plan entry's first use, fine LSB, counted from the issue of vector 0 (R92). -/
def State.useTime (s : State) (q : Fin 4) (e : PlanEnt) : Nat := issueAt s.seqs[q].startFine + e.firstUse * s.cfg.seqs[q].shortest

/-- The moment of an entry's demand has come (R92). -/
def State.planDue (s : State) (q : Fin 4) (e : PlanEnt) : Bool := decide (s.useTime q e ≤ s.metro + 512 * usT s.store.prefetchUs)

/-- Memory errors outside a range of addresses. -/
def errsDrop (a n : Nat) (l : List MemErr) : List MemErr := l.filter (fun e => e.addr < a || a + n ≤ e.addr)

/-- A page leaves its frame: its data and written bits are gone (R80, R84). -/
def Store.evict (t : Store) (n : Nat) : Store :=
  { t with pages := t.pages.filter (fun p => p.num != n), mem := t.mem.clear (n * 2 ^ 21) (2 ^ 21), written := t.written.filter (fun b => b / 512 != n), errs := errsDrop (n * 2 ^ 21) (2 ^ 21) t.errs, brushBack := t.brushBack.filter (fun a => a / 2 ^ 21 != n) }

/-- A Resident page leaves: a burst may demand it again, and a plan entry at whose moment it was Resident stays without a
demand (R92). -/
def State.forgetDemand (s : State) (n : Nat) : State :=
  { s with seqs := vmap s.seqs (fun q x => { x with demanded := x.demanded.filter (· != n), unplanned := x.unplanned.filter (fun d => d.1 != n), plan := x.plan.map (fun e => if e.page == n && s.planDue q e then { e with past := true } else e) }) }

/-- A page is evicted; a running burst may demand it again if it was Resident (R84, R92). -/
def State.evictPage (s : State) (n : Nat) : State :=
  let was := s.store.pages.any (fun p => p.num == n && p.resident)
  let s1 := s.modStore (fun t => { t.evict n with hostin := t.hostin.filter (fun w => w.page != n) })
  if was then s1.forgetDemand n else s1

/-- The STORE_PARTITION ARG0 to ARG2 in force (R73). -/
def Store.partWords (t : Store) : List Nat := [t.capUnits * 256 + t.flogUnits, t.streamBudget, t.prefetchUs]

/-- The RING_SETUP ARG0 and ARG1 in force (R401). -/
def BRing.setupWords (b : BRing) : List Nat := [b2n b.enable * 256 + b.dbLog2, b.gdlPeriod]

/-- An alarm is disabled and given up (R173). -/
def Alarm.released (a : Alarm) : Alarm := { a with owner := .none, enabled := false }
/-- A time-capture unit is disabled and given up (R173). -/
def TimeCap.released (m : TimeCap) : TimeCap := { m with owner := .none, enabled := false }
/-- An idle capture engine is given up (R257). -/
def Cap.released (e : Cap) : Cap := { e with owner := .none }
/-- An idle interval unit is given up (R298). -/
def Tmu.released (t : Tmu) : Tmu := { t with owner := .none, configured := false }

/-- What a sealed session leaves when it ends: nothing but its counters' places (R429). -/
def SealSt.ended (x : SealSt) : SealSt := { x with isOpen := false, session := 0, kH2d := [], kD2h := [], lastH2d := 0, nextD2h := 1, offered := false, kemSeed := 0, nonceD := [] }

/-- Every resource that an owner holds is given up: groups, channels, engines, units and pages (R50, R82). [DEDUCED, log 24] -/
def State.releaseOwned (s : State) (o : Owner) : State :=
  let s1 := forFin 8 (fun g t => if t.grps[g].owner == o then t.releaseGrp g else t) s
  let s2 := forFin 64 (fun n t => if t.taps.chans[n].owner == o then t.releaseChan n else t) s1
  let s3 := forFin 8 (fun e t => if t.caps[e].owner == o then t.modCap e Cap.released else t) s2
  let s4 := forFin 16 (fun u t => if t.tmus[u].owner == o then (t.modTmu u Tmu.released).forgetGong (fun src inst => src == 0x1C && inst == u.val) else t) s3
  let s5 := forFin 8 (fun n t => if t.alarms[n].owner == o then t.modAlarm n Alarm.released else t) s4
  let s6 := forFin 8 (fun n t => if t.mcs[n].owner == o then t.modMc n TimeCap.released else t) s5
  (s6.store.pages.filter (fun p => p.owner == o)).foldl (fun t p => t.evictPage p.num) s6

/-- The scratchpad window of a context is cleared to zero (R328). -/
def State.clearWindow (s : State) (c : Fin 8) : State :=
  s.modSram (fun m => { m with scratch := m.scratch.filter (fun e => e.1 < 0x200000 + c.val * 0x40000 || 0x240000 + c.val * 0x40000 ≤ e.1) })

/-- Steps 3 and 4 of a close: resources, staging set, quota, officer role and session (R50, R429). [DEDUCED, log 24] -/
def State.releaseCtx (s : State) (c : Fin 8) : State :=
  ((s.releaseOwned (.ctx c)).clearWindow c).modCtx c (fun x =>
    { x with stage := [], quota := 0, officer := false, challenge := [], fences := [], session := x.session.ended })

end Sys2Proof.Machine
end

