-- ==== Sys2Proof/Machine/Reply.lean ====
section
/-! DEFINITION. Responses: forming them, the order of FENCE and CTX_CLOSE behind them, and unsolicited entries (R40 to R55). -/

namespace Sys2Proof.Machine

open Sys2Proof

end Sys2Proof.Machine

namespace Sys2Proof

open Sys2Proof.Machine

/-- FLAGS bit E: expert form (R35). -/
def Pkt.isE (p : Pkt) : Bool := p.flags.getLsbD 0
/-- FLAGS bit C: commit. [DEDUCED, log 16] -/
def Pkt.isC (p : Pkt) : Bool := p.flags.getLsbD 1
/-- FLAGS bit N: no response. -/
def Pkt.isN (p : Pkt) : Bool := p.flags.getLsbD 2
/-- FLAGS bit S: sealed. -/
def Pkt.isS (p : Pkt) : Bool := p.flags.getLsbD 3
/-- RSEL (R35). -/
def Pkt.rsel (p : Pkt) : Fin 4 := fin 4 (p.word6.toNat % 4)
/-- LENGTH: payload units of 8 bytes (R36). -/
def Pkt.units (p : Pkt) : Nat := (p.payload.length + 7) / 8

/-- What a response needs of its packet (R38, R40). -/
def Pkt.hdr (p : Pkt) (c : Fin 8) (op : Nat) (k : Fin 4) : Hdr :=
  { mb := c, opcode := op, flags := p.flags.toNat % 16, context := p.context.toNat, tag := p.tag.toNat, ring := k }

end Sys2Proof

namespace Sys2Proof.Machine

open Sys2Proof

/-- FLAGS bits of the header kept for a response. -/
def Hdr.isN (h : Hdr) : Bool := h.flags.testBit 2
/-- The command was sealed. -/
def Hdr.isS (h : Hdr) : Bool := h.flags.testBit 3
/-- The command was in expert form. -/
def Hdr.isE (h : Hdr) : Bool := h.flags.testBit 0
/-- The command carried C. -/
def Hdr.isC (h : Hdr) : Bool := h.flags.testBit 1

/-- An entry joins the queue of its ring, if the ring is open and its session has not ended without responses (R51). -/
def State.pushEntry (s : State) (c : Fin 8) (k : Fin 4) (e : Entry) : State :=
  s.modRing c k (fun r => if r.isOpen && !e.hdr.gone then { r with queue := r.queue ++ [e] } else r)

/-- A tag leaves flight, and the FENCEs that waited for it wait for one less (R52, R55). [DEDUCED, log 18] -/
def State.leave (s : State) (c : Fin 8) (tag : Nat) : State :=
  s.modCtx c (fun x => { x with inflight := x.inflight.erase tag, fences := x.fences.map (fun f => { f with waits := f.waits.erase tag }), session := { x.session with tags := x.session.tags.erase tag } })

/-- FENCEs of a context that wait for nothing complete, in order (R55). [DEDUCED, log 18] -/
def State.settleFences (c : Fin 8) : Nat → State → State
  | 0, s => s
  | n + 1, s =>
    match s.ctxs[c].fences with
    | [] => s
    | f :: fs =>
      if f.waits.isEmpty then
        let s1 := s.modCtx c (fun x => { x with fences := fs })
        let s2 := if f.hdr.isN then s1.leave c f.hdr.tag
          else s1.pushEntry c f.hdr.ring { hdr := f.hdr, ts := s1.nowSI, finishes := true }
        s2.settleFences c n
      else s

/-- No entry of the context waits to be posted. -/
def Ctx.allPosted (x : Ctx) : Bool := (List.finRange 4).all (fun k => (x.rings[k]).queue.isEmpty)

/-- A closing context with nothing left in flight and every entry posted gives up its resources and forms its close response (R50). [DEDUCED, log 22] -/
def State.settleClose (s : State) (c : Fin 8) : State :=
  match s.ctxs[c].closeHdr with
  | none => s
  | some h =>
    if s.ctxs[c].inflight.isEmpty && s.ctxs[c].allPosted then
      let s1 := (s.releaseCtx c).modCtx c (fun x => { x with closeHdr := none })
      s1.pushEntry c h.ring { hdr := h, ts := s1.nowSI, closes := true }
    else s

/-- A SEAL_OPEN CLOSE that waited for sealed commands completes once none is in flight (R429). -/
def State.settleSeal (s : State) (c : Fin 8) : State :=
  match s.ctxs[c].session.closing with
  | none => s
  | some h =>
    if s.ctxs[c].session.tags.isEmpty then
      let s1 := s.modCtx c (fun x => { x with session := { x.session.ended with closing := none } })
      if h.isN then s1.leave c h.tag else s1.pushEntry c h.ring { hdr := h, ts := s1.nowSI, finishes := true }
    else s

/-- What follows when a command leaves flight. -/
def State.settle (s : State) (c : Fin 8) : State :=
  let s1 := s.settleSeal c
  (s1.settleFences c (s1.ctxs[c].fences.length + 1)).settleClose c

/-- A command completes without a response (R54). -/
def State.finish (s : State) (h : Hdr) : State := if h.gone then s else (s.leave h.mb h.tag).settle h.mb

/-- Is the opcode one whose commands are never counted in flight (R52)? [DEDUCED, log 19] [DEDUCED, log 116] -/
def uncounted (op : Nat) : Bool := op == 0x001 || op == 0x002

/-- The parts of a response payload: the whole of it if it is at most one payload, else 256 KiB in each but the last (R36, R44). [DEDUCED, log 29] -/
def replyParts (payload : List Byte) : List (List Byte) :=
  let b := padTo 8 payload
  if b.length ≤ 524280 then [b] else chunks 262144 b

/-- The entries of one response (R44). -/
def replyEntries (h : Hdr) (status sub detail : Nat) (payload : List Byte) (ts : Ts) : List Entry :=
  let parts := replyParts payload
  let n := parts.length
  parts.zipIdx.map (fun (b, i) =>
    { hdr := h, more := decide (i + 1 < n), status := status, sub := sub, detail := detail, ts := ts, payload := b, wrap := h.isS, finishes := decide (i + 1 = n) && !uncounted h.opcode })

/-- A command completes with a response taken at `ts`; with N, an OK or STAGED response is not posted (R40, R44, R54). -/
def State.replyAt (s : State) (h : Hdr) (status sub detail : Nat) (payload : List Byte) (ts : Ts) : State :=
  if h.isN && decide (status ≤ 1) then s.finish h
  else (replyEntries h status sub detail payload ts).foldl (fun t e => t.pushEntry h.mb h.ring e) s

/-- A command completes with a response taken now in the supervisor island (R40). [DESIGN CHOICE, log 137] -/
def State.reply (s : State) (h : Hdr) (status sub detail : Nat) (payload : List Byte) : State :=
  s.replyAt h status sub detail payload s.nowSI

/-- A command completes with status OK and no payload. -/
def State.ok (s : State) (h : Hdr) : State := s.reply h 0 0 0 []

/-- A command is refused. -/
def State.refuse (s : State) (h : Hdr) (f : Nat × Nat) : State := s.reply h f.1 f.2 0 []

/-- An unsolicited entry joins a ring of an open context (R40, R52). -/
def State.notice (s : State) (c : Fin 8) (k : Fin 4) (op context status detail : Nat) (payload : List Byte) (ts : Ts) (wrap : Bool) : State :=
  let h : Hdr := { mb := c, opcode := op, context := context, ring := k }
  if s.ctxs[c].isOpen then
    s.pushEntry c k { hdr := h, unsol := true, status := status, detail := detail, ts := ts, payload := payload, wrap := wrap }
  else s

end Sys2Proof.Machine
end

