-- ==== Sys2Proof/Machine/Operands.lean ====
section
/-! DEFINITION. The forms of command packets: which opcodes exist, in which forms, which argument and payload bits are
reserved for each, and how a packet lies in the mailbox as bytes (R35 to R38, R54, R56, R71). -/

namespace Sys2Proof.Machine

open Sys2Proof

end Sys2Proof.Machine

namespace Sys2Proof

open Sys2Proof.Machine

/-- Bits `hi` to `lo` of ARG0. -/
def Pkt.a0 (p : Pkt) (hi lo : Nat) : Nat := bits p.arg0.toNat hi lo
/-- Bits `hi` to `lo` of ARG1. -/
def Pkt.a1 (p : Pkt) (hi lo : Nat) : Nat := bits p.arg1.toNat hi lo
/-- Bits `hi` to `lo` of ARG2. -/
def Pkt.a2 (p : Pkt) (hi lo : Nat) : Nat := bits p.arg2.toNat hi lo
/-- Bits `hi` to `lo` of ARG3. -/
def Pkt.a3 (p : Pkt) (hi lo : Nat) : Nat := bits p.arg3.toNat hi lo
/-- Bit `i` of ARG0. -/
def Pkt.b0 (p : Pkt) (i : Nat) : Bool := bit p.arg0.toNat i

end Sys2Proof

namespace Sys2Proof.Machine

open Sys2Proof

/-- Forms of an assigned opcode: 1 basic, 2 basic and expert, 3 expert only; none if not assigned to a command (R71). -/
def opForms (op : Nat) : Option Nat :=
  if op ∈ [0x001, 0x002, 0x003, 0x004, 0x005, 0x006, 0x007, 0x102, 0x103, 0x202, 0x203, 0x205, 0x301, 0x304, 0x305] then some 1
  else if op ∈ [0x402, 0x404, 0x503, 0x507, 0x509, 0x602, 0x603, 0x604, 0x702, 0x703, 0x802, 0x803, 0x902, 0xA03] then some 1
  else if op ∈ [0xB02, 0xB03, 0xC02, 0xD01, 0xD02, 0xD03, 0xD04, 0xD05, 0xD06, 0xE01] then some 1
  else if op ∈ [0x101, 0x201, 0x204, 0x302, 0x303, 0x401, 0x403, 0x501, 0x502, 0x504, 0x505, 0x506, 0x508] then some 2
  else if op ∈ [0x601, 0x701, 0x801, 0x901, 0xA01, 0xB01, 0xB04, 0xC01] then some 2
  else if op = 0xA02 then some 3
  else none

/-- Opcodes that accept S (R71). -/
def opSealed (op : Nat) : Bool := op ∈ [0x202, 0x204, 0x205, 0x602, 0x603, 0x604]

/-- Commands that return data, on which N is refused; CTX_OPEN and CTX_CLOSE as well (R54). -/
def opNoN (op : Nat) (p : Pkt) : Bool :=
  if op ∈ [0x001, 0x002, 0x006, 0x007, 0x103, 0x205, 0x305, 0x602, 0x603, 0x803, 0x902, 0xA03, 0xB02, 0xC02, 0xD02, 0xE01] then true
  else if op ∈ [0x303, 0x702, 0x507, 0x508, 0x509, 0x604] then true
  else if op = 0x802 then !p.b0 8 && !p.b0 9
  else if op = 0xB01 then p.a0 17 16 ≤ 1
  else if op = 0xA01 then p.a0 1 0 = 0
  else if op = 0xA02 then p.a0 1 0 = 0
  else if op = 0xD01 then p.a0 1 0 = 0
  else if op = 0xD03 then p.a0 1 0 ≤ 1
  else if op = 0x703 then p.b0 10
  else if op = 0x404 ∨ op = 0x502 ∨ op = 0x505 then p.b0 15
  else false

/-- The argument bits of a command that are not reserved, for ARG0 to ARG3 (R7 and each command's word table). [DEDUCED, log 11] -/
def argMask (op : Nat) (p : Pkt) : List Nat :=
  let all := 0xFFFFFFFF
  if op = 0x001 then [0x000F1FFF, 3, 0, 0]
  else if op = 0x002 then [1, 0, 0, 0]
  else if op = 0x003 then (if p.b0 0 then [1, all, all, 0] else [1, 0, 0, 0])
  else if op = 0x004 ∨ op = 0x005 ∨ op = 0x007 then [0, 0, 0, 0]
  else if op = 0x006 then [all, all, all, all]
  else if op = 0x201 then [0xFFFF, if p.isE then 0xFF else 0, if p.isE then 0x1FFFF else 0, 0]
  else if op = 0x202 then [0x1FFFFF, 0xC00001FF, 0, 0]
  else if op = 0x203 then [0x1FFFFF, 1, 0, 0]
  else if op = 0x204 then [all, 0x3FF, if p.isE then 1 else 0, if p.isE ∧ p.a2 0 0 = 1 then all else 0]
  else if op = 0x205 then [all, 0x3FF, 0, all]
  else if op = 0x301 then [0x83FF, 0, 0, 0]
  else if op = 0x302 then [if p.isE then 0xC333 else 0x0333, 0, 0, 0]
  else if op = 0x303 then [0x83, if p.isE then 0 else 0xFFFFF000, if p.isE then 0 else 0x3FF, all]
  else if op = 0x304 then [0x103, 0, 0, 0]
  else if op = 0x305 then [3, 0, 0, 0]
  else if op = 0x401 then [0x73F, if p.isE then 0x7F else 0, 0, 0]
  else if op = 0x402 then [0xF3, 0, 0, 0]
  else if op = 0x403 then [0x701, 0xFFFF, 0, 0]
  else if op = 0x404 then
    (if p.b0 15 then [0x9007, 0, 0, 0]
     else if p.b0 12 then [0x7007, 0xFFF0, 0xF, 0] else [0x7007, all, all, all])
  else if op = 0x501 ∨ op = 0x503 then [0x700, 0xFFFF, 0, 0]
  else if op = 0x502 then (if p.b0 15 then [0x8700, 0, 0, 0] else [0x8700, 0xFFFF, 0, 0])
  else if op = 0x504 ∨ op = 0x506 ∨ op = 0xB04 then [0x700, 0xFFFF, 0, 0]
  else if op = 0x505 then [0xC700, if p.b0 15 then 0 else 0xFFFF, 0, 0]
  else if op = 0x507 then [0x700, 0xFFFF, 0x1FFFF, 0]
  else if op = 0x508 then [if p.isE then 0x13170F else 0x3170F, all, all, if p.a0 17 16 = 1 then 0 else all]
  else if op = 0x509 then [if p.a0 17 16 = 3 then 0x700 else 0x30700, 0x1FFFF, 0, 0]
  else if op = 0x601 then
    (if p.a0 13 12 = 2 then [0x3003, 0, 0, 0] else if p.a0 13 12 = 3 then [0xF03, 0xFFFF, 0, 0] else [0x3700, 0xFFFF, 0, 0])
  else if op = 0x602 then [0x700, 0, 0, 0]
  else if op = 0x603 then [3, all, 0, all]
  else if op = 0x604 then [3, all, 0, 0]
  else if op = 0x701 then [0x3307, all, all, 0xFFFF001F]
  else if op = 0x702 then [0x207, 0, 0, 0]
  else if op = 0x703 then [0x707, 0, 0, 0]
  else if op = 0x801 then [0xFFFFFF, 0xFFFFF, all, 0]
  else if op = 0x802 then [0x30F, 0, 0, 0]
  else if op = 0x803 then [0xF, 0x1FF, 0, 0]
  else if op = 0xA01 then [3, 0x3FFFFF, 0x7FFFF, 0]
  else if op = 0xA02 then [0x3F03, all, 0x1FF, 0]
  else if op = 0xA03 then [1, 0, 0, 0]
  else if op = 0xB01 then [0x30FFF, 0xFFFF0003, all, 0]
  else if op = 0xB02 ∨ op = 0xB03 ∨ op = 0xE01 ∨ op = 0x102 ∨ op = 0x103 then [0, 0, 0, 0]
  else if op = 0x101 then [0x11F, all, 0, 0]
  else if op = 0x901 then (if p.b0 15 then [0x803F, 0, 0, 0] else [0x833F, 0xFF, 3, if p.isE then 1 else 0])
  else if op = 0x902 then [0x13F, 0, 0, 0]
  else if op = 0xC01 then [0xC0FFFFFF, if p.a1 31 31 = 1 then 0x80000000 else 0x8003F00F, 0xFFFF, 0]
  else if op = 0xC02 then [1, all, 0x1FFF, 0]
  else if op = 0xD01 then [0x103, if p.a0 1 0 = 2 then 0xFFFF else 0, 0, 0]
  else if op = 0xD02 then [1, 0, 0, 0]
  else if op = 0xD03 then [3, 0, 0, 0]
  else if op = 0xD04 then [1, 0, 0, 0]
  else if op = 0xD05 then [3, if p.a0 1 0 = 0 ∨ p.a0 1 0 = 3 then all else 0, 0, 0]
  else if op = 0xD06 then [0, 0, 0, 0]
  else [all, all, all, all]

/-- Entries of `n` bytes of a payload. -/
def entries (n : Nat) (bs : List Byte) : List (List Byte) := chunks n bs

/-- Entries of `n` bytes that a 16-bit pin mask does not select are zero. [DEDUCED, log 11] -/
def unselZero (n mask : Nat) (bs : List Byte) : Bool :=
  (entries n bs).zipIdx.all (fun (e, i) => mask.testBit i || e.all (· == 0))

/-- Every entry of `n` bytes is zero in the reserved bits that `masks` leaves out, word by word. -/
def wordsIn (masks : List Nat) (e : List Byte) : Bool :=
  masks.zipIdx.all (fun (m, i) => rdw e i &&& m == rdw e i)

/-- The bytes of a payload whose layout has a fixed length; in a payload of another length no bit is reserved, and the command's
own rule refuses it. -/
def layoutLen (op : Nat) (p : Pkt) : Option Nat :=
  if op = 0x402 then some 32
  else if op = 0x501 ∨ op = 0x502 ∨ op = 0xB04 then some 128
  else if op = 0x403 ∨ op = 0x503 ∨ op = 0x505 then some 256
  else if op = 0x504 ∨ op = 0x506 then some 512
  else if op = 0x601 then (if p.a0 13 12 = 1 then some 256 else if p.a0 13 12 = 2 then some 64 else none)
  else if op = 0x701 then some 96
  else if op = 0xD06 then some 4096
  else none

/-- Reserved payload bits and unselected entries of a command are zero (R7 and each command's payload layout). [DEDUCED, log 11] [DEDUCED, log 12] -/
def payOk (op : Nat) (p : Pkt) (bs : List Byte) : Bool :=
  let all := 0xFFFFFFFF
  if (layoutLen op p).any (fun n => bs.length ≠ n) then true
  else if op = 0x001 then (entries 32 bs).all (wordsIn [all, all, 0x3F1F, all, 0, 0, 0, 0])
  else if op = 0x402 then (entries 8 bs).zipIdx.all (fun (e, i) => (p.a0 7 4).testBit i || e.all (· == 0))
  else if op = 0x403 then unselZero 16 (p.a1 15 0) bs
  else if op = 0x501 then unselZero 8 (p.a1 15 0) bs && (entries 8 bs).all (wordsIn [0x327, 0])
  else if op = 0x502 then unselZero 8 (p.a1 15 0) bs && (entries 8 bs).all (wordsIn [0xFFFFF3CD, 0])
  else if op = 0x503 then unselZero 16 (p.a1 15 0) bs && (entries 16 bs).all (wordsIn [3, all, all, all])
  else if op = 0x504 then unselZero 32 (p.a1 15 0) bs && (entries 32 bs).all (wordsIn [all, all, all, all, all, 0xFF0F, 0, 0])
  else if op = 0x505 ∧ (p.b0 15 ∨ p.b0 14) then true
  else if op = 0x505 then unselZero 16 (p.a1 15 0) bs && (entries 16 bs).all (wordsIn [0xFFFF000E, all, 0, 0])
  else if op = 0x506 then unselZero 32 (p.a1 15 0) bs && (entries 32 bs).all (wordsIn [0x73, 0, all, all, all, all, all, 0])
  else if op = 0x601 ∧ p.a0 13 12 = 1 then unselZero 16 (p.a1 15 0) bs && (entries 16 bs).all (wordsIn [0xFFFF0001, all, all, 0])
  else if op = 0x601 ∧ p.a0 13 12 = 2 then wordsIn [0xFFF10300, all, 0xFFFF0000, 0, all, all, all, all, 0, 0, 0, 0, 0, 0, 0, 0] bs
  else if op = 0x701 then wordsIn ([0xE7FF001F, 0x7F1F1F0F, 0x00FFFFFF] ++ List.replicate 17 all ++ [0, 0, 0, 0]) bs
  else if op = 0x801 then (entries 8 bs).all (wordsIn [0x07317F03, 0])
  else if op = 0xB04 then unselZero 8 (p.a1 15 0) bs && (entries 8 bs).all (wordsIn [1, all])
  else if op = 0x101 then (entries 8 bs).all (wordsIn [all, 0])
  else if op = 0x901 ∧ p.b0 15 then bs.all (· == 0)
  else if op = 0x901 then (entries 8 bs).all (wordsIn [0x1FF, 0x1FFF])
  else if op = 0xD06 then rd bs 8 4 / 4 == 0 && (bs.drop 0xEC4).all (· == 0)
  else if op = 0x303 ∧ p.isE then (bs.drop 8).take 24 |>.all (· == 0)
  else true

/-- No reserved argument bit of the packet is set. [DEDUCED, log 11] -/
def argsOk (op : Nat) (p : Pkt) : Bool :=
  match argMask op p with
  | [m0, m1, m2, m3] =>
    p.arg0.toNat &&& m0 == p.arg0.toNat && p.arg1.toNat &&& m1 == p.arg1.toNat &&
    p.arg2.toNat &&& m2 == p.arg2.toNat && p.arg3.toNat &&& m3 == p.arg3.toNat
  | _ => true

/-! ### Packets as bytes -/

end Sys2Proof.Machine

namespace Sys2Proof

open Sys2Proof.Machine

/-- Word 0 of a packet header (R35). -/
def Pkt.word0 (op : Nat) (p : Pkt) : Nat := p.version.toNat * 2 ^ 24 + op % 4096 * 2 ^ 12 + p.flags.toNat
/-- Word 1 of a packet header (R35). -/
def Pkt.word1 (p : Pkt) : Nat := p.context.toNat * 2 ^ 28 + p.tag.toNat * 2 ^ 16 + p.units % 2 ^ 16

/-- Header bytes 0x00 to 0x17: the part that a seal authenticates (R430). -/
def Pkt.head24 (op : Nat) (p : Pkt) : List Byte :=
  words [p.word0 op, p.word1, p.arg0.toNat, p.arg1.toNat, p.arg2.toNat, p.arg3.toNat]

/-- Header bytes 0x00 to 0x1B. -/
def Pkt.head28 (op : Nat) (p : Pkt) : List Byte := p.head24 op ++ le 4 p.word6.toNat

/-- The payload in whole units. -/
def Pkt.body (p : Pkt) : List Byte := padTo 8 p.payload

/-- A packet as it lies in the mailbox, padded to 32 bytes, with its CRC (R35 to R37). -/
def Pkt.encode (op : Nat) (p : Pkt) : List Byte :=
  p.head28 op ++ le 4 (crc32c (p.head28 op ++ p.body)) ++ padTo 32 p.body

end Sys2Proof

namespace Sys2Proof.Machine

open Sys2Proof

/-- The opcode of header bytes. -/
def headOp (hd : List Byte) : Nat := bits (rdw hd 0) 23 12
/-- LENGTH of header bytes, in units of 8 bytes. -/
def headLen (hd : List Byte) : Nat := bits (rdw hd 1) 15 0
/-- The packet that 32 header bytes and a payload spell (R35). -/
def parsePkt (hd pay : List Byte) : Pkt :=
  { version := BitVec.ofNat 8 (bits (rdw hd 0) 31 24), flags := BitVec.ofNat 12 (bits (rdw hd 0) 11 0), context := BitVec.ofNat 4 (bits (rdw hd 1) 31 28), tag := BitVec.ofNat 12 (bits (rdw hd 1) 27 16), arg0 := BitVec.ofNat 32 (rdw hd 2), arg1 := BitVec.ofNat 32 (rdw hd 3), arg2 := BitVec.ofNat 32 (rdw hd 4), arg3 := BitVec.ofNat 32 (rdw hd 5), word6 := BitVec.ofNat 32 (rdw hd 6), payload := pay }

/-- The CRC that header bytes carry. -/
def headCrc (hd : List Byte) : Nat := rdw hd 7

/-- The bytes of a packet pass the CRC check (R37, R38 step 2). -/
def crcOk (hd pay : List Byte) : Bool := headCrc hd == crc32c (hd.take 28 ++ pay)

/-- Size of a packet in 32-byte mailbox units (R36). -/
def pktUnits (len : Nat) : Nat := 1 + (8 * len + 31) / 32

end Sys2Proof.Machine
end

