-- ==== Sys2Proof/Machine/Intake.lean ====
section
/-! DEFINITION. Intake of a framed packet: steps 3 to 11 of R38, the drops of a closed context, and the order in which a
command's own checks follow (steps 12 to 15). -/

namespace Sys2Proof.Machine

open Sys2Proof

/-- A status with its subcode. -/
abbrev Fail := Nat × Nat

/-- RSEL names an open ring; for CTX_OPEN it is 0 (R38 step 3). -/
def rselOk (x : Ctx) (op : Nat) (p : Pkt) : Bool :=
  if op = 0x001 then decide (p.rsel = 0) else x.rings[p.rsel].isOpen

/-- E, S and N as the opcode permits (R38 step 7). [DEDUCED, log 162] -/
def formFail (op : Nat) (p : Pkt) : Option Fail :=
  if (p.isE && opForms op == some 1) || (!p.isE && opForms op == some 3) then some (0x030, 0x0006)
  else if p.isS && !opSealed op then some (0x030, 0x0007)
  else if p.isN && opNoN op p then some (0x030, 0x0008)
  else none

/-- Steps 3 to 8 of R38: the first failure, if any. -/
def intakeFail (s : State) (c : Fin 8) (op : Nat) (p : Pkt) : Option Fail :=
  let x := s.ctxs[c]
  if p.version ≠ 3 then some (0x030, 0x0002)
  else if p.flags.toNat / 16 ≠ 0 || p.word6.toNat / 4 ≠ 0 || !argsOk op p || (!p.isS && !payOk op p p.body) || (p.isS && opSealed op && rd p.body 0x0C 4 != 0) then some (0x030, 0x0003)
  else if !rselOk x op p then some (0x030, 0x000A)
  else if p.context.toNat ≠ 15 ∧ p.context.toNat ≠ c.val then some (0x030, 0x0004)
  else if p.context.toNat = 15 ∧ !s.officer c then some (0x041, 0x0042)
  else if (opForms op).isNone then some (0x032, 0)
  else match formFail op p with
    | some f => some f
    | none =>
      if x.inflight.contains p.tag.toNat then some (0x030, 0x0005)
      else if !uncounted op && decide (x.quota ≤ x.inflight.length) then some (0x021, 0x0020)
      else none

/-- The counts of INTAKE_ERR and LAST_ERR after a rejection or drop (R30, R38, R48). -/
def Ctx.noteErr (x : Ctx) (f : Fail) : Ctx :=
  { x with lastStatus := f.1, lastSub := f.2, badPacket := if f.1 = 0x030 then sat 16 (x.badPacket + 1) else x.badPacket, badCrc := if f.1 = 0x031 then sat 16 (x.badCrc + 1) else x.badCrc }

/-- A packet rejected at intake: its response goes to ring 0, and it was never in flight (R38). -/
def State.rejectIntake (s : State) (c : Fin 8) (op : Nat) (p : Pkt) (f : Fail) (detail : Nat) : State :=
  let s1 := s.modCtx c (fun x => x.noteErr f)
  s1.pushEntry c 0 { hdr := p.hdr c op 0, status := f.1, sub := f.2, detail := detail, ts := s.nowSI }

/-- A packet other than CTX_OPEN in the mailbox of a closed context is taken and dropped (R48). -/
def State.dropClosed (s : State) (c : Fin 8) : State :=
  s.modCtx c (fun x => { x with dropped := sat 32 (x.dropped + 1), lastStatus := 0x030, lastSub := 0x000E })

/-- Operations that need the officer role (R38 step 10). -/
def needsOfficer (op : Nat) (p : Pkt) : Bool :=
  op == 0xD04 || op == 0xD05 || op == 0xD06 || (op == 0xD01 && decide (p.a0 1 0 = 2))

/-- Steps 9 and 10 of R38. -/
def roleFail (s : State) (c : Fin 8) (op : Nat) (p : Pkt) : Option Fail :=
  if p.isE && !s.ctxs[c].expert && !(op == 0xA02 && p.context == 15) then some (0x042, 0x0040)
  else if needsOfficer op p && !s.officer c then some (0x041, 0x0042)
  else none

/-- The seal prefix fields of a sealed payload: COUNTER and SESSION (R430). -/
def sealCounter (bs : List Byte) : Nat := rd bs 0 8
/-- SESSION of a seal prefix. -/
def sealSession (bs : List Byte) : Nat := rd bs 8 4
/-- The IV of a sealed payload (R430). -/
def sealIv (session counter : Nat) : List Byte := le 4 session ++ le 8 counter

/-- Step 11 of R38 for a sealed packet: the plaintext, or the subcode of AUTH_FAILED (R431). [PRESUMED, log 120] -/
def unwrapSeal (x : Ctx) (op : Nat) (p : Pkt) : Nat × List Byte :=
  let bs := p.body
  let ctr := sealCounter bs
  if !x.session.isOpen then (0xD026, [])
  else if sealSession bs ≠ x.session.session then (0xD027, [])
  else if ctr ≤ x.session.lastH2d then (0xD028, [])
  else if 2 ^ 40 < ctr then (0xD02A, [])
  else match Config.gcmOpen x.session.kH2d (sealIv x.session.session ctr) (p.head24 op ++ bs.take 16) (bs.drop 16) with
    | none => (0xD029, [])
    | some pt => (0, pt)

/-- Step 11 of R38: the packet in plain with the counter taken, or the failure, which the Gong records (R431). [DEDUCED, log 17] -/
def State.openSeal (s : State) (c : Fin 8) (op : Nat) (p : Pkt) : State × Pkt × Option Fail :=
  if !p.isS then (s, p, none)
  else
    let r := unwrapSeal s.ctxs[c] op p
    if r.1 = 0 then
      (s.modCtx c (fun x => { x with session := { x.session with lastH2d := sealCounter p.body } }), { p with payload := r.2 }, none)
    else
      let s1 := if r.1 = 0xD02A then s.modCtx c (fun x => { x with session := x.session.ended }) else s
      (s1.report 0x0C c.val false s.nowSI r.1 0, p, some (0x090, r.1))

/-- Opcodes that a Fatal fault state lets through (R70). -/
def fatalLets (op : Nat) (p : Pkt) : Bool :=
  op ∈ [0x001, 0x002, 0x007, 0xC02, 0xE01, 0xD02, 0x703] || (op == 0x802 && (p.b0 8 || p.b0 9))

/-- Opcodes that the fault state refuses (R70). -/
def faultRefuses (op : Nat) (p : Pkt) : Bool :=
  op ∈ [0x303, 0x702, 0xB01, 0x102] || (op == 0x802 && !p.b0 8 && !p.b0 9)

/-- Step 13 of R38. -/
def State.faultFail (s : State) (op : Nat) (p : Pkt) : Option Fail :=
  if s.gong.fatal && !fatalLets op p then some (0x0F0, 0)
  else if s.gong.fault && faultRefuses op p then some (0x0F0, 0)
  else none

/-- The packet is in flight from here on, unless its opcode is never counted (R52). [DEDUCED, log 19] -/
def State.enter (s : State) (c : Fin 8) (op : Nat) (p : Pkt) : State :=
  if uncounted op then s else s.modCtx c (fun x => { x with inflight := x.inflight ++ [p.tag.toNat], session := if p.isS then { x.session with tags := x.session.tags ++ [p.tag.toNat] } else x.session })

/-- Steps 12 to 15 of R38: ownership, fault state, running targets, then the command itself. -/
def State.runChecked (s : State) (h : Hdr) (op : Nat) (p : Pkt) (owns busy : Hdr → Pkt → State → Option Fail)
    (body : Hdr → Pkt → State → State) : State :=
  match owns h p s with
  | some f => s.refuse h f
  | none =>
    match s.faultFail op p with
    | some f => s.refuse h f
    | none =>
      match busy h p s with
      | some f => s.refuse h f
      | none => body h p s

/-- A command refused before its seal was checked: its response is not sealed (R38, R431). [DEDUCED, log 17] -/
def State.refusePlain (s : State) (h : Hdr) (f : Fail) : State :=
  s.pushEntry h.mb h.ring { hdr := h, status := f.1, sub := f.2, ts := s.nowSI, finishes := !uncounted h.opcode }

/-- A framed packet of mailbox `c` is taken: steps 3 to 15 of R38. -/
def State.deliver (s : State) (c : Fin 8) (op : Nat) (p : Pkt) (owns busy : Hdr → Pkt → State → Option Fail)
    (body : Hdr → Pkt → State → State) : State :=
  if !s.ctxs[c].isOpen then s.dropClosed c
  else
    match intakeFail s c op p with
    | some f => s.rejectIntake c op p f 0
    | none =>
      let h := p.hdr c op p.rsel
      let s1 := s.enter c op p
      match roleFail s1 c op p with
      | some f => s1.refusePlain h f
      | none =>
        match s1.openSeal c op p with
        | (s2, _, some f) => s2.refusePlain h f
        | (s2, q, none) =>
          let h := { h with sess := if q.isS then s2.ctxs[c].session.session else 0 }
          if q.isS && !payOk op q q.payload then s2.refuse h (0x030, 0x0003)
          else s2.runChecked h op q owns busy body

/-- No check. -/
def noFail (_ : Hdr) (_ : Pkt) (_ : State) : Option Fail := none

/-- The device takes packets: the link is up, start-up is through, the supervisor answers (R26), and the context's intake is not
paused (R42, R50). -/
def State.takes (s : State) (c : Fin 8) : Bool :=
  s.link.linkUp && decide (7 ≤ s.power.stepDone) && !s.supDead && !s.ctxs[c].stalled && !s.ctxs[c].closing

/-- Units of the mailbox between the consumer and producer offsets (R33). -/
def Ctx.pending (x : Ctx) : Nat := (x.prod + 32768 - x.cons) % 32768

/-- Bytes written into a mailbox window, modulo its size (R32). -/
def Ctx.writeWindow (x : Ctx) (off : Nat) (bs : List Byte) : Ctx :=
  let off := off % 2 ^ 20
  let n := 2 ^ 20 - off
  { x with window := ((x.window.write off (bs.take n)).write 0 ((bs.drop n).take (2 ^ 20))) }

/-- The host writes a packet behind PROD and rings the doorbell (R32); a packet that does not fit is not accepted (R34). [DESIGN CHOICE, log 6] -/
def State.place (s : State) (c : Fin 8) (op : Nat) (p : Pkt) : State :=
  let u := pktUnits p.units
  s.modCtx c (fun x =>
    let x1 := x.writeWindow (32 * x.prod) (p.encode op)
    if x.pending + u ≤ 32767 then { x1 with prod := (x.prod + u) % 32768 } else x1.noteErr (0x030, 0x000B))

/-- The device has taken a packet of `u` units (R32). -/
def Ctx.advance (x : Ctx) (u : Nat) : Ctx := { x with cons := (x.cons + u) % 32768 }

/-- The host sends one packet: it is placed in the mailbox, and taken at once if the device takes packets and none waits
before it; else it waits in the mailbox. [DESIGN CHOICE, log 6] -/
def State.send (s : State) (c : Fin 8) (op : Nat) (p : Pkt) (take : State → State) : State :=
  if !s.link.linkUp then s
  else if s.takes c && decide (s.ctxs[c].pending = 0) && decide (pktUnits p.units ≤ 32767) then
    take ((s.place c op p).modCtx c (fun x => x.advance (pktUnits p.units)))
  else s.place c op p

/-- What a command answers. -/
abbrev Out := Host.Outcome State Fault Refusal

/-- The host sends one packet of an opcode and the device acts on it by `take`. [DESIGN CHOICE, log 6] -/
def hostCmd (s : State) (c : Fin 8) (op : Nat) (p : Pkt) (take : Pkt → State → State) : Out :=
  .next (s.send c op p (take p))

/-- LENGTH is not the `n` units that the command's layout gives (R38 step 15). [DEDUCED, log 10] -/
def lenFail (p : Pkt) (n : Nat) : Option Fail := if p.units = n then none else some (0x030, 0x0001)

/-- The first failure of a list of checks. -/
def firstFail (fs : List (Option Fail)) : Option Fail := fs.findSome? id

/-- A check that fails with status and subcode when its condition holds. -/
def failIf (b : Bool) (st sub : Nat) : Option Fail := if b then some (st, sub) else none

/-- Refuse with the first failure, or go on. -/
def State.unlessFail (s : State) (h : Hdr) (f : Option Fail) (k : State → State) : State :=
  match f with
  | some e => s.refuse h e
  | none => k s

/-- The sender is SECURE or the only open context (R73, R355, R388, R401). -/
def State.sole (s : State) (h : Hdr) : Bool :=
  h.who == .secure || (List.finRange 8).all (fun c => c == h.mb || !s.ctxs[c].isOpen)

/-- Another context owns the resource (R38 step 12). -/
def notMine (o : Owner) (h : Hdr) : Bool := o != h.who

/-- Another context owns the resource; an unowned one is free to take. -/
def takenFrom (o : Owner) (h : Hdr) : Bool := o != .none && o != h.who

end Sys2Proof.Machine

namespace Sys2Proof

open Sys2Proof.Machine

/-- A packet with bits `hi` to `lo` of ARG0 set to `v`: the selector of its row. -/
def Pkt.withA0 (p : Pkt) (hi lo v : Nat) : Pkt :=
  let w := p.arg0.toNat
  { p with arg0 := BitVec.ofNat 32 (w - bits w hi lo * 2 ^ lo + v * 2 ^ lo) }

end Sys2Proof
end

