-- ==== Sys2Proof/Machine/Gong.lean ====
section
/-! DEFINITION. The Gong: reports, records, reactions, fault state, holds, TICK and their commands (R373 to R392). -/

namespace Sys2Proof.Machine

open Sys2Proof

/-- Scope of a Gong source (R373, R375). -/
inductive GScope where
  | device
  | die
  | seq
  | group
  | ctx
  deriving DecidableEq, Repr

/-- Scope of a source code; none for a reserved code (R373). -/
def gongScope (src : Nat) : Option GScope :=
  if src ∈ [0x02, 0x15] then some .die
  else if src ∈ [0x10, 0x17, 0x18, 0x19] then some .seq
  else if src ∈ [0x11, 0x12, 0x13, 0x14] then some .group
  else if src ∈ [0x1A, 0x1B, 0x1C] then some .ctx
  else if (1 ≤ src ∧ src ≤ 0x0C) ∨ src ∈ [0x16, 0x1D, 0x1E, 0x1F] then some .device
  else none

/-- The group that a pin instance names (R373). -/
def instGrp (inst : Nat) : Fin 8 := fin 8 (inst / 256 % 8)

/-- Owner of the resource that a SEQ, GROUP or CTX instance names (R375). -/
def State.gongOwner (s : State) (src inst : Nat) : Owner :=
  match gongScope src with
  | some .seq => s.seqs[fin 4 inst].owner
  | some .group => s.grps[instGrp inst].owner
  | some .ctx => if src = 0x1C then s.tmus[fin 16 inst].owner else s.taps.chans[fin 64 inst].owner
  | _ => .none

/-- Groups in the scope of a source instance (R375). -/
def State.gongGrps (s : State) (src inst : Nat) : List (Fin 8) :=
  match gongScope src with
  | some .device => List.finRange 8
  | some .die => (List.finRange 8).filter (fun g => dieOf g == fin 4 inst)
  | some .seq => s.grpsOf (fin 4 inst)
  | some .group => [instGrp inst]
  | some .ctx => (List.finRange 8).filter (fun g => s.grps[g].owner == s.gongOwner src inst && s.grps[g].owner != .none)
  | none => []

/-- Sequencers in the scope of a source instance (R375). -/
def State.gongSeqs (s : State) (src inst : Nat) : List (Fin 4) :=
  match gongScope src with
  | some .device => List.finRange 4
  | some .seq => [fin 4 inst]
  | _ => (List.finRange 4).filter (fun q => (s.gongGrps src inst).any (fun g => s.grps[g].seq == some q))

/-- The configured settings of a source instance, if any (R388). [DEDUCED, log 131] -/
def State.gongSet (s : State) (src inst : Nat) : Option GSet :=
  match s.gong.sets.find? (fun x => x.src == src && x.inst == inst) with
  | some x => if x.restored then none else some x
  | none => s.gong.sets.find? (fun x => x.src == src && x.inst == 0xFFFF)

/-- Default reactions of a class (R376). -/
def classSet (src inst cls : Nat) : GSet :=
  { src := src, inst := inst, cls := cls, abort := decide (2 ≤ cls), safe := decide (cls = 3), stopTick := decide (cls = 3) }

/-- The settings that apply to a report: configured, or by its default class; a Fatal source keeps its fixed ones (R376, R377). -/
def State.gongApplied (s : State) (r : GReport) : GSet :=
  if gongDefault r.src = 3 then
    let base := classSet r.src r.inst 3
    match s.gongSet r.src r.inst with
    | some x => { base with tap := x.tap, reset := x.reset }
    | none => base
  else (s.gongSet r.src r.inst).getD (classSet r.src r.inst r.dflt)

/-- What the Gong keeps of an instance; a new one has never reported. -/
def State.gongInst (s : State) (src inst : Nat) : GInst :=
  (s.gong.insts.find? (fun i => i.src == src && i.inst == inst)).getD { src := src, inst := inst }

/-- The instance entry replaced. -/
def Gong.putInst (g : Gong) (i : GInst) : Gong :=
  { g with insts := g.insts.filter (fun x => !(x.src == i.src && x.inst == i.inst)) ++ [i] }

/-- The 32 bytes of a record (R389). -/
def GRec.bytes (r : GRec) : List Byte :=
  let t := r.ts.val
  words [cut 32 t, cut 32 (t / 2 ^ 32), r.src % 256 * 2 ^ 24 + r.cls % 4 * 2 ^ 22 + b2n r.entry * 2 ^ 21 + b2n r.cleared * 2 ^ 20 + r.reacted % 16 * 2 ^ 16 + cut 16 (t / 2 ^ 64),
    r.inst % 65536 * 65536 + sat 16 r.suppressed, r.d0, r.d1, r.recseq, r.reset % 16]

/-- The number after `n` of a sequence that runs from 1 and never takes 0 (R41, R175, R389). -/
def nextSeq (n : Nat) : Nat := if n + 1 = 2 ^ 32 then 1 else n + 1

/-- A record joins the log, over the oldest when it is full (R389). -/
def Gong.record (g : Gong) (r : GRec) : Gong :=
  let full := decide (4096 ≤ g.log.length)
  { g with log := (if full then g.log.drop 1 else g.log) ++ [r], lost := if full then sat 32 (g.lost + 1) else g.lost, nextRec := nextSeq g.nextRec, srcs := vmod g.srcs (fin 32 r.src) (fun x => { x with lastRec := r.recseq }) }

/-- A record goes to the contexts that it concerns and that asked for its class (R391). -/
def State.gongNotices (s : State) (r : GRec) : State :=
  let wide := gongScope r.src == some .device || gongScope r.src == some .die
  forFin 8 (fun c t =>
    let x := t.ctxs[c]
    if x.isOpen && x.noticeOn && decide (x.noticeMin ≤ r.cls) && (wide || t.gongOwner r.src r.inst == .ctx c) then
      let waiting : Nat := ((List.finRange 4).map (fun k => (x.rings[k].queue.filter (fun e => e.hdr.opcode == 0xCF0)).length)).sum
      if 64 ≤ waiting then t.modCtx c (fun y => { y with noticeLost := sat 16 (y.noticeLost + 1) })
      else (t.notice c x.noticeRing 0xCF0 c.val 0 x.noticeLost r.bytes r.ts false).modCtx c (fun y => { y with noticeLost := 0 })
    else t) s

/-- A pin enters the safe state: driver and PPMU at high impedance, load off, reflex unit disarmed (R380). -/
def Pin.toSafe (p : Pin) : Pin :=
  { p with safe := true, on := false, reflex := { p.reflex with offBurst := true } }.replan

/-- Every pin of the listed groups enters the safe state; a carried one stays with its reserve channel (R366, R376, R380). -/
def State.safePins (s : State) (gs : List (Fin 8)) : State :=
  gs.foldl (fun t g => (forFin 16 (fun e u => u.modPin (pinOf g e) Pin.toSafe) t).modGrp g (fun x => { x with take := { x.take with stuck := x.take.carried.isSome } })) s

/-- SAFE leaves the Gong for the pins of the listed groups; it is at the balls 25 ns after the reaction, which comes 20 ns
after the report (R378). -/
def State.sendSafe (s : State) (gs : List (Fin 8)) : State :=
  s.modGong (fun g => { g with safes := g.safes ++ [(s.metro + nsF 45, gs)] })

/-- SAFE arrives as its tick begins, before anything else of that tick (R26); without a clock it is not held up. [DEDUCED, log 149] -/
def State.safeArrive (s : State) : State :=
  let here (x : Nat × List (Fin 8)) : Bool := !s.power.locked || decide (x.1 / 512 ≤ s.tick)
  (s.gong.safes.filter here).foldl (fun t x => t.safePins x.2) (s.modGong (fun g => { g with safes := g.safes.filter (fun x => !here x) }))

/-- Pins of the listed groups as a mask. -/
def grpsMask (gs : List (Fin 8)) : Nat := maskOf (gs.flatMap (fun g => (List.range 16).map (fun e => 16 * g.val + e)))

/-- The earlier of a request already known and a new one. -/
def earlier (o : Option Nat) (t : Nat) : Option Nat :=
  match o with
  | none => some t
  | some u => some (min u t)

/-- An abort request leaves for the running sequencers listed; it reaches them 16 ns after the reaction, which comes 20 ns
after the report (R144, R378). -/
def State.abortSeqs (s : State) (qs : List (Fin 4)) : State :=
  qs.foldl (fun t q => if t.seqs[q].st == .idle || t.seqs[q].st == .ending then t
    else t.modSeq q (fun x => { x with abortReq := earlier x.abortReq (t.metro + nsF 36) })) s

/-- Time a reset target takes, in ticks; the ring's time is set by its training (R387). [DEDUCED, log 125] -/
def resetTime (t : Nat) : Nat := if t = 1 then usT 10 else if t = 2 then msT 1 else if t = 4 then msT 5 else 0

/-- The channels that a raise of a producer would enter (R305). -/
def State.chansOf (s : State) (prod : Nat) (only : Option (Fin 64)) (edge : Option Bool) : List (Fin 64) :=
  (List.finRange 64).filter (fun n =>
    let t := s.taps.chans[n]
    t.enabled && t.prod == prod && (match only with | none => true | some k => k == n) &&
      (match edge with | none => true | some up => t.pEdge == 2 || t.pEdge == (if up then 0 else 1)))

/-- A consumer re-emits a tap at a time with hop count `hop`; one above 7 is not raised, is counted, and is reported (R319,
R321). -/
def State.reRaiseAt (s : State) (fine prod : Nat) (ts : Ts) (hop : Nat) : State :=
  if hop ≤ 7 then s.raiseAt fine prod ts hop none none
  else (s.chansOf prod none none).foldl (fun t n =>
    (t.modChan n (fun x => { x with loopDrops := sat 32 (x.loopDrops + 1) })).report 0x1A n.val false ts 0 0) s

/-- A consumer re-emits a tap now. [DEDUCED, log 104] -/
def State.reRaise (s : State) (prod : Nat) (ts : Ts) (hop : Nat) : State := s.reRaiseAt s.metro prod ts hop

/-- The ring is lost on this device; a device on no trained ring has none to lose (R416). [DEDUCED, log 93] -/
def State.ringDrop (s : State) : State :=
  if s.ring.trained then s.modBeat (fun b => { b with trained := false, st := .lost, hold := !b.master, lostAt := some s.metro, gtWait := [] })
  else s

/-- The bypass switches follow their causes; a change of them loses the ring (R396, R416). [DEDUCED, log 93] -/
def State.syncBypass (s : State) : State :=
  let want := !(s.power.ready && s.ring.enable && !s.gong.fatal)
  if s.ring.bypass == want then s else s.ringDrop.modBeat (fun b => { b with bypass := want })

/-- The reactions of a report other than its record and fault state (R376). [DEDUCED, log 104] -/
def State.react (s : State) (r : GReport) (x : GSet) (recorded : Bool) : State :=
  let fatal := decide (x.cls = 3)
  let gs := if fatal then List.finRange 8 else s.gongGrps r.src r.inst
  let qs := if fatal then List.finRange 4 else s.gongSeqs r.src r.inst
  let s1 := if x.abort then s.abortSeqs qs else s
  let s2 := if x.safe then s1.sendSafe gs else s1
  let s3 := if x.reset ≠ 0 then
      let s' := if x.reset = 2 then s2.abortSeqs (s2.gongSeqs r.src r.inst) else s2
      s'.modGong (fun g => { g with resets := g.resets ++ [(x.reset, r.inst, s.tick + resetTime x.reset)] })
    else s2
  if x.tap && recorded then s3.reRaiseAt (s.metro + nsF 20) 0x70 r.ts r.hop else s3

/-- A report reaches the Gong: record, counters, fault state and reactions, which come 20 ns later and from which FAULT_TICK and
the quiet timer count (R374 to R391). [DEDUCED, log 132] -/
def State.gongTake (s : State) (r : GReport) : State :=
  let x := s.gongApplied r
  let i := s.gongInst r.src r.inst
  let now := s.metro
  let acts := now + nsF 20
  let skip := match i.lastRec with | none => false | some t => decide (now < t + nsF 1000)
  let live := !r.cleared
  let faulty := live && decide (2 ≤ x.cls)
  let entry := faulty && !s.gong.fault
  let hold := live && (x.safe || x.stopTick)
  let i1 : GInst := { i with lastRep := now, lastRec := if skip then i.lastRec else some now, suppressed := if skip then sat 16 (i.suppressed + 1) else 0, active := live && (r.src ∈ [2, 3, 6, 7, 8, 10]), cls := x.cls, warnTo := if live && x.cls == 1 then now + 512 * msT s.gong.quietMs else i.warnTo, holdHi := if hold then i.holdHi || decide (2 ≤ x.cls) else i.holdHi, holdSafe := i.holdSafe || (live && x.safe), holdTick := i.holdTick || (live && x.stopTick), safePins := if live && x.safe then i.safePins ||| grpsMask (if x.cls = 3 then List.finRange 8 else s.gongGrps r.src r.inst) else i.safePins }
  let rec1 : GRec := { ts := r.ts, src := r.src, cls := x.cls, entry := entry, cleared := r.cleared, reacted := if live then b2n x.stopTick * 8 + b2n x.safe * 4 + b2n x.abort * 2 + b2n x.tap else 0, inst := r.inst, suppressed := i.suppressed, d0 := r.d0, d1 := r.d1, recseq := s.gong.nextRec, reset := if live then x.reset else 0 }
  let wasFatal := s.gong.fatal
  let endsFault := r.cleared && i.active && i.cls == 2
  let s1 := s.modGong (fun g =>
    let g1 := (g.putInst i1)
    let g2 := { g1 with srcs := vmod g1.srcs (fin 32 r.src) (fun y => { y with reports := sat 32 (y.reports + 1), inEpisode := y.inEpisode || (faulty && decide (x.cls = 2)) }), fault := g1.fault || faulty, fatal := g1.fatal || (live && decide (x.cls = 3)), faultTick := if entry then acts / 512 else g1.faultTick, quietFrom := if (faulty && decide (x.cls = 2)) || endsFault then acts else g1.quietFrom }
    let g3 := if skip then g2 else g2.record rec1
    if live && decide (x.cls = 3) && !wasFatal && !skip then { g3 with prior := some rec1 } else g3)
  let s2 := if live && decide (x.cls = 3) then (s1.modPower (fun p => { p with ready := false })).syncBypass else s1
  let s3 := if skip then s2 else s2.gongNotices rec1
  let s4 := if live then s3.react r x (!skip) else s3
  s.devEvents s4

/-- A report whose detector no other command stands for (R373). -/
def extReport (e : ExtReport) (s : State) : GReport :=
  { src := e.src, inst := e.inst % 65536, dflt := gongDefault e.src, cleared := e.cleared, ts := s.nowSI, d0 := cut 32 e.d0, d1 := cut 32 e.d1, fine := s.metro }

/-- GONG_REPORT: the oldest report on its way reaches the Gong, or the report given (R376, R378). [DEDUCED, log 132] -/
def execGongReport (ext : Option ExtReport) (s : State) : Out :=
  match ext with
  | some e => .next (if (gongScope e.src).isSome then s.gongTake (extReport e s) else s)
  | none =>
    match s.gong.inbox with
    | [] => .next s
    | r :: rs => .next ((s.modGong (fun g => { g with inbox := rs })).gongTake r)

/-! ### Ends of episodes and holds -/

/-- A pin leaves the safe state: its driver stays OFF until the next drive code, or it takes the SAFE halt state (R380). -/
def Pin.leaveSafe (p : Pin) (running : Bool) : Pin :=
  (if running then { p with safe := false, on := false } else { p with safe := false, on := false, haltHiz := true, haltSafe := true }).replan

/-- Pins that no SAFE hold covers any more leave the safe state (R380, R383). -/
def State.freeSafe (s : State) : State :=
  let held := s.gong.insts.foldl (fun m i => if i.holdSafe then m ||| i.safePins else m) 0
  forFin 128 (fun p t => if t.pins[p].safe && !held.testBit p.val then
    let run := match t.grps[grpOf p].seq with | none => false | some q => t.seqs[q].st != .idle
    t.modPin p (fun x => x.leaveSafe run) else t) s

/-- When the last cause that held TICK ends, the next toggle comes 500 µs later (R385). -/
def State.tickAgain (s0 s : State) : State :=
  if !s0.tickRuns && s.tickRuns then s.modGong (fun g => { g with tickAt := s.tick + usT 500 }) else s

/-- Does a Fault-class condition hold? -/
def Gong.faultCond (g : Gong) : Bool := g.insts.any (fun i => i.active && i.cls == 2)

/-- QUIET_EXPIRE: QUIET_MS with no Fault report; the device leaves the fault state (R381 to R383). -/
def State.quietExpire (s : State) : State :=
  if s.gong.fault && !s.gong.fatal && !s.gong.faultCond && decide (s.gong.quietFrom + 512 * msT s.gong.quietMs ≤ s.metro) then
    let s1 := s.modGong (fun g => { g with fault := false, recoveries := sat 32 (g.recoveries + 1), srcs := vmap g.srcs (fun _ y => if y.inEpisode then { y with recoveries := sat 32 (y.recoveries + 1), inEpisode := false } else y), insts := g.insts.map (fun i =>
      if i.holdHi then (if decide (i.cls < 2) && decide (s.metro < i.lastRep + 512 * msT g.quietMs) then { i with holdHi := false } else { i with holdHi := false, holdSafe := false, holdTick := false, safePins := 0 }) else i) })
    s.devEvents (State.tickAgain s s1.freeSafe)
  else s

/-- QUIET_EXPIRE. [DEDUCED, log 4] -/
def execQuietExpire (s : State) : Out := .next s.quietExpire

/-- HOLD_EXPIRE: a hold from a Note or Warn report ends (R383). -/
def execHoldExpire (src inst : Nat) (s : State) : Out :=
  let i := s.gongInst src inst
  if (i.holdSafe || i.holdTick) && !i.holdHi && decide (i.lastRep + 512 * msT s.gong.quietMs ≤ s.metro) then
    .next (State.tickAgain s ((s.modGong (fun g => g.putInst { i with holdSafe := false, holdTick := false, safePins := 0 })).freeSafe))
  else .next s

/-- TICK_TOGGLE: every 500 µs while ready and unheld (R385). -/
def execTickToggle (s : State) : Out :=
  if s.tickRuns && decide (s.gong.tickAt ≤ s.tick) then
    .next (s.modGong (fun g => { g with tick := !g.tick, tickCount := (g.tickCount + 1) % 65536, tickAt := s.tick + usT 500 }))
  else .next s

/-- HEARTBEAT: a supervisor core signals the watchdog (R386). -/
def execHeartbeat (core : Fin 4) (s : State) : Out :=
  .next (s.modGong (fun g => { g with beats := vmod g.beats core (fun _ => s.tick), silent := vmod g.silent core (fun _ => false) }))

/-- SUP_HANG: a running core misses its heartbeat for 50 ms and is reported as Fatal (R386). -/
def execSupHang (core : Fin 4) (s : State) : Out :=
  if decide (3 ≤ s.power.stepDone) && decide (s.gong.beats[core] + msT 50 < s.tick) then
    .next ((s.report 0x04 core.val false s.nowSI 0 0).modGong (fun g => { g with beats := vmod g.beats core (fun _ => s.tick), silent := vmod g.silent core (fun _ => true) }))
  else .next s

/-! ### GONG_CONFIG (R388) -/

/-- Form checks of OP SOURCE (R388, R377). -/
def gongForm (p : Pkt) : Option Fail :=
  let op := p.a0 31 30
  let src := p.a0 23 16
  let inst := p.a0 15 0
  let bad := some (0x030, 0xC001)
  if op = 3 then bad
  else if op = 0 then
    match gongScope src with
    | none => bad
    | some sc =>
      if p.arg2 ≠ 0 then bad
      else if p.a1 31 31 = 1 then none
      else if 4 < p.a1 15 12 then bad
      else if p.a1 15 12 ≠ 0 ∧ sc ≠ .device ∧ sc ≠ .die then bad
      else if p.a1 15 12 = 2 ∧ sc = .device then bad
      else if gongDefault src = 3 ∧ (p.a1 17 16 ≠ 3 ∨ p.a1 3 1 ≠ 7) then bad
      else if p.a1 17 16 < gongDefault src ∧ !p.isE then some (0x042, 0x0040)
      else if p.a1 17 16 = 3 ∧ gongDefault src ≠ 3 then bad
      else if sc = .group ∧ inst ≠ 0xFFFF ∧ (16 < inst % 32 ∨ inst / 32 % 8 ≠ 0 ∨ inst / 2048 ≠ 0) then bad
      else none
  else if src ≠ 0 ∨ inst ≠ 0 ∨ p.arg1 ≠ 0 then bad
  else if op = 1 then (if 1 ≤ p.a2 15 0 ∧ p.a2 15 0 ≤ 60000 then none else bad)
  else if p.a2 15 3 ≠ 0 then bad
  else none

/-- Ownership of the instance, or SECURE or the only open context for a DIE or DEVICE source and for QUIET (R375, R388). -/
def gongOwns (h : Hdr) (p : Pkt) (s : State) : Option Fail :=
  let src := p.a0 23 16
  let inst := p.a0 15 0
  if p.a0 31 30 = 1 then failIf (!s.sole h) 0x041 0x2003
  else if p.a0 31 30 = 0 then
    match gongScope src with
    | some .device => failIf (!s.sole h) 0x041 0x2003
    | some .die => failIf (!s.sole h) 0x041 0x2003
    | some _ => if inst = 0xFFFF then none else failIf (notMine (s.gongOwner src inst) h) 0x040 0xC002
    | none => none
  else none

/-- The instances of a source that the sender may configure, for INSTANCE 0xFFFF (R388). -/
def State.gongMine (s : State) (h : Hdr) (src : Nat) : List Nat :=
  match gongScope src with
  | some .seq => (List.range 4).filter (fun i => s.gongOwner src i == h.who)
  | some .group => ((List.range 8).flatMap (fun g => (List.range 17).map (fun e => 256 * g + e))).filter (fun i => s.gongOwner src i == h.who)
  | some .ctx => (List.range (if src = 0x1C then 16 else 64)).filter (fun i => s.gongOwner src i == h.who)
  | _ => [0xFFFF]

/-- OP SOURCE of GONG_CONFIG takes effect. [DEDUCED, log 131] -/
def State.gongSource (s : State) (h : Hdr) (p : Pkt) : State :=
  let src := p.a0 23 16
  let insts := if p.a0 15 0 = 0xFFFF then s.gongMine h src else [p.a0 15 0]
  let drop (x : GSet) : Bool := x.src == src && (insts.contains x.inst || insts == [0xFFFF])
  let every := s.gong.sets.any (fun x => x.src == src && x.inst == 0xFFFF)
  let new (i : Nat) : GSet := { src := src, inst := i, cls := p.a1 17 16, reset := p.a1 15 12, stopTick := bit p.arg1.toNat 3, safe := bit p.arg1.toNat 2, abort := bit p.arg1.toNat 1, tap := bit p.arg1.toNat 0 }
  s.modGong (fun g => { g with sets := g.sets.filter (fun x => !drop x) ++ (if p.a1 31 31 = 1 then (if every && insts != [0xFFFF] then insts.map (fun i => { src := src, inst := i, restored := true }) else []) else insts.map new) })

/-- GONG_CONFIG after intake. -/
def gongConfigBody (h : Hdr) (p : Pkt) (s : State) : State :=
  s.unlessFail h (firstFail [lenFail p 0, gongForm p]) (fun s =>
    let s1 := if p.a0 31 30 = 0 then s.gongSource h p
      else if p.a0 31 30 = 1 then s.modGong (fun g => { g with quietMs := p.a2 15 0 })
      else s.modCtx h.mb (fun x => { x with noticeOn := bit p.arg2.toNat 2, noticeMin := p.a2 1 0, noticeRing := h.ring })
    s1.ok h)

/-- GONG_CONFIG is taken. -/
def takeGongConfig (c : Fin 8) (p : Pkt) (s : State) : State := s.deliver c 0xC01 p gongOwns noFail gongConfigBody

/-- GONG_CONFIG with OP SOURCE. -/
def execGongConfigSource (c : Fin 8) (p : Pkt) (s : State) : Out := hostCmd s c 0xC01 (p.withA0 31 30 0) (takeGongConfig c)
/-- GONG_CONFIG with OP QUIET. -/
def execGongConfigQuiet (c : Fin 8) (p : Pkt) (s : State) : Out := hostCmd s c 0xC01 (p.withA0 31 30 1) (takeGongConfig c)
/-- GONG_CONFIG with OP NOTICE. -/
def execGongConfigNotice (c : Fin 8) (p : Pkt) (s : State) : Out := hostCmd s c 0xC01 (p.withA0 31 30 2) (takeGongConfig c)

/-! ### GONG_READ (R392) -/

/-- The Gong device block (R392). -/
def State.gongBlock (s : State) : List Byte :=
  let g := s.gong
  words [b2n (!s.tickRuns) * 32 + b2n g.prior.isSome * 16 + b2n g.fatal * 8 + b2n g.fault * 4 + s.topClass, g.quietMs, g.recoveries, g.lost] ++
  le 8 g.faultTick ++ words [g.nextRec, 0] ++ (match g.prior with | some r => r.bytes | none => zeros 32)

/-- A source entry of OP COUNTERS (R392). -/
def Gong.srcEntry (g : Gong) (i : Fin 32) : List Byte :=
  let x := g.srcs[i]
  let mine := g.insts.filter (fun y => y.src == i.val)
  words [x.reports, x.recoveries, b2n (mine.any (fun y => y.holdSafe || y.holdTick)) * 2 + b2n (mine.any (fun y => y.active)), x.lastRec]

/-- The records of the log from a number on: none from one not yet written, all from one overwritten (R392). [DEDUCED, log 151] -/
def Gong.recsFrom (g : Gong) (n : Nat) : List GRec :=
  if g.log.any (fun r => r.recseq == n) then g.log.dropWhile (fun r => r.recseq != n)
  else if n != 0 && decide ((n + (2 ^ 32 - 1) - g.nextRec) % (2 ^ 32 - 1) < 2 ^ 31) then []
  else g.log

/-- GONG_READ after intake. -/
def gongReadBody (h : Hdr) (p : Pkt) (s : State) : State :=
  s.unlessFail h (firstFail [lenFail p 0, failIf (decide (4096 < p.a2 12 0)) 0x030 0xC001]) (fun s =>
    let data := if p.b0 0 then (List.finRange 32).flatMap s.gong.srcEntry
      else
        let from_ := p.arg1.toNat
        ((s.gong.recsFrom from_).take (p.a2 12 0)).flatMap GRec.bytes
    s.reply h 0 0 0 (s.gongBlock ++ data))

/-- GONG_READ is taken. -/
def takeGongRead (c : Fin 8) (p : Pkt) (s : State) : State := s.deliver c 0xC02 p noFail noFail gongReadBody

/-- GONG_READ with OP LOG. -/
def execGongReadLog (c : Fin 8) (p : Pkt) (s : State) : Out := hostCmd s c 0xC02 (p.withA0 0 0 0) (takeGongRead c)
/-- GONG_READ with OP COUNTERS. -/
def execGongReadCounters (c : Fin 8) (p : Pkt) (s : State) : Out := hostCmd s c 0xC02 (p.withA0 0 0 1) (takeGongRead c)

end Sys2Proof.Machine
end

