-- ==== Sys2Proof/Machine/Ecc.lean ====
section
/-! DEFINITION. The check code of on-die SRAM (R339, R340) and accesses to SRAM bytes with their error accounting
(R341, R342). -/

namespace Sys2Proof.Machine

open Sys2Proof

/-- Exclusive or of the listed bits of a codeword. -/
def xorBits (c : Codeword) (is : List Nat) : Bool := is.foldl (fun b i => b ^^ c.getLsbD i) false

/-- Check bits C0 to C3 as recomputed from data bits D7 to D0, C0 as bit 0 (R339). -/
def checks4 (c : Codeword) : Nat :=
  b2n (xorBits c [0, 1, 3, 4, 6]) + 2 * b2n (xorBits c [0, 2, 3, 5, 6]) + 4 * b2n (xorBits c [1, 2, 3, 7]) + 8 * b2n (xorBits c [4, 5, 6, 7])

/-- The codeword of a byte: data in bits 7:0, C4 to C0 in bits 12:8 (R339). -/
def eccEnc (b : Byte) : Codeword :=
  let d := BitVec.ofNat 13 b.toNat
  let c := d ||| BitVec.ofNat 13 (256 * checks4 d)
  c ||| BitVec.ofNat 13 (4096 * b2n (xorBits c (List.range 12)))

/-- Data byte of a codeword. -/
def eccData (c : Codeword) : Byte := BitVec.ofNat 8 c.toNat

/-- Syndrome S: stored against recomputed C0 to C3 (R340). -/
def syndrome (c : Codeword) : Nat := (c.toNat / 256 % 16) ^^^ checks4 c

/-- P: exclusive or of all 13 stored bits (R340). -/
def parity13 (c : Codeword) : Bool := xorBits c (List.range 13)

/-- How a stored codeword is judged (R340): no error, correctable with the corrected codeword, or uncorrectable. -/
inductive Judge where
  | good
  | corr (fixed : Codeword)
  | bad
  deriving DecidableEq, Repr

/-- Codeword bit at error position 1 to 12 (R340). -/
def errBit (s : Nat) : Nat := [8, 9, 0, 10, 1, 2, 3, 11, 4, 5, 6, 7].getD (s - 1) 0

/-- The judgement of a codeword (R340). -/
def judge (c : Codeword) : Judge :=
  let s := syndrome c
  if parity13 c then
    (if s = 0 then .corr (c ^^^ 4096) else if s ≤ 12 then .corr (c ^^^ BitVec.ofNat 13 (2 ^ errBit s)) else .bad)
  else if s = 0 then .good else .bad

/-- The data that a read returns: corrected if it can be (R341). -/
def readData (c : Codeword) : Byte :=
  match judge c with
  | .corr f => eccData f
  | _ => eccData c

/-- One SRAM of R345, MEM 0 to 7; MEM 2 is the Fail Map of a sequencer. -/
def State.cmem (s : State) (mem : Nat) (q : Fin 4) : CMem :=
  if mem = 0 then s.sram.scratch
  else if mem = 1 then s.sram.xb
  else if mem = 2 then s.fmaps[q].mem
  else if mem = 7 then s.sram.ctl
  else s.sram.pdTab[fin 4 (mem - 3)]

/-- One SRAM replaced. -/
def State.putCmem (s : State) (mem : Nat) (q : Fin 4) (m : CMem) : State :=
  if mem = 0 then s.modSram (fun x => { x with scratch := m })
  else if mem = 1 then s.modSram (fun x => { x with xb := m })
  else if mem = 2 then s.modFmap q (fun x => { x with mem := m })
  else if mem = 7 then s.modSram (fun x => { x with ctl := m })
  else s.modSram (fun x => { x with pdTab := vmod x.pdTab (fin 4 (mem - 3)) (fun _ => m) })

/-- A correctable error is counted in the memory's Brush log (R341, R348). -/
def State.countCe (s : State) (mem : Fin 9) (addr : Nat) : State :=
  s.modBrush mem (fun b => { b with ce := sat 32 (b.ce + 1), lastType := 1, lastAddr := addr, lastTick := s.nowSI.tick })

/-- An uncorrectable error is counted and recorded as SRAM_UE (R341, R342, R345). [DEDUCED, log 81] -/
def State.countUe (s : State) (mem : Fin 9) (addr : Nat) : State :=
  (s.modBrush mem (fun b => { b with ue := sat 32 (b.ue + 1), lastType := 2, lastAddr := addr, lastTick := s.nowSI.tick })).report 0x1E mem.val false s.nowSI addr 0

/-- A read of one byte counts what it meets (R341). -/
def State.meet (s : State) (mem : Nat) (q : Fin 4) (a : Nat) : State :=
  match judge ((s.cmem mem q).code a) with
  | .good => s
  | .corr _ => s.countCe (fin 9 mem) a
  | .bad => s.countUe (fin 9 mem) a

/-- Addresses of a range whose bytes are uncorrectable. -/
def State.badBytes (s : State) (mem : Nat) (q : Fin 4) (a n : Nat) : List Nat :=
  ((List.range n).map (fun i => a + i)).filter (fun x => judge ((s.cmem mem q).code x) == .bad)

/-- The bytes that a read of a range returns (R341). -/
def State.sramBytes (s : State) (mem : Nat) (q : Fin 4) (a n : Nat) : List Byte :=
  (List.range n).map (fun i => readData ((s.cmem mem q).code (a + i)))

/-- A read of a range counts what it meets. [DEDUCED, log 130] -/
def State.meetRange (s : State) (mem : Nat) (q : Fin 4) (a n : Nat) : State :=
  (List.range n).foldl (fun t i => t.meet mem q (a + i)) s

/-- A plain write of one byte: a whole fresh codeword (R342). -/
def State.plainByte (s : State) (mem : Nat) (q : Fin 4) (a : Nat) (b : Byte) : State :=
  s.putCmem mem q ((s.cmem mem q).setCode a (eccEnc b))

/-- Plain writes of successive bytes. -/
def State.plainBytes (s : State) (mem : Nat) (q : Fin 4) (a : Nat) (bs : List Byte) : State :=
  s.putCmem mem q (bs.zipIdx.foldl (fun m (b, i) => m.setCode (a + i) (eccEnc b)) (s.cmem mem q))

/-- A memory-side read-modify-write of one byte (R335, R342): corrected, modified and written back, or left alone if it is
uncorrectable. -/
def State.aliasByte (s : State) (mem : Nat) (q : Fin 4) (a : Nat) (f : Byte → Byte) : State :=
  let c := (s.cmem mem q).code a
  match judge c with
  | .good => s.plainByte mem q a (f (eccData c))
  | .corr x => (s.countCe (fin 9 mem) a).plainByte mem q a (f (eccData x))
  | .bad => s.countUe (fin 9 mem) a

/-- 64-byte lines of a range that hold uncorrectable bytes, as DETAIL of R88. -/
def ueDetail (a : Nat) (bad : List Nat) : Nat :=
  let ls := (bad.map (fun x => (x - a) / 64)).eraseDups
  min 15 ls.length * 4096 + ls.headD 0 % 4096

end Sys2Proof.Machine
end

