-- ==== Sys2Proof/Machine/Store.lean ====
section
/-! DEFINITION. The Pattern Store: partition, pages and frames, host writes and reads, page demand, and the fixed and idle
Bar slots that serve them (R17 to R22, R72 to R100). -/

namespace Sys2Proof.Machine

open Sys2Proof

/-! ### The Bar (R17, R18, R20, R22) -/

/-- The Bar slot in which the present tick falls, 0 to 63 (R17). [DEDUCED, log 33] -/
def State.slot (s : State) : Nat := s.tick / 4 % 64
/-- The slot counted from Metronome zero. -/
def State.absSlot (s : State) : Nat := s.tick / 4
/-- The slot has not been used yet. [DEDUCED, log 33] -/
def State.slotFree (s : State) : Bool := s.store.lastSlot != some s.absSlot
/-- The slot is used up. [DEDUCED, log 33] -/
def State.useSlot (s : State) : State := s.modStore (fun t => { t with lastSlot := some s.absSlot })

/-- A flexible position of the Bar (R18). -/
def flexible (i : Nat) : Bool := !(i % 16 ∈ [0, 4, 8, 12, 15])

/-- Positions that reservations hold. -/
def State.heldSlots (s : State) : List Nat := s.seqs.toList.flatMap (fun q => q.slots) ++ s.caps.toList.flatMap (fun e => e.slots)

/-- Free flexible positions of a quarter, lowest first (R20). -/
def State.freeIn (s : State) (k : Nat) : List Nat :=
  ((List.range 16).map (fun o => 16 * k + o)).filter (fun i => flexible i && !s.heldSlots.contains i)

/-- The placeable count A (R20). -/
def State.placeable (s : State) : Nat :=
  let n := (List.range 4).map (fun k => (s.freeIn k).length)
  let m := n.foldl min 99
  4 * m + (n.filter (fun x => decide (m < x))).length

/-- The quarters in the order in which a reservation's odd slots are given: most free positions first, then lower number (R20). -/
def quarterOrder (free : List Nat) : List Nat :=
  sortBy (fun j => 64 - free.getD j 0) (List.range 4)

/-- The positions that a new reservation of `k` slots takes (R20). -/
def State.placeSlots (s : State) (k : Nat) : List Nat :=
  let free := (List.range 4).map (fun j => (s.freeIn j).length)
  let extra := (quarterOrder free).take (k % 4)
  (List.range 4).flatMap (fun j => (s.freeIn j).take (k / 4 + (if extra.contains j then 1 else 0)))

/-- Slots held by bursts. -/
def State.seqHeld (s : State) : Nat := (s.seqs.toList.map (fun q => q.slots.length)).sum
/-- Slots held by engines. -/
def State.capHeld (s : State) : Nat := (s.caps.toList.map (fun e => e.slots.length)).sum

/-- Upkeep that a MAINT slot carries: the refresh of one bank moves on to the next in rotation (R19). -/
def Store.maintain (t : Store) (w : Upkeep) : Store :=
  { t with maintUsed := t.maintUsed + 1, refreshBank := if w = .refresh then (t.refreshBank + 1) % max 1 Config.hbmBanks else t.refreshBank }

/-- MAINT_SLOT: a MAINT position carries the upkeep that is due, or goes unused (R19). What is due is
a free value. [DESIGN CHOICE, log 163] -/
def execMaintSlot (s : State) : Out :=
  if s.slotFree && (s.slot ∈ [12, 15, 28, 31, 44, 47, 60]) then
    match Config.freeUpkeep s.free with
    | none => .next s.drawn
    | some w => .next (s.drawn.useSlot.modStore (fun t => t.maintain w))
  else .next s

/-! ### Bursts and pages -/

/-- The burst holds its pages: it is admitted or running. -/
def Seq.live (q : Seq) : Bool := q.st == .admitted || q.st == .running

/-- The entry's first use lies within the prefetch window ahead (R83, R92). -/
def State.inWindow (s : State) (q : Fin 4) (e : PlanEnt) : Bool :=
  decide (s.metro ≤ s.useTime q e) && decide (s.useTime q e ≤ s.metro + 512 * usT s.store.prefetchUs)

/-- Line address of the vector at a vector address of the burst (R103, R105). -/
def Seq.lineOfVec (x : Seq) (a : Nat) : Nat := x.patStart + a * x.lineLen

/-- The other target of the decision that the sequencer still has to take. -/
def Seq.altTarget (x : Seq) : Option Nat :=
  match x.dec with
  | .jmpf t => some t
  | .jmpg _ _ t => some t
  | .matching _ t => some t
  | _ => none

/-- A fetch pointer of the burst lies in the page, on the path it issues or on the alternate path (R83). -/
def Seq.fetchesIn (x : Seq) (n : Nat) : Bool :=
  pageOf x.fetchPtr == n || pageOf (x.lineOfVec x.addr) == n || pageOf (x.lineOfVec x.addr + x.lineLen - 1) == n ||
  (!x.alt.isEmpty && pageOf x.altPtr == n) || x.altTarget.any (fun t => pageOf (x.lineOfVec t) == n)

/-- A page is pinned (R83). -/
def State.pinned (s : State) (n : Nat) : Bool :=
  (List.finRange 4).any (fun q =>
    let x := s.seqs[q]
    x.live && (x.fetchesIn n || (x.descHeld && pageOf x.descAddr == n) || (x.plan ++ x.planRest).any (fun e => e.page == n && s.inWindow q e)))

/-- The page that holds a frame under a number. -/
def Store.page (t : Store) (n : Nat) : Option Page := t.pages.find? (fun p => p.num == n)
/-- A page entry changed. -/
def Store.modPage (t : Store) (n : Nat) (f : Page → Page) : Store :=
  { t with pages := t.pages.map (fun p => if p.num == n then f p else p) }
/-- A page was fetched or written (R84). -/
def Store.touch (t : Store) (n : Nat) : Store :=
  { (t.modPage n (fun p => { p with used := t.stamp })) with stamp := t.stamp + 1 }

/-- Frames of the pattern window: 128 for each unit of 256 MiB (R72). -/
def Store.frames (t : Store) : Nat := 128 * (142 - t.capUnits - t.flogUnits)

/-- The written bit of the 4 KiB block of an address (R77). -/
def Store.isWritten (t : Store) (a : Nat) : Bool := t.written.contains (a / 4096)

/-- A block joins the written blocks, kept ascending. -/
def addBlock : List Nat → Nat → List Nat
  | [], b => [b]
  | x :: l, b => if b < x then b :: x :: l else if b = x then x :: l else x :: addBlock l b

/-- Lines are written at an address within one 4 KiB block; a block with a clear written bit is zeroed around them. What is
written carries fresh check bits (R75, R77, R346). -/
def Store.writeBlock (t : Store) (a : Nat) (bs : List Byte) : Store :=
  let first := !t.isWritten a
  let lo := if first then a / 4096 * 4096 else a
  let n := if first then 4096 else bs.length
  { t with mem := (if first then t.mem.clear lo 4096 else t.mem).write a bs, written := addBlock t.written (a / 4096), errs := errsDrop lo n t.errs, brushBack := t.brushBack.filter (fun x => x < lo || lo + n ≤ x) }

/-- A line is readable: its page is Resident and its block written (R78). -/
def Store.lineWritten (t : Store) (a : Nat) : Bool :=
  (match t.page (pageOf a) with | none => false | some p => p.resident) && t.isWritten a

/-- Memory errors inside a range of addresses. [DESIGN CHOICE, log 32] -/
def errsIn (a n : Nat) (l : List MemErr) : List MemErr := l.filter (fun e => a ≤ e.addr && e.addr < a + n)

/-- An error in a stored word, kept by ascending address; a second error in a word cannot be corrected (R76). [DESIGN CHOICE, log 32] -/
def errAdd (l : List MemErr) (e : MemErr) : List MemErr :=
  let e := { e with addr := e.addr / 8 * 8 }
  match l.find? (fun x => x.addr == e.addr) with
  | some x => l.map (fun y => if y.addr == e.addr then { y with uncorrectable := true, flip := x.flip ^^^ e.flip } else y)
  | none => insBy (fun x => x.addr) e l

/-- Bytes with the word at an offset as stored: its erroneous bits turned over (R88). -/
def flipWord (off : Nat) (f : BitVec 64) (bs : List Byte) : List Byte :=
  bs.zipIdx.map (fun (b, i) => if off ≤ i ∧ i < off + 8 then b ^^^ BitVec.ofNat 8 (f.toNat / 256 ^ (i - off)) else b)

/-- The bytes of a 64-byte line: zeros if it is unwritten, single errors corrected, uncorrectable words as stored (R76, R78, R88). -/
def Store.line (t : Store) (a : Nat) : List Byte :=
  if t.lineWritten a then
    ((errsIn a 64 t.errs).filter (fun e => e.uncorrectable)).foldl (fun bs e => flipWord (e.addr - a) e.flip bs) (t.mem.read a 64)
  else zeros 64

/-- The line holds an uncorrectable word (R79). -/
def Store.lineBad (t : Store) (a : Nat) : Bool := t.lineWritten a && (errsIn a 64 t.errs).any (fun e => e.uncorrectable)

/-- The bytes of whole lines from a line address on. -/
def Store.lines (t : Store) (a n : Nat) : List Byte := (List.range n).flatMap (fun i => t.line (a + 64 * i))

/-- One memory error met in a partition: a corrected one counts as CE, an uncorrectable one as UE and STORE_UE (R76, R348). -/
def State.storeErr (s : State) (part : Nat) (e : MemErr) : State :=
  let t := s.modBrush 8 (fun b => { b with ce := if e.uncorrectable then b.ce else sat 32 (b.ce + 1), ue := if e.uncorrectable then sat 32 (b.ue + 1) else b.ue, lastType := if e.uncorrectable then 2 else 1, lastAddr := e.addr, lastTick := s.nowGHz.tick })
  if e.uncorrectable then t.report 0x1D part false s.nowGHz e.addr (e.addr / 2 ^ 32) else t

/-- Memory errors met in a partition, in order (R76). [DEDUCED, log 130] -/
def State.storeErrs (s : State) (part : Nat) (errs : List MemErr) : State := errs.foldl (fun t e => t.storeErr part e) s

/-- Errors that have arisen in written words of a range of the pattern window (R75). [DESIGN CHOICE, log 32] -/
def State.upset (s : State) (a n : Nat) (errs : List MemErr) : State :=
  s.modStore (fun t => { t with errs := ((errsIn a n errs).filter (fun e => t.lineWritten e.addr)).foldl errAdd t.errs })

/-- A read of a range of the pattern window counts and reports what it meets in written lines (R75, R76). -/
def State.meetErrs (s : State) (a n : Nat) : State := s.storeErrs 3 ((errsIn a n s.store.errs).filter (fun e => s.store.lineWritten e.addr))

/-- Host writes of a page that still wait are answered: the page leaves its frame with them written (R84). [DEDUCED, log 36] -/
def State.answerPage (s : State) (n : Nat) : State :=
  let l := s.store.hostin.filter (fun w => w.page == n)
  l.foldl (fun t w => t.ok w.hdr) (s.modStore (fun t => { t with hostin := t.hostin.filter (fun w => w.page != n) }))

/-- A frame for page `n`: free, or taken from the least recently used page that may leave (R84). -/
def State.frameFor (s : State) : Option State :=
  if s.store.pages.length < s.store.frames then some s
  else
    let cand := s.store.pages.filter (fun p => p.resident && !p.sticky && !s.pinned p.num)
    match cand with
    | [] => none
    | p0 :: ps =>
      let n := (ps.foldl (fun a b => if b.used < a.used then b else a) p0).num
      some ((s.answerPage n).evictPage n)

/-! ### Host writes (R85 to R89) -/

/-- A host write is complete: FINAL takes effect, and the command answers (R80, R85). -/
def State.hostInDone (s : State) (w : HostIn) : State :=
  (if w.final then s.modStore (fun t => t.modPage w.page (fun p => { p with resident := true, since := if p.resident then p.since else s.nowSI.tick })) else s).ok w.hdr

/-- One HOSTIN slot of a host write: up to 1,024 bytes, or one of the four slots that fill a block not yet written, zero lines
included (R77, R89). -/
def Store.hostInAccess (t : Store) (w : HostIn) : Store × HostIn :=
  let whole := !t.isWritten w.addr
  let k := if whole then 4096 - w.addr % 4096 else 1024 - w.addr % 1024
  if whole && decide (w.step < 3) then (t, { w with step := w.step + 1 })
  else ((if (t.page w.page).isSome then t.writeBlock w.addr (w.data.take k) else t).touch w.page, { w with addr := w.addr + k, data := w.data.drop k, step := 0 })

/-- Time by which a demanded page is wanted: its planned first use, or the tick of an unplanned demand; none if no burst demanded
it (R89, R93). -/
def State.deadline (s : State) (n : Nat) : Option Nat :=
  (List.finRange 4).foldl (fun d q =>
    let x := s.seqs[q]
    if x.live && x.demanded.contains n then
      earlier d (match x.unplanned.find? (fun e => e.1 == n) with
        | some e => 512 * e.2
        | none => match x.plan.find? (fun e => e.page == n && e.past && decide (s.metro ≤ s.useTime q e)) with | none => 0 | some e => s.useTime q e)
    else d) none

/-- The host write that the next HOSTIN slot serves (R89). -/
def State.nextHostIn (s : State) : Option HostIn :=
  let dem := s.store.hostin.filter (fun w => w.fill && (s.deadline w.page).isSome)
  match dem with
  | [] => s.store.hostin.head?
  | w0 :: ws => some (ws.foldl (fun a b => if (s.deadline b.page).getD 0 < (s.deadline a.page).getD 0 then b else a) w0)

/-- The page of the command is owned by another (R81). -/
def pageTaken (n : Nat) (h : Hdr) (s : State) : Option Fail :=
  match s.store.page n with
  | none => none
  | some p => failIf (takenFrom p.owner h) 0x040 0x2030

/-- A page gets a frame for its owner, or the write is refused (R80, R81, R84). -/
def State.assign (s : State) (h : Hdr) (n : Nat) : Option State :=
  match s.store.page n with
  | some _ => some s
  | none => s.frameFor.map (fun t => t.modStore (fun x => { x with pages := x.pages ++ [{ num := n, owner := h.who, used := x.stamp }], stamp := x.stamp + 1 }))

/-- PAGE_FILL after intake (R85). -/
def pageFillBody (h : Hdr) (p : Pkt) (s : State) : State :=
  let n := p.a0 20 0
  let fin := bit p.arg1.toNat 31
  let len := p.payload.length
  let resident := match s.store.page n with | none => false | some x => x.resident
  let align := p.units % 512 ≠ 0 ∨ 32768 < p.units ∨ 2 ^ 21 < p.a1 8 0 * 4096 + len
  match firstFail [failIf (decide align) 0x030 0x2001, failIf (resident && decide (len ≠ 0) && s.pinned n) 0x010 0x2020] with
  | some f => s.refuse h f
  | none =>
    match s.assign h n with
    | none => s.refuse h (0x010, 0x2021)
    | some t =>
      let t1 := t.modStore (fun x => x.modPage n (fun g => { g with sticky := bit p.arg1.toNat 30, sealed := g.sealed || p.isS }))
      let w : HostIn := { hdr := h, addr := n * 2 ^ 21 + p.a1 8 0 * 4096, data := p.payload, page := n, final := fin, fill := true, sealed := p.isS }
      if len = 0 then t1.hostInDone w else t1.modStore (fun x => { x with hostin := x.hostin ++ [w] })

/-- PAGE_EVICT after intake (R86). -/
def pageEvictBody (h : Hdr) (p : Pkt) (s : State) : State :=
  s.unlessFail h (lenFail p 0) (fun s =>
    if p.a1 0 0 = 1 then
      let mine := (s.store.pages.filter (fun x => x.owner == h.who)).map (fun x => x.num)
      let kept := mine.filter (fun n => s.pinned n)
      let s1 := (mine.filter (fun n => !s.pinned n)).foldl (fun t n => t.evictPage n) s
      if kept.isEmpty then s1.ok h else s1.reply h 0x010 0x2020 (sat 16 kept.length) []
    else
      let n := p.a0 20 0
      if (s.store.page n).isSome && s.pinned n then s.refuse h (0x010, 0x2020) else (s.evictPage n).ok h)

/-- Pattern address of STORE_WRITE and STORE_READ (R87). -/
def storeAddr (p : Pkt) : Nat := p.arg0.toNat + 2 ^ 32 * p.a1 9 0

/-- STORE_WRITE with CLEAR_WRITTEN (R87). -/
def State.clearWritten (s : State) (h : Hdr) (p : Pkt) : State :=
  let a := storeAddr p
  let n := p.arg3.toNat
  let bad := p.units ≠ 0 ∨ a % 4096 ≠ 0 ∨ n = 0 ∨ 2 ^ 21 < a % 2 ^ 21 + 4096 * n
  let resident := match s.store.page (pageOf a) with | none => false | some x => x.resident
  s.unlessFail h (firstFail [failIf (decide bad) 0x030 0x2001, failIf (resident && s.pinned (pageOf a)) 0x010 0x2020]) (fun s =>
    (if (s.store.page (pageOf a)).isSome then
      s.modStore (fun t => ({ t with written := t.written.filter (fun b => b < a / 4096 || a / 4096 + n ≤ b) }).touch (pageOf a))
    else s).ok h)

/-- STORE_WRITE after intake (R87). [DEDUCED, log 36] -/
def storeWriteBody (h : Hdr) (p : Pkt) (s : State) : State :=
  let a := storeAddr p
  if p.isE ∧ p.a2 0 0 = 1 then s.clearWritten h p
  else
    let len := p.payload.length
    let pg := s.store.page (pageOf a)
    let resident := match pg with | none => false | some x => x.resident
    let bad := a % 64 ≠ 0 ∨ len % 64 ≠ 0 ∨ 2 ^ 21 < a % 2 ^ 21 + len
    match firstFail [failIf (decide bad) 0x030 0x2001, failIf (resident && s.pinned (pageOf a)) 0x010 0x2020] with
    | some f => s.refuse h f
    | none =>
      match s.assign h (pageOf a) with
      | none => s.refuse h (0x010, 0x2021)
      | some t =>
        let t1 := t.modStore (fun x => x.modPage (pageOf a) (fun g => { g with sealed := g.sealed || p.isS }))
        let w : HostIn := { hdr := h, addr := a, data := p.payload, page := pageOf a, final := pg.isNone, sealed := p.isS }
        if len = 0 then t1.hostInDone w else t1.modStore (fun x => { x with hostin := x.hostin ++ [w] })

/-! ### Host reads (R22, R87, R88) -/

/-- STORE_READ after intake (R87). [DEDUCED, log 153] -/
def storeReadBody (h : Hdr) (p : Pkt) (s : State) : State :=
  let a := storeAddr p
  let n := p.arg3.toNat
  let bad := p.units ≠ 0 ∨ a % 64 ≠ 0 ∨ n % 64 ≠ 0 ∨ n = 0 ∨ 2 ^ 21 < a % 2 ^ 21 + n
  let sealed := match s.store.page (pageOf a) with | none => false | some x => x.sealed
  s.unlessFail h (firstFail [failIf (decide bad) 0x030 0x2001, failIf (sealed && !h.isS) 0x090 0x2031]) (fun s =>
    s.modStore (fun t => { t with reads := t.reads ++ [{ hdr := h, addr := a, left := n, readyTick := s.tick }] }))

/-- DETAIL for affected lines of an entry: the first and how many (R88). -/
def lineDetail (is : List Nat) : Nat := min 15 is.length * 4096 + is.headD 0 % 4096

/-- One entry of a STORE_READ is full and is posted (R88). [DEDUCED, log 29] [DEDUCED, log 31] -/
def State.readEntry (s : State) (r : ReadOp) : State :=
  let ue := r.ueLines.reverse
  let unw := r.unwLines.reverse
  let st := if !ue.isEmpty then 0x060 else if !unw.isEmpty then 0x051 else if usT 10 < r.waited then 0x002 else 0
  let lines := if !ue.isEmpty then ue else unw
  let detail := if st = 0x060 ∨ st = 0x051 then lineDetail lines else 0
  s.pushEntry r.hdr.mb r.hdr.ring { hdr := r.hdr, more := decide (r.left ≠ 0), status := st, detail := detail, ts := s.nowGHz, payload := r.got, wrap := r.hdr.isS, finishes := decide (r.left = 0) }

/-- One access of the host read that is served: up to 1,024 bytes, and no more than its entry takes (R22, R88). -/
def State.readAccess (s0 : State) (r : ReadOp) (errs : List MemErr) : State :=
  let k := min (min (1024 - r.addr % 1024) r.left) (262144 - r.got.length)
  let s := s0.upset r.addr k errs
  let as := (List.range (k / 64)).map (fun i => r.addr + 64 * i)
  let idx (a : Nat) : Nat := (r.got.length + (a - r.addr)) / 64
  let unw := as.filter (fun a => !s.store.lineWritten a)
  let bad := as.filter (fun a => s.store.lineBad a)
  let s1 := s.meetErrs r.addr k
  let s2 := match unw with
    | [] => s1
    | a :: _ => if r.unwRep then s1 else s1.report 0x1F 0 false s.nowGHz a (a / 2 ^ 32)
  let slotTick := s.absSlot * 4
  let r1 : ReadOp := { r with addr := r.addr + k, left := r.left - k, got := r.got ++ s.store.lines r.addr (k / 64), waited := r.waited + (slotTick - r.readyTick), readyTick := slotTick, ueLines := (bad.map idx).reverse ++ r.ueLines, unwLines := (unw.map idx).reverse ++ r.unwLines, unwRep := r.unwRep || !unw.isEmpty }
  let r0 := { r1 with got := [], waited := 0, ueLines := [], unwLines := [] }
  if r1.left = 0 then (s2.modStore (fun t => { t with reads := t.reads.drop 1 })).readEntry r1
  else if 262144 ≤ r1.got.length then (s2.modStore (fun t => { t with reads := r0 :: t.reads.drop 1 })).readEntry r1
  else s2.modStore (fun t => { t with reads := r1 :: t.reads.drop 1 })

/-- An idle slot: a flexible position that no reservation holds (R22). -/
def State.idleSlot (s : State) : Bool := flexible s.slot && !s.heldSlots.contains s.slot

/-! ### STORE_PARTITION (R73, R74) -/

/-- The store counts as running (R73). [DEDUCED, log 152] -/
def State.storeRuns (s : State) : Bool :=
  s.seqs.toList.any (fun q => q.st != .idle) || s.caps.toList.any (fun e => e.st != .idle || e.admitted)

/-- STORE_PARTITION after intake (R73, R74). [DEDUCED, log 37] -/
def partitionBody (h : Hdr) (p : Pkt) (s : State) : State :=
  let cap := p.a0 15 8
  let flog := p.a0 7 0
  let sb := if p.isE then p.a1 7 0 else 48
  let pre := if p.isE then p.a2 16 0 else 2000
  let bad := cap < 4 ∨ flog < 1 ∨ 142 < cap + flog + 16 ∨ 52 < sb ∨ pre < 100 ∨ 100000 < pre
  s.unlessFail h (firstFail [lenFail p 0, failIf (decide bad) 0x030 0x2002]) (fun s =>
    let s1 := s.modStore (fun t => { t with mem := [], written := [], pages := [], errs := [], brushBack := [], capUnits := cap, flogUnits := flog, streamBudget := sb, prefetchUs := pre })
    let s2 := { s1 with caps := vmap s1.caps (fun _ e => { e with segment := [] }), flogs := vmap s1.flogs (fun _ f => { f with ring := [], held := 0, written := 0, drains := f.drains.map (fun d : DrainOp => { d with left := 0 }) }) }
    s2.ok h)

/-! ### The order of commands that name one page (R55) -/

/-- Ownership check of a store command (R81, R73). -/
def storeOwns (op : Nat) (h : Hdr) (p : Pkt) (s : State) : Option Fail :=
  if op = 0x201 then failIf (!s.sole h) 0x041 0x2003
  else if op = 0x202 then pageTaken (p.a0 20 0) h s
  else if op = 0x203 then (if p.a1 0 0 = 1 then none else pageTaken (p.a0 20 0) h s)
  else pageTaken (pageOf (storeAddr p)) h s

/-- Running targets of a store command (R73). -/
def storeBusy (op : Nat) (_ : Hdr) (_ : Pkt) (s : State) : Option Fail := if op = 0x201 then failIf s.storeRuns 0x010 0x0030 else none

/-- A store command after its checks. -/
def storeBody (op : Nat) : Hdr → Pkt → State → State :=
  if op = 0x201 then partitionBody else if op = 0x202 then pageFillBody else if op = 0x203 then pageEvictBody
  else if op = 0x204 then storeWriteBody else storeReadBody

/-- The page that a store command names; none for STORE_PARTITION and for PAGE_EVICT with ALL. -/
def StoreWait.page (w : StoreWait) : Option Nat :=
  if w.op = 0x201 then none
  else if w.op = 0x203 && w.pkt.a1 0 0 == 1 then none
  else if w.op = 0x202 || w.op = 0x203 then some (w.pkt.a0 20 0)
  else some (pageOf (storeAddr w.pkt))

/-- The command names page `n`, which work of `o` names too (R55). [DEDUCED, log 36] -/
def StoreWait.names (w : StoreWait) (n : Nat) (o : Owner) : Bool :=
  w.op == 0x201 || (match w.page with | some x => x == n | none => w.hdr.who == o)

/-- Two store commands name the same resource (R55). -/
def StoreWait.meets (a b : StoreWait) : Bool :=
  a.op == 0x201 || b.op == 0x201 || (match a.page, b.page with | some x, some y => x == y | _, _ => a.hdr.who == b.hdr.who)

/-- The command brings data for HOSTIN slots, which carry the data of one page in order. -/
def StoreWait.brings (w : StoreWait) : Bool :=
  !w.pkt.payload.isEmpty && (w.op == 0x202 || (w.op == 0x204 && !(w.pkt.isE && w.pkt.a2 0 0 == 1)))

/-- An earlier command that names the same page has not completed: the command waits for it (R55). [DEDUCED, log 36] -/
def State.storeHeld (s : State) (w : StoreWait) : Bool :=
  let ins := s.store.hostin.filter (fun x => w.names x.page x.hdr.who)
  let outs := s.store.reads.filter (fun r => w.names (pageOf r.addr) r.hdr.who)
  s.store.waits.any (fun v => w.meets v) ||
  (if w.brings then !outs.isEmpty || ins.any (fun x => x.final) else if w.op = 0x205 then !ins.isEmpty else !ins.isEmpty || !outs.isEmpty)

/-- Store commands that wait are started in order, each once nothing that it waits for is left (R55). -/
def State.settleStore (s : State) : State :=
  s.store.waits.foldl (fun t w =>
    if t.storeHeld w then t.modStore (fun x => { x with waits := x.waits ++ [w] })
    else t.runChecked w.hdr w.op w.pkt (storeOwns w.op) (storeBusy w.op) (storeBody w.op)) (s.modStore (fun x => { x with waits := [] }))

/-- A check that a command which waits takes when it is started. -/
def unlessHeld (op : Nat) (f : Hdr → Pkt → State → Option Fail) (h : Hdr) (p : Pkt) (s : State) : Option Fail :=
  if s.storeHeld { hdr := h, op := op, pkt := p } then none else f h p s

/-- A store command starts, or waits for earlier ones (R55). -/
def storeStart (op : Nat) (h : Hdr) (p : Pkt) (s : State) : State :=
  if s.storeHeld { hdr := h, op := op, pkt := p } then s.modStore (fun x => { x with waits := x.waits ++ [{ hdr := h, op := op, pkt := p }] })
  else (storeBody op h p s).settleStore

/-- A store command is taken. -/
def takeStore (op : Nat) (c : Fin 8) (p : Pkt) (s : State) : State :=
  s.deliver c op p (unlessHeld op (storeOwns op)) (unlessHeld op (storeBusy op)) (storeStart op)

/-- PAGE_FILL is taken. -/
def takePageFill (c : Fin 8) (p : Pkt) (s : State) : State := takeStore 0x202 c p s
/-- PAGE_FILL. -/
def execPageFill (c : Fin 8) (p : Pkt) (s : State) : Out := hostCmd s c 0x202 p (takePageFill c)

/-- PAGE_EVICT is taken. -/
def takePageEvict (c : Fin 8) (p : Pkt) (s : State) : State := takeStore 0x203 c p s
/-- PAGE_EVICT without ALL. -/
def execPageEvict (c : Fin 8) (p : Pkt) (s : State) : Out :=
  hostCmd s c 0x203 { p with arg1 := p.arg1 &&& 0xFFFFFFFE } (takePageEvict c)
/-- PAGE_EVICT with ALL. -/
def execPageEvictAll (c : Fin 8) (p : Pkt) (s : State) : Out := hostCmd s c 0x203 { p with arg1 := p.arg1 ||| 1 } (takePageEvict c)

/-- STORE_WRITE is taken. -/
def takeStoreWrite (c : Fin 8) (p : Pkt) (s : State) : State := takeStore 0x204 c p s
/-- STORE_WRITE. -/
def execStoreWrite (c : Fin 8) (p : Pkt) (s : State) : Out :=
  hostCmd s c 0x204 { p with arg2 := p.arg2 &&& 0xFFFFFFFE } (takeStoreWrite c)
/-- STORE_WRITE with CLEAR_WRITTEN. -/
def execStoreClearWritten (c : Fin 8) (p : Pkt) (s : State) : Out :=
  hostCmd s c 0x204 { p with arg2 := p.arg2 ||| 1 } (takeStoreWrite c)

/-- STORE_READ is taken. -/
def takeStoreRead (c : Fin 8) (p : Pkt) (s : State) : State := takeStore 0x205 c p s
/-- STORE_READ. -/
def execStoreRead (c : Fin 8) (p : Pkt) (s : State) : Out := hostCmd s c 0x205 p (takeStoreRead c)

/-- HOSTIN_SLOT: host data is written, demanded pages first (R89). -/
def execHostinSlot (s : State) : Out :=
  if s.slotFree && (s.slot ∈ [0, 16, 32, 48]) then
    match s.nextHostIn with
    | none => .next s
    | some w =>
      let r := s.store.hostInAccess w
      let t : State := { s with store := { r.1 with hostin := r.1.hostin.map (fun x => if x == w then r.2 else x), lastSlot := some s.absSlot } }
      if r.2.data.isEmpty then .next (((t.modStore (fun x => { x with hostin := x.hostin.filter (fun y => y != r.2) })).hostInDone r.2).settleStore)
      else .next t
  else .next s

/-- STORE_PARTITION is taken. -/
def takePartition (c : Fin 8) (p : Pkt) (s : State) : State := takeStore 0x201 c p s

/-- STORE_PARTITION. -/
def execStorePartition (c : Fin 8) (p : Pkt) (s : State) : Out := hostCmd s c 0x201 p (takePartition c)

/-! ### Page demand (R92, R93) -/

/-- The page can be fetched for the burst: Resident, owned by its context, and resident since an earlier Bar (R80, R81). [DEDUCED, log 34] -/
def State.fetchable (s : State) (q : Fin 4) (n : Nat) : Bool :=
  match s.store.page n with
  | none => false
  | some p =>
    p.resident && p.owner == (if s.seqs[q].secure then .secure else .ctx s.seqs[q].ctx) && decide (p.since / 256 < s.tick / 256)

/-- The page is Resident for the burst. -/
def State.residentFor (s : State) (q : Fin 4) (n : Nat) : Bool :=
  match s.store.page n with
  | none => false
  | some p => p.resident && p.owner == (if s.seqs[q].secure then .secure else .ctx s.seqs[q].ctx)

/-- A PAGE_DEMAND notice is issued (R92, R93). -/
def State.demand (s : State) (q : Fin 4) (n : Nat) (unplanned : Bool) (deadline : Nat) : State :=
  let x := s.seqs[q]
  let pay := words [n, b2n unplanned * 256 + q.val] ++ le 8 deadline ++ le 8 x.vecs ++ zeros 8
  (s.modSeq q (fun y => { y with demanded := y.demanded ++ [n], unplanned := if unplanned then y.unplanned ++ [(n, deadline)] else y.unplanned })).notice x.hdr.mb x.hdr.ring 0x2F0 x.hdr.context 0 0 pay s.nowGHz false

/-- The entry's moment has come and no event has taken it yet (R92). -/
def State.planNow (s : State) (q : Fin 4) (e : PlanEnt) : Bool := !e.past && s.planDue q e

/-- PAGE_DEMAND: plan entries whose moment has come; those whose page is not Resident and not yet demanded are demanded (R92). -/
def execPageDemand (q : Fin 4) (s : State) : Out :=
  let x := s.seqs[q]
  if x.live then
    let due := x.plan.filter (fun e => s.planNow q e)
    let s1 := s.modSeq q (fun y => { y with plan := y.plan.map (fun e => if s.planNow q e then { e with past := true } else e) })
    .next (due.foldl (fun t e => if t.residentFor q e.page || t.seqs[q].demanded.contains e.page then t else t.demand q e.page false (t.useTime q e / 512)) s1)
  else .next s

/-- Sequencer whose page plan the supervisor reads on: the first that has entries left (R91). [DESIGN CHOICE, log 139] -/
def State.planTurn (s : State) : Option (Fin 4) := (List.finRange 4).find? (fun q => s.seqs[q].live && !s.seqs[q].planRest.isEmpty)

/-- SUP_SLOT: the supervisor's slot reads on in the page plan of a running burst, 64 entries to an access, or serves an access of
firmware's own, whose errors are a free value (R18, R76, R91). [DESIGN CHOICE, log 163] -/
def execSupSlot (s : State) : Out :=
  let errs := Config.freeMemErrs s.free
  if s.slotFree && decide (s.slot = 63) then
    let t := s.useSlot.modStore (fun t => { t with supUsed := t.supUsed + 1 })
    .next (match s.planTurn with
      | some q => t.modSeq q (fun x => { x with plan := x.plan ++ x.planRest.take 64, planRest := x.planRest.drop 64 })
      | none =>
        let t1 := t.drawn.modStore (fun x => { x with supErrs := errs.foldl errAdd x.supErrs })
        t1.storeErrs 0 (t1.store.supErrs.filter (fun e => errs.any (fun f => f.addr / 8 * 8 == e.addr))))
  else .next s

/-! ### Fetch into a sequencer (R94) -/

/-- The page's sealed attribute (R85). -/
def Store.sealedPage (t : Store) (n : Nat) : Bool := match t.page n with | none => false | some p => p.sealed

/-- A line as the store gives it to a buffer that has it from a time on (R78, R79, R94). -/
def Store.bufLine (t : Store) (a usable : Nat) : BufLine :=
  { addr := a, data := t.line a, written := t.lineWritten a, ue := t.lineBad a, sealed := t.sealedPage (pageOf a), usable := usable }

/-- One line is fetched into a buffer, or its missing page is demanded (R92, R94). [DEDUCED, log 34] -/
def State.fetchLine (s : State) (q : Fin 4) (alt : Bool) (a : Nat) : State :=
  let n := pageOf a
  let x := s.seqs[q]
  if s.fetchable q n then
    let add (b : List BufLine) : List BufLine := let c := b.filter (fun y => y.addr != a); (if 256 ≤ c.length then c.drop (c.length - 255) else c) ++ [s.store.bufLine a (s.metro + nsF 8)]
    (((s.meetErrs a 64).modSeq q (fun y => if alt then { y with alt := add y.alt } else { y with buf := add y.buf })).modStore (fun t => t.touch n))
  else if !s.residentFor q n && !x.demanded.contains n then s.demand q n true s.nowGHz.tick
  else s

/-- SEQ_SLOT_FETCH: a SEQ slot of the burst fetches the 1,024-byte access that holds an address (R17, R94). -/
def execSeqSlotFetch (q : Fin 4) (alt : Bool) (addr : Nat) (errs : List MemErr) (s : State) : Out :=
  let x := s.seqs[q]
  if x.live && s.slotFree && x.slots.contains s.slot && decide (addr < 2 ^ 42) then
    let base := addr / 1024 * 1024
    let s1 := (s.useSlot.upset base 1024 errs).modSeq q (fun y => if alt then { y with altPtr := addr } else { y with fetchPtr := addr })
    .next ((List.range 16).foldl (fun t i => t.fetchLine q alt (base + 64 * i)) s1)
  else .next s

end Sys2Proof.Machine
end

