-- ==== Sys2Proof/Machine/Sram.lean ====
section
/-! DEFINITION. Scratchpad, Exchange Bank, ECC_DIAG and Brush (R328 to R348), with the idle Bar slots that Brush shares. -/

namespace Sys2Proof.Machine

open Sys2Proof

/-! ### SCRATCH_ACCESS (R328 to R331) -/

/-- ADDR and SIZE of SCRATCH_ACCESS. -/
def scratchAddr (p : Pkt) : Nat := p.a1 21 0
/-- SIZE of SCRATCH_ACCESS. -/
def scratchSize (p : Pkt) : Nat := p.a2 18 0

/-- A scratchpad range lies where the sender may reach (R328, R330). -/
def scratchIn (h : Hdr) (a n : Nat) : Bool :=
  if h.context = 15 then decide (a + n ≤ 2 ^ 22)
  else decide (0x200000 + h.mb.val * 0x40000 ≤ a) && decide (a + n ≤ 0x200000 + h.mb.val * 0x40000 + 0x40000)

/-- The range is in the sender's window, and SECURE writes no firmware region (R330). -/
def scratchOwns (h : Hdr) (p : Pkt) (_ : State) : Option Fail :=
  firstFail [failIf (!scratchIn h (scratchAddr p) (scratchSize p)) 0x040 0xA003, failIf (p.a0 1 0 != 0 && decide (scratchAddr p < 0x200000)) 0x041 0xA004]

/-- The bank cycle in which the present time falls (R332). -/
def State.bankCycle (s : State) : Nat := s.edge 1280 / 1280

/-- Cycles of 625 ps that the accesses of a scratchpad read wait for host slots, the last four of every sixteen: each 8-byte word
is ready once the word before it is issued, so every fourth one waits twelve cycles (R22, R329, R331). [DEDUCED, log 147] -/
def State.scratchWait (s : State) (a n : Nat) : Nat :=
  let slot := s.bankCycle % 16
  12 - min 12 slot + 12 * (((a + n - 1) / 8 - a / 8 + (slot - 12)) / 4)

/-- Status of a scratchpad read: an uncorrectable byte, a wait of more than 10 µs in total, or neither (R88, R331). -/
def State.scratchStatus (s : State) (a n : Nat) : Nat :=
  if (s.badBytes 0 0 a n).isEmpty then (if 16000 < s.scratchWait a n then 0x002 else 0) else 0x060

/-- SCRATCH_ACCESS after intake (R330, R331). -/
def scratchBody (h : Hdr) (p : Pkt) (s : State) : State :=
  let op := p.a0 1 0
  let a := scratchAddr p
  let n := scratchSize p
  let form := n = 0 ∨ 262144 < n ∨ (2 ≤ op ∧ !p.isE) ∨ (!p.isE ∧ (a % 64 ≠ 0 ∨ n % 64 ≠ 0)) ∨ p.units ≠ (if op = 0 then 0 else (n + 7) / 8)
  s.unlessFail h (failIf (decide form) 0x030 0xA001) (fun s =>
    if op = 0 then
      let bad := s.badBytes 0 0 a n
      let s1 := s.meetRange 0 0 a n
      s1.reply h (s.scratchStatus a n) 0 (if bad.isEmpty then 0 else ueDetail a bad) (s.sramBytes 0 0 a n)
    else if op = 1 then (s.plainBytes 0 0 a (p.body.take n)).ok h
    else
      let bad := s.badBytes 0 0 a n
      let s1 := ((p.body.take n).zipIdx).foldl (fun t (d, i) => t.aliasByte 0 0 (a + i) (fun b => if op = 2 then b ||| d else b &&& ~~~d)) s
      match bad with
      | [] => s1.ok h
      | x :: _ => s1.reply h 0x060 0 (sat 16 bad.length) (le 8 x))

/-- SCRATCH_ACCESS is taken. -/
def takeScratch (c : Fin 8) (p : Pkt) (s : State) : State := s.deliver c 0xA01 p scratchOwns noFail scratchBody

/-- SCRATCH_ACCESS with OP READ. -/
def execScratchRead (c : Fin 8) (p : Pkt) (s : State) : Out := hostCmd s c 0xA01 (p.withA0 1 0 0) (takeScratch c)
/-- SCRATCH_ACCESS with OP WRITE. -/
def execScratchWrite (c : Fin 8) (p : Pkt) (s : State) : Out := hostCmd s c 0xA01 (p.withA0 1 0 1) (takeScratch c)
/-- SCRATCH_ACCESS with OP SET. -/
def execScratchSet (c : Fin 8) (p : Pkt) (s : State) : Out := hostCmd s c 0xA01 (p.withA0 1 0 2) (takeScratch c)
/-- SCRATCH_ACCESS with OP CLR. -/
def execScratchClr (c : Fin 8) (p : Pkt) (s : State) : Out := hostCmd s c 0xA01 (p.withA0 1 0 3) (takeScratch c)

/-! ### Exchange Bank (R332 to R338) -/

/-- The bank cycle of the next free host slot of port B: an odd one, after the last one used (R333, R334). [DEDUCED, log 82] -/
def State.hostCycle (s : State) : Nat :=
  let c := if s.bankCycle % 2 = 1 then s.bankCycle else s.bankCycle + 1
  match s.sram.hostSlot with
  | none => c
  | some k => if k < c then c else k + 2

/-- The bank cycle of the next slot of port B for the capture units and the supervisor: an even one (R333). -/
def State.unitCycle (s : State) : Nat := if s.bankCycle % 2 = 0 then s.bankCycle else s.bankCycle + 1

/-- The codewords of an Exchange Bank word. -/
def State.xbWord (s : State) (w : Nat) : List Codeword := (List.range 4).map (fun i => s.sram.xb.code (4 * w + i))

/-- The codewords of an Exchange Bank word replaced. -/
def State.putXbWord (s : State) (w : Nat) (cs : List Codeword) : State :=
  s.modSram (fun x => { x with xb := cs.zipIdx.foldl (fun m (c, i) => m.setCode (4 * w + i) c) x.xb })

/-- The value that a read of a word returns, with its errors counted; true if a byte is uncorrectable (R341). [DESIGN CHOICE, log 84] -/
def State.xbReadWord (s : State) (w : Nat) : Nat × Bool × State :=
  (unle (s.sramBytes 1 0 (4 * w) 4), !(s.badBytes 1 0 (4 * w) 4).isEmpty, s.meetRange 1 0 (4 * w) 4)

/-- The Exchange Bank is open to its users: Brush has initialized it (R337, R344). -/
def State.xbOpen (s : State) : Bool := s.brush[(1 : Fin 9)].initDone

/-- XB_BUSY records a collision of a host access (R30, R338). [DEDUCED, log 83] -/
def State.xbSignal (s : State) : State := s.modLink (fun l => { l with xbCollided := true, xbCollisions := sat 16 (l.xbCollisions + 1) })

/-- Port A signals: XBUSY_N low, XD not valid (R336, R338). [DEDUCED, log 83] -/
def State.portASignal (s : State) : State := s.modSram (fun x => { x with xbusy := true })

/-- The last access of a port collides with one of the other port (R338). -/
def XbLast.hits (l : XbLast) (cycle w : Nat) (write : Bool) : Bool := l.cycle == some cycle && l.word == w && (l.write || write)

/-- A host access of port B in its host slot, sampled at point 2, with the collision outcomes of R338.
`act` is what the access does to the bank. [DEDUCED, log 82] -/
def State.portB (s : State) (w : Nat) (write : Bool) (act : State → State) : State :=
  let cyc := s.hostCycle
  let a := s.sram.lastA
  let me : XbLast := { cycle := some cyc, word := w, write := write, pt2 := true, before := s.xbWord w }
  let note (t : State) : State := t.modSram (fun x => { x with lastB := me, hostSlot := some cyc })
  if !a.hits cyc w write then note (act s)
  else if a.write && write then (note (act (s.putXbWord w a.before))).portASignal
  else if write then
    let s1 := (note (act s)).portASignal
    let s2 := (s1.modSram (fun x => { x with xd := cut 32 s1.freeVal })).drawn
    if a.pt2 then s2 else s2.xbSignal
  else
    let s1 := note (act s)
    let s2 := (s1.modLink (fun l => { l with readData := cut 32 s1.freeVal })).drawn.xbSignal
    if a.pt2 then s2.portASignal else s2

/-- Word of a BAR2 offset, in any of its three windows (R27). -/
def bar2Word (off : Nat) : Nat := off % 0x10000 / 4

/-- BAR2 reaches the Exchange Bank: the link is up, the function runs and the bank is open. [DEDUCED, log 128] -/
def State.bar2Ok (s : State) (off : Nat) : Bool := s.link.linkUp && s.xbOpen && decide (off < 0x30000)

/-- XB_HOST_READ (R334, R341): bytes that are not enabled are not returned. -/
def execXbHostRead (off be : Nat) (s : State) : Out :=
  if s.bar2Ok off && decide (be % 16 ≠ 0) then
    let w := bar2Word off
    let (v, bad, _) := s.xbReadWord w
    let keep := unle ((List.range 4).map (fun i => if be.testBit i then (BitVec.ofNat 8 (v / 256 ^ i)) else 0))
    .next (s.portB w false (fun t => ((t.xbReadWord w).2.2).modLink (fun l => { l with readData := keep, readPoison := bad })))
  else .next s

/-- Bytes of a word written with byte enables. -/
def State.xbPlain (s : State) (w be : Nat) (v : Word) : State :=
  (List.range 4).foldl (fun t i => if be.testBit i then t.plainByte 1 0 (4 * w + i) (BitVec.ofNat 8 (v.toNat / 256 ^ i)) else t) s

/-- Bytes of a word modified through an alias. -/
def State.xbAlias (s : State) (w be : Nat) (v : Word) (isSet : Bool) : State :=
  (List.range 4).foldl (fun t i =>
    let d : Byte := BitVec.ofNat 8 (v.toNat / 256 ^ i)
    if be.testBit i then t.aliasByte 1 0 (4 * w + i) (fun b => if isSet then b ||| d else b &&& ~~~d) else t) s

/-- What a host write through BAR2 does to the bank: the window in which its offset lies says whether it writes, sets or
clears (R27, R334, R335). -/
def State.xbWindow (s : State) (off be : Nat) (v : Word) : State :=
  let w := bar2Word off
  if off < 0x10000 then s.xbPlain w be v else if off < 0x20000 then s.xbAlias w be v true else s.xbAlias w be v false

/-- A host write through BAR2 (R27, R334, R335). -/
def State.bar2Write (s : State) (off be : Nat) (v : Word) : State :=
  if s.bar2Ok off && decide (be % 16 ≠ 0) then s.portB (bar2Word off) true (fun t => t.xbWindow off be v) else s

/-- XB_HOST_WRITE (R334). [DEDUCED, log 148] -/
def execXbHostWrite (off be : Nat) (v : Word) (s : State) : Out := .next (s.bar2Write off be v)
/-- XB_SET_ALIAS_WRITE (R335). [DEDUCED, log 148] -/
def execXbSetAliasWrite (off be : Nat) (v : Word) (s : State) : Out := .next (s.bar2Write off be v)
/-- XB_CLR_ALIAS_WRITE (R335). [DEDUCED, log 148] -/
def execXbClrAliasWrite (off be : Nat) (v : Word) (s : State) : Out := .next (s.bar2Write off be v)

/-- A write of a capture unit or ECC_DIAG through port B at point 1 (R333, R338). [DEDUCED, log 82] -/
def State.portBUnit (s : State) (w : Nat) (act : State → State) : State :=
  let cyc := s.unitCycle
  let a := s.sram.lastA
  let me : XbLast := { cycle := some cyc, word := w, write := true, pt2 := false, before := s.xbWord w }
  let note (t : State) : State := t.modSram (fun x => { x with lastB := me })
  if !a.hits cyc w true then note (act s)
  else if a.write then (note (act (s.putXbWord w a.before))).portASignal
  else
    let s1 := (note (act s)).portASignal
    (s1.modSram (fun x => { x with xd := cut 32 s1.freeVal })).drawn

/-- A port A access while the bank is not open: XBUSY_N low during the initialization pass, nothing driven before it (R337). -/
def State.portAClosed (s : State) : State := s.modSram (fun x => { x with xbusy := x.xbPass, xdDriven := false })

/-- XP_READ: a board agent reads a word through port A (R336, R338, R341). -/
def execXpRead (w : Fin 16384) (pt2 : Bool) (s : State) : Out :=
  if !s.xbOpen then .next s.portAClosed
  else
    let cyc := s.bankCycle
    let b := s.sram.lastB
    let (v, bad, s1) := s.xbReadWord w.val
    let me : XbLast := { cycle := some cyc, word := w.val, write := false, pt2 := pt2, before := s.xbWord w.val }
    let s2 := s1.modSram (fun x => { x with lastA := me, xd := v, xdDriven := true, xbusy := bad })
    if b.hits cyc w.val false then
      let s3 := ((s2.modSram (fun x => { x with xd := cut 32 s2.freeVal, xbusy := true }))).drawn
      .next (if b.pt2 && !pt2 then s3.xbSignal else s3)
    else .next s2

/-- XP_WRITE: a board agent writes a word through port A (R336, R338). -/
def execXpWrite (w : Fin 16384) (v : Word) (pt2 : Bool) (s : State) : Out :=
  if !s.xbOpen then .next s.portAClosed
  else
    let cyc := s.bankCycle
    let b := s.sram.lastB
    let me : XbLast := { cycle := some cyc, word := w.val, write := true, pt2 := pt2, before := s.xbWord w.val }
    let s1 := s.modSram (fun x => { x with lastA := me, xdDriven := false, xbusy := false })
    if b.hits cyc w.val true && b.write then .next s1.portASignal
    else
      let s2 := s1.xbPlain w.val 15 v
      if b.hits cyc w.val true then
        let s3 := ((s2.modLink (fun l => { l with readData := cut 32 s2.freeVal })).drawn).xbSignal
        .next (if pt2 || !b.pt2 then s3.portASignal else s3)
      else .next s2

/-! ### ECC_DIAG (R343) -/

/-- Size in bytes of a memory, or of the map for MEM 2 (R343, R345). -/
def State.memSize (s : State) (mem : Nat) (q : Fin 4) : Nat :=
  if mem = 0 then 2 ^ 22 else if mem = 1 then 2 ^ 16 else if mem = 2 then s.cfg.seqs[q].fmBlocks * 65536 else if mem = 7 then 2 ^ 20 else 2 ^ 18

/-- MEM of ECC_DIAG. -/
def diagMem (p : Pkt) : Nat := p.a0 11 8
/-- SEQ of ECC_DIAG. -/
def diagSeq (p : Pkt) : Fin 4 := fin 4 (p.a0 13 12)

/-- Ownership checks of ECC_DIAG (R343). -/
def diagOwns (h : Hdr) (p : Pkt) (s : State) : Option Fail :=
  let m := diagMem p
  if m = 0 then failIf (h.context != 15 && !scratchIn h p.arg1.toNat (p.a2 8 0)) 0x040 0xA003
  else if m = 2 then failIf (notMine s.seqs[diagSeq p].owner h) 0x040 0x3002
  else if 3 ≤ m ∧ m ≤ 7 then failIf (h.context != 15) 0x041 0xA004
  else none

/-- Running checks of ECC_DIAG (R343). -/
def diagBusy (_ : Hdr) (p : Pkt) (s : State) : Option Fail :=
  let m := diagMem p
  if m = 2 then failIf (s.seqs[diagSeq p].st != .idle) 0x010 0x0030
  else if 3 ≤ m ∧ m ≤ 6 then failIf ((List.finRange 8).any (fun g => (dieOf g).val == m - 3 && s.grpRuns g)) 0x010 0x0030
  else none

/-- The form of ECC_DIAG (R343). -/
def State.diagForm (s : State) (p : Pkt) : Bool :=
  let m := diagMem p
  let n := p.a2 8 0
  let op := p.a0 1 0
  m < 8 && op != 3 && (m == 2 || p.a0 13 12 == 0) && 1 ≤ n && n ≤ 256 && p.arg1.toNat + n ≤ s.memSize m (diagSeq p) &&
    p.units == (if op = 0 then 0 else (n + 3) / 4) && (List.range (4 * p.units)).all (fun i => rd p.body (2 * i) 2 < (if i < n then 8192 else 1))

/-- ECC_DIAG after intake (R343). -/
def diagBody (h : Hdr) (p : Pkt) (s : State) : State :=
  let m := diagMem p
  let q := diagSeq p
  let n := p.a2 8 0
  let a := p.arg1.toNat
  s.unlessFail h (failIf (!s.diagForm p) 0x030 0xA002) (fun s =>
    if p.a0 1 0 = 0 then s.reply h 0 0 0 ((List.range n).flatMap (fun i => le 2 ((s.cmem m q).code (a + i)).toNat))
    else
      let upd (t : State) : State := t.putCmem m q ((List.range n).foldl (fun k i =>
        let e : Codeword := BitVec.ofNat 13 (rd p.body (2 * i) 2)
        k.setCode (a + i) (if p.a0 1 0 = 1 then e else k.code (a + i) ^^^ e)) (t.cmem m q))
      (if m = 1 then s.portBUnit (a / 4) upd else upd s).ok h)

/-- ECC_DIAG is taken. -/
def takeDiag (c : Fin 8) (p : Pkt) (s : State) : State := s.deliver c 0xA02 p diagOwns diagBusy diagBody

/-- ECC_DIAG with OP READ_RAW. -/
def execEccDiagReadRaw (c : Fin 8) (p : Pkt) (s : State) : Out := hostCmd s c 0xA02 (p.withA0 1 0 0) (takeDiag c)
/-- ECC_DIAG with OP WRITE_RAW. -/
def execEccDiagWriteRaw (c : Fin 8) (p : Pkt) (s : State) : Out := hostCmd s c 0xA02 (p.withA0 1 0 1) (takeDiag c)
/-- ECC_DIAG with OP FLIP. -/
def execEccDiagFlip (c : Fin 8) (p : Pkt) (s : State) : Out := hostCmd s c 0xA02 (p.withA0 1 0 2) (takeDiag c)

/-! ### Brush (R344 to R348) -/

/-- Codewords of a memory in one Brush lap, MEM 0 to 7 (R345). -/
def brushSize (mem : Nat) : Nat :=
  if mem = 0 then 2 ^ 22 else if mem = 1 then 2 ^ 16 else if mem = 2 then 2 ^ 23 else if mem = 7 then 2 ^ 20 else 2 ^ 18

/-- Codewords that one Brush access reads: a word of each bank of the scratchpad, one word elsewhere (R329, R345). -/
def brushStep (mem : Nat) : Nat := if mem = 0 then 128 else if mem = 1 then 4 else 8

/-- Ticks between two Brush accesses at the pace of R345. -/
def brushPace (mem : Nat) : Nat := if mem = 0 ∨ mem = 1 ∨ mem = 7 then 40 else 64

/-- Sequencer and offset of a Fail Map address: the maps lie one after another in sequencer order. [DEDUCED, log 80] -/
def State.mapPlace (s : State) (a : Nat) : Fin 4 × Nat :=
  let b (q : Fin 4) : Nat := s.cfg.seqs[q].fmBlocks * 65536
  if a < b 0 then (0, a) else if a < b 0 + b 1 then (1, a - b 0) else if a < b 0 + b 1 + b 2 then (2, a - b 0 - b 1) else (3, a - b 0 - b 1 - b 2)

/-- Brush judges one codeword: a correctable one is written back corrected (R345), unless port A accesses its Exchange
Bank word in the same cycle (R338). -/
def State.brushByte (s : State) (mem : Nat) (a : Nat) : State :=
  let (q, o) := if mem = 2 then s.mapPlace a else (0, a)
  match judge ((s.cmem mem q).code o) with
  | .good => s
  | .corr f =>
    let s1 := s.countCe (fin 9 mem) a
    if mem = 1 && s.sram.lastA.cycle == some s.bankCycle && s.sram.lastA.word == a / 4 then s1
    else s1.putCmem mem q ((s1.cmem mem q).setCode o f)
  | .bad => s.countUe (fin 9 mem) a

/-- A lap of a memory ends and the next begins (R347, R348). -/
def Brush.lapEnd (b : Brush) (now : Nat) : Brush :=
  let us := sat 32 ((now - b.lapTick) / 4000)
  { b with laps := sat 32 (b.laps + 1), stalledLaps := if b.lapStalled then sat 32 (b.stalledLaps + 1) else b.stalledLaps, lastLapUs := us, maxLapUs := max b.maxLapUs us, pos := 0, lapTick := now, lapStalled := false }

/-- A wait of 1 ms or more is in progress (R347). -/
def Brush.waits (b : Brush) (now : Nat) : Bool := b.initDone && decide (b.lastOpp + msT 1 ≤ now)

/-- Brush uses an opportunity: a wait in progress ends, and has stalled the lap if it took 1 ms (R347). -/
def State.brushOpp (s : State) (m : Fin 9) : State :=
  s.modBrush m (fun b => { b with lastOpp := s.tick, stalling := false, lapStalled := b.lapStalled || b.waits s.tick })

/-- One Brush access to an on-die SRAM (R345). -/
def State.brushSram (s : State) (m : Fin 9) : State :=
  let pos := s.brush[m].pos
  let n := brushStep m.val
  let s1 := (List.range n).foldl (fun t i => t.brushByte m.val (pos + i)) (s.brushOpp m)
  s1.modBrush m (fun b => if brushSize m.val ≤ pos + n then b.lapEnd s.tick else { b with pos := pos + n })

/-- Accesses of the supervisor partition in a Pattern Store lap: 512 MiB of 1,024 bytes (R346). -/
def supAccesses : Nat := 524288

/-- The next access of a Pattern Store lap at or after `pos`: supervisor partition, then written blocks, four accesses
each; none when the lap is done (R346). -/
def Store.brushNext (t : Store) (pos : Nat) : Option Nat :=
  if pos < supAccesses then some pos
  else (t.written.find? (fun b => decide (pos < supAccesses + 4 * b + 4))).map (fun b => max pos (supAccesses + 4 * b))

/-- Line addresses of the correctable words among errors. -/
def ceLines (l : List MemErr) : List Nat := ((l.filter (fun e => !e.uncorrectable)).map (fun e => e.addr / 64 * 64)).eraseDups

/-- Brush reads one access of the supervisor partition: the errors found join those kept, and all are counted (R76, R346). -/
def State.brushSup (s : State) (a : Nat) (errs : List MemErr) : State :=
  let t := s.modStore (fun x => { x with supErrs := (errsIn a 1024 errs).foldl errAdd x.supErrs })
  let met := errsIn a 1024 t.store.supErrs
  (t.storeErrs 0 met).modStore (fun x => { x with brushBack := (ceLines met).map (fun l => 2 ^ 42 + l) })

/-- Brush reads one access of a written block of the pattern window (R76, R346). -/
def State.brushPat (s : State) (a : Nat) (errs : List MemErr) : State :=
  let t := s.upset a 1024 errs
  (t.meetErrs a 1024).modStore (fun x => { x with brushBack := ceLines (errsIn a 1024 t.store.errs) })

/-- Brush writes back the lines that it corrected: single errors in them are gone (R346). -/
def Store.writeBack (t : Store) : Store :=
  let gone (o : Nat) (e : MemErr) : Bool := !e.uncorrectable && t.brushBack.contains (o + e.addr / 64 * 64)
  { t with errs := t.errs.filter (fun e => !gone 0 e), supErrs := t.supErrs.filter (fun e => !gone (2 ^ 42) e), brushBack := [] }

/-- One Brush access to the Pattern Store in an idle slot: the corrected lines of the access before go back, or the next sixteen
lines are read; `errs` are errors that have arisen in them (R345, R346). -/
def State.brushStore (s : State) (errs : List MemErr) : State :=
  let s1 := s.brushOpp 8
  if !s.store.brushBack.isEmpty then s1.modStore Store.writeBack
  else match s.store.brushNext s.brush[(8 : Fin 9)].pos with
  | none => s1.modBrush 8 (fun b => b.lapEnd s.tick)
  | some p =>
    let s2 := (if p < supAccesses then s1.brushSup (1024 * p) errs else s1.brushPat (1024 * (p - supAccesses)) errs).modBrush 8 (fun b => { b with pos := p + 1 })
    if (s.store.brushNext (p + 1)).isNone then s2.modBrush 8 (fun b => b.lapEnd s.tick) else s2

/-- Brush has used its slot of this Bar (R345). -/
def State.brushUsedBar (s : State) : Bool := decide (s.brush[(8 : Fin 9)].lastOpp / 256 = s.tick / 256) && decide (s.brush[(8 : Fin 9)].lastOpp ≠ 0)

/-- BRUSH_SCRUB: Brush uses an idle opportunity of a memory (R345). -/
def execBrushScrub (m : Fin 9) (errs : List MemErr) (s : State) : Out :=
  let b := s.brush[m]
  if !b.initDone then .next s
  else if m = 8 then
    if s.idleSlot && s.slotFree && s.store.reads.isEmpty && !s.brushUsedBar then .next (s.useSlot.brushStore errs) else .next s
  else if b.lastOpp + brushPace m.val ≤ s.tick ∧ !(m == 1 && s.sram.lastB.cycle == some s.bankCycle) then .next (s.brushSram m)
  else .next s

/-- BRUSH_STALL: 1 ms has passed without an idle opportunity (R347). -/
def execBrushStall (m : Fin 9) (s : State) : Out :=
  let b := s.brush[m]
  if b.waits s.tick && !b.stalling then
    .next (s.modBrush m (fun b => { b with stalling := true, lapStalled := true }))
  else .next s

/-- IDLE_SLOT: an idle slot serves a best-effort host read, or else Brush (R22). -/
def execIdleSlot (errs : List MemErr) (s : State) : Out :=
  if s.idleSlot && s.slotFree then
    match s.store.reads with
    | r :: _ => .next ((s.useSlot.readAccess r errs).settleStore)
    | [] => if s.brushUsedBar || !s.brush[(8 : Fin 9)].initDone then .next s.useSlot else .next (s.useSlot.brushStore errs)
  else .next s

/-- One BRUSH_STATUS entry (R348). -/
def Brush.entry (b : Brush) (m now : Nat) : List Byte :=
  words [b2n (b.stalling || b.waits now) * 512 + b2n (b.initDone || m == 8) * 256 + m, b.laps, b.stalledLaps, b.lastLapUs, b.maxLapUs, b.ce, b.ue, b.lastType] ++ le 8 b.lastAddr ++ le 8 b.lastTick

/-- Counters of the Brush log after CLEAR (R348). -/
def Brush.cleared (b : Brush) : Brush := { b with laps := 0, stalledLaps := 0, lastLapUs := 0, maxLapUs := 0, ce := 0, ue := 0, lastType := 0, lastAddr := 0, lastTick := 0 }

/-- BRUSH_STATUS after intake (R348). -/
def brushStatusBody (h : Hdr) (p : Pkt) (s : State) : State :=
  s.unlessFail h (firstFail [lenFail p 0, failIf (p.b0 0 && h.context != 15) 0x041 0xA004]) (fun s =>
    let pay := (List.finRange 9).flatMap (fun m => (s.brush[m]).entry m.val s.tick)
    (if p.b0 0 then { s with brush := vmap s.brush (fun _ b => b.cleared) } else s).reply h 0 0 0 pay)

/-- BRUSH_STATUS is taken. -/
def takeBrushStatus (c : Fin 8) (p : Pkt) (s : State) : State := s.deliver c 0xA03 p noFail noFail brushStatusBody
/-- BRUSH_STATUS. -/
def execBrushStatus (c : Fin 8) (p : Pkt) (s : State) : Out := hostCmd s c 0xA03 p (takeBrushStatus c)

end Sys2Proof.Machine
end

