-- ==== Sys2Proof/Machine/Alarm.lean ====
section
/-! DEFINITION. Alarms and time capture: ALARM_SET, the firing of an alarm, and the entry that a capture unit writes (R173 to R175). -/

namespace Sys2Proof.Machine

open Sys2Proof

/-- The unit that ALARM_SET names. -/
def alarmUnit (p : Pkt) : Fin 8 := fin 8 (p.a0 2 0)

/-- Status of an alarm (R173). -/
def Alarm.bytes (a : Alarm) (n : Fin 8) : List Byte :=
  words [b2n a.late * 128 + b2n a.enabled * 64 + n.val, 0] ++ le 8 a.due ++ le 8 a.count ++ words [a.lost, 0]

/-- Status of a capture unit (R173). -/
def TimeCap.bytes (m : TimeCap) (n : Fin 8) : List Byte :=
  words [b2n m.enabled * 64 + 8 + n.val, 0] ++ le 8 m.next ++ le 8 m.count ++ words [m.lost, 0]

/-- The status that the packet's unit has (R173). -/
def State.unitBytes (s : State) (p : Pkt) : List Byte :=
  if p.b0 12 then (s.mcs[alarmUnit p]).bytes (alarmUnit p) else (s.alarms[alarmUnit p]).bytes (alarmUnit p)

/-- Another context owns the unit (R173). -/
def alarmOwns (h : Hdr) (p : Pkt) (s : State) : Option Fail :=
  failIf (takenFrom (if p.b0 12 then s.mcs[alarmUnit p].owner else s.alarms[alarmUnit p].owner) h) 0x040 0x4005

/-- The buffer of a capture unit lies within the Exchange Bank (R173). [DEDUCED, log 157] -/
def bufOk (p : Pkt) : Bool := decide (p.a2 3 0 ≤ 10) && decide (p.a1 15 0 + 2 ^ p.a2 3 0 * 16 ≤ 65536)

/-- An alarm is written (R173). -/
def Alarm.write (a : Alarm) (o : Owner) (p : Pkt) : Alarm :=
  { a with owner := o, enabled := p.b0 13, due := p.arg1.toNat + 2 ^ 32 * p.arg2.toNat, interval := p.arg3.toNat }

/-- A capture unit is written; enabling it starts its buffer and entry numbers anew (R173, R175). [DEDUCED, log 97] -/
def TimeCap.write (m : TimeCap) (o : Owner) (p : Pkt) : TimeCap :=
  let y := { m with owner := o, enabled := p.b0 13, buf := p.a1 15 0, sizeLog2 := p.a2 3 0 }
  if p.b0 13 then { y with next := 0, eseq := 1 } else y

/-- An alarm fires at a tick: one occurrence, the next due tick after it, and the occurrences skipped counted (R174). -/
def Alarm.fired (a : Alarm) (tick : Nat) : Alarm :=
  let b := { a with late := decide (a.due < tick), count := cut 64 (a.count + 1) }
  if a.interval = 0 then { b with enabled := false }
  else
    let k := (tick - a.due) / a.interval + 1
    { b with due := a.due + k * a.interval, lost := sat 32 (a.lost + (k - 1)) }

/-- An enabled alarm whose due tick has come raises its tap (R174). -/
def State.fireAlarm (s : State) (n : Fin 8) : State :=
  let a := s.alarms[n]
  if a.enabled && decide (a.due ≤ s.tick) then (s.modAlarm n (fun x => x.fired s.tick)).raise (0x40 + n.val) s.nowTick 0 none none else s

/-- ALARM_FIRE (R174). -/
def execAlarmFire (n : Fin 8) (s : State) : Out := .next (s.fireAlarm n)


/-- ALARM_SET after intake: a firing due by now belongs to the old setting, and an alarm written with a due tick that has come
fires at once (R173 to R175). [DEDUCED, log 97] -/
def alarmBody (h : Hdr) (p : Pkt) (s : State) : State :=
  let n := alarmUnit p
  let form := failIf (!p.b0 15 && !p.b0 14 && p.b0 12 && !bufOk p) 0x030 0x4004
  s.unlessFail h (firstFail [lenFail p 0, form]) (fun s =>
    let s0 := if p.b0 15 || p.b0 12 then s else s.fireAlarm n
    let s1 :=
      if p.b0 15 then s
      else if p.b0 14 then (if p.b0 12 then s.modMc n TimeCap.released else s0.modAlarm n Alarm.released)
      else if p.b0 12 then
        let t := s.modMc n (fun m => m.write h.who p)
        if p.b0 13 then t.plainBytes 1 0 (p.a1 15 0) (zeros (2 ^ p.a2 3 0 * 16)) else t
      else (s0.modAlarm n (fun a => a.write h.who p)).fireAlarm n
    s1.reply h 0 0 0 (s1.unitBytes p))

/-- ALARM_SET is taken. -/
def takeAlarm (c : Fin 8) (p : Pkt) (s : State) : State := s.deliver c 0x404 p alarmOwns noFail alarmBody
/-- ALARM_SET without QUERY or RELEASE. -/
def execAlarmSet (c : Fin 8) (p : Pkt) (s : State) : Out := hostCmd s c 0x404 (p.withA0 15 14 0) (takeAlarm c)
/-- ALARM_SET with QUERY. -/
def execAlarmQuery (c : Fin 8) (p : Pkt) (s : State) : Out := hostCmd s c 0x404 (p.withA0 15 15 1) (takeAlarm c)
/-- ALARM_SET with RELEASE. -/
def execAlarmRelease (c : Fin 8) (p : Pkt) (s : State) : Out := hostCmd s c 0x404 (p.withA0 15 14 1) (takeAlarm c)

/-! ### Time capture (R175) -/

/-- One word of a capture entry, written through port B. -/
def State.entryWord (s : State) (a v : Nat) : State := s.portBUnit (a / 4) (fun t => t.plainBytes 1 0 a (le 4 v))

/-- A capture unit accepts a tap: it writes the entry at NEXT, word +0x0C last, and advances (R175). -/
def State.mcAccept (s : State) (n : Fin 8) (ts : Ts) (ch : Fin 64) : State :=
  let m := s.mcs[n]
  let a := m.buf + m.next * 16
  let v := ts.val
  let lat := min 1023 (s.tick - ts.tick)
  let s1 := ((s.entryWord a (cut 32 v)).entryWord (a + 4) (cut 32 (v / 2 ^ 32))).entryWord (a + 8) (lat * 2 ^ 22 + ch.val * 2 ^ 16 + cut 16 (v / 2 ^ 64))
  (s1.entryWord (a + 12) m.eseq).modMc n (fun x => { x with next := (x.next + 1) % 2 ^ x.sizeLog2, count := cut 64 (x.count + 1), eseq := nextSeq x.eseq })

end Sys2Proof.Machine
end

