-- ==== Sys2Proof/Machine/Tables.lean ====
section
/-! DEFINITION. Table writes of sequencers and groups: their form checks and the configuration that they leave
(SEQ_CONFIG, TSET_WRITE, PERIOD_SET, DESKEW_WRITE, FORMAT_SET, LOAD_SET, REFLEX_SET). -/

namespace Sys2Proof.Machine

open Sys2Proof

/-- Sequencer `q` of the configuration changed. -/
def Cfg.modSeq (k : Cfg) (q : Fin 4) (f : SeqCfg → SeqCfg) : Cfg := { k with seqs := vmod k.seqs q f }
/-- Group `g` of the configuration changed. -/
def Cfg.modGrp (k : Cfg) (g : Fin 8) (f : GrpCfg → GrpCfg) : Cfg := { k with grps := vmod k.grps g f }
/-- The pin entries of group `g` that a mask selects changed. -/
def Cfg.modPins (k : Cfg) (g : Fin 8) (mask : Nat) (f : Fin 16 → PinCfg → PinCfg) : Cfg :=
  k.modGrp g (fun x => { x with pins := vmap x.pins (fun e p => if mask.testBit e.val then f e p else p) })
/-- Engine `e` of the configuration changed. -/
def Cfg.modCap (k : Cfg) (e : Fin 8) (f : CapCfg → CapCfg) : Cfg := { k with caps := vmod k.caps e f }

/-- GROUP field, ARG0 bits 10:8, of the group table commands. -/
def pktGroup (p : Pkt) : Fin 8 := fin 8 (bits p.arg0.toNat 10 8)
/-- SEQ field, ARG0 bits 1:0. -/
def pktSeq (p : Pkt) : Fin 4 := fin 4 (bits p.arg0.toNat 1 0)
/-- PIN_MASK, ARG1 bits 15:0. -/
def pktMask (p : Pkt) : Nat := bits p.arg1.toNat 15 0

/-! ### SEQ_CONFIG (R112) -/

/-- Form of SEQ_CONFIG: the role mask is there exactly with the compact code (R112). [DEDUCED, log 154] -/
def seqConfigForm (p : Pkt) : Option Fail :=
  failIf (p.units != (if p.b0 8 then 2 else 0)) 0x030 0x3003

/-- SEQ_CONFIG as committed. -/
def Cfg.seqConfig (k : Cfg) (p : Pkt) : Cfg :=
  k.modSeq (pktSeq p) (fun x => { x with beatsLog2 := p.a0 5 4, compact := p.b0 8, global := p.b0 9, haltMode := if p.isE then p.a0 15 14 else 0, roles := if p.b0 8 then rd p.body 0 16 else x.roles })

/-! ### PERIOD_SET (R156, R157) -/

/-- The period, fine LSB, of entry `i` in the payload. -/
def periodOf (p : Pkt) (i : Nat) : Nat := (fsToFine (rd p.body (8 * i) 8)).toNat

/-- Form of PERIOD_SET (R157). -/
def periodForm (p : Pkt) : Option Fail :=
  firstFail [lenFail p 4, failIf ((setBits 4 (p.a0 7 4)).any (fun i =>
    rd p.body (8 * i) 8 != 0 && !(2048 ≤ periodOf p i && periodOf p i ≤ 134217728))) 0x030 0x4001]

/-- PERIOD_SET as committed. -/
def Cfg.periodSet (k : Cfg) (p : Pkt) : Cfg :=
  k.modSeq (pktSeq p) (fun x => { x with pf := vmap x.pf (fun i t => if (p.a0 7 4).testBit i.val then periodOf p i.val else t) })

/-! ### TSET_WRITE (R160 to R162) -/

/-- NONE as a time word. -/
def noTime : Word := 0xFFFFFFFF

/-- A time word that is a time (R161). -/
def timeOf (w : Word) : Option Nat := if w = noTime then none else some w.toNat

/-- Words that the layout of a set marks Zero, or that lie past its defined beats (R161). -/
def zeroWord (kind nb i : Nat) : Bool :=
  if kind = 1 then decide (6 ≤ i)
  else if kind = 2 then (i < 8 && 2 ^ nb ≤ i) || (8 ≤ i && i < 16 && 2 ^ nb ≤ i - 8) || 18 ≤ i
  else false

/-- A pin entry has the form of R161. -/
def pinWordsOk (kind nb : Nat) (v : Vector Word 20) : Bool :=
  (List.finRange 20).all (fun i => v[i] == noTime || (if zeroWord kind nb i.val then v[i] == 0 else v[i].toNat < 2 ^ 27))

/-- KIND and NB_LOG2 of a set header go together (R160). -/
def headOk (w : Nat) : Bool :=
  let kind := bits w 1 0
  let nb := bits w 9 8
  (w &&& 0x3F3 == w) && kind != 3 && (if kind = 1 then nb == 0 else if kind = 2 then nb != 0 else true)

/-- The 20 words of a pin entry at a byte offset. -/
def words20 (bs : List Byte) (off : Nat) : Vector Word 20 :=
  vmap (Vector.replicate 20 0) (fun i _ => BitVec.ofNat 32 (rd bs (off + 4 * i.val) 4))

/-- A set image of the expert form (R162). -/
def setImage (bs : List Byte) : TSet :=
  { kind := bits (rd bs 0 4) 1 0, pfMask := bits (rd bs 0 4) 7 4, nbLog2 := bits (rd bs 0 4) 9 8, pins := vmap (Vector.replicate 16 (Vector.replicate 20 noTime)) (fun e _ => words20 bs (16 + 80 * e.val)) }

/-- A set image has the form of R160 and R161. -/
def setImageOk (bs : List Byte) : Bool :=
  let t := setImage bs
  headOk (rd bs 0 4) && ((bs.drop 4).take 12).all (· == 0) && t.pins.toList.all (pinWordsOk t.kind t.nbLog2)

/-- Common time `i` of the basic form as a time word; none if it does not fit (R161 to R163). -/
def commonTime (bs : List Byte) (i : Nat) : Option Word :=
  let f := rd bs (16 + 8 * i) 8
  if f = 2 ^ 64 - 1 then some noTime
  else if (fsToFine f).toNat < 2 ^ 27 then some (BitVec.ofNat 32 (fsToFine f).toNat) else none

/-- The pin entry that the basic form writes. -/
def commonEntry (bs : List Byte) : Vector Word 20 :=
  vmap (Vector.replicate 20 noTime) (fun i _ => if i.val < 18 then (commonTime bs i.val).getD noTime else noTime)

/-- The basic payload has the form of R162. -/
def basicSetOk (bs : List Byte) : Bool :=
  headOk (rd bs 0 4) && rd bs 6 2 == 0 && rd bs 8 8 == 0 && (List.range 18).all (fun i => (commonTime bs i).isSome) &&
    pinWordsOk (bits (rd bs 0 4) 1 0) (bits (rd bs 0 4) 9 8) (commonEntry bs)

/-- Form of TSET_WRITE (R162). [DEDUCED, log 13] -/
def tsetForm (p : Pkt) : Option Fail :=
  if p.isE then
    let n := p.a1 6 0
    failIf (n = 0 || decide (64 < n) || p.units != 162 * n || !(chunks 1296 p.body).all setImageOk) 0x030 0x4002
  else failIf (p.units != 20 || !basicSetOk p.body) 0x030 0x4002

/-- TSET_WRITE as committed. -/
def Cfg.tsetWrite (k : Cfg) (p : Pkt) : Cfg :=
  k.modGrp (pktGroup p) (fun x =>
    if p.isE then
      { x with sets := (chunks 1296 p.body).zipIdx.foldl (fun v (b, i) => vmod v (fin 64 (p.a0 5 0 + i)) (fun _ => setImage b)) x.sets }
    else
      let w := rd p.body 0 4
      let e := commonEntry p.body
      { x with sets := vmod x.sets (fin 64 (p.a0 5 0)) (fun t => { kind := bits w 1 0, pfMask := bits w 7 4, nbLog2 := bits w 9 8, pins := vmap t.pins (fun i old => if (rd p.body 4 2).testBit i.val then e else old) }) })

/-! ### DESKEW_WRITE (R169) -/

/-- A signed 64-bit value of the payload, converted in the basic form (R163, R169). -/
def dskVal (p : Pkt) (off : Nat) : Int :=
  let v := sext 64 (rd p.body off 8)
  if p.isE then v else fsToFine v

/-- Form of DESKEW_WRITE (R169). -/
def deskewForm (p : Pkt) : Option Fail :=
  let ok (v : Int) : Bool := decide (-8192 ≤ v) && decide (v ≤ 8191)
  firstFail [lenFail p 32, failIf (!(List.range 16).all (fun e => ok (dskVal p (16 * e)) && ok (dskVal p (16 * e + 8)))) 0x030 0x4003]

/-- DESKEW_WRITE as committed. -/
def Cfg.deskewWrite (k : Cfg) (p : Pkt) : Cfg :=
  (k.modGrp (pktGroup p) (fun x => { x with plane := p.a0 0 0 })).modPins (pktGroup p) (pktMask p)
    (fun e x => { x with dskD := dskVal p (16 * e.val), dskS := dskVal p (16 * e.val + 8) })

/-! ### FORMAT_SET, LOAD_SET, REFLEX_SET (R186, R187, R192) -/

/-- Form of FORMAT_SET (R186). -/
def formatForm (p : Pkt) : Option Fail :=
  let w (e : Nat) : Nat := rd p.body (8 * e) 4
  firstFail [lenFail p 16, failIf ((List.range 16).any (fun e => decide (4 < bits (w e) 2 0) || (!p.isE && bits (w e) 9 8 != 0))) 0x030 0x5001]

/-- FORMAT_SET as committed; AUTO is resolved by the commit. -/
def Cfg.formatSet (k : Cfg) (p : Pkt) : Cfg :=
  k.modPins (pktGroup p) (pktMask p) (fun e x =>
    let w := rd p.body (8 * e.val) 4
    { x with format := bits w 2 0, offTerm := bit w 5, edgeRate := bits w 9 8 })

/-- Form of LOAD_SET (R187). -/
def loadForm (p : Pkt) : Option Fail :=
  let v (e i : Nat) : Nat := rd p.body (16 * e + 4 * i) 4
  let bad (e : Nat) : Bool := v e 0 == 3 || decide (24000 < v e 1) || decide (24000 < v e 2) || decide (sext 32 (v e 3) < -1500000) || decide (6000000 < sext 32 (v e 3))
  firstFail [lenFail p 32, failIf ((List.range 16).any bad) 0x030 0x5003]

/-- A voltage in µV as a code of 125 µV (R187). -/
def uvCode (v : Int) : Int := (8 * v + 500) / 1000
/-- A current in µA as a code of 6 µA (R187). -/
def uaCode (i : Nat) : Nat := (i + 3) / 6

/-- LOAD_SET as committed. -/
def Cfg.loadSet (k : Cfg) (p : Pkt) : Cfg :=
  k.modPins (pktGroup p) (pktMask p) (fun e x =>
    let v (i : Nat) : Nat := rd p.body (16 * e.val + 4 * i) 4
    { x with loadMode := v 0 % 4, iol := uaCode (v 1), ioh := uaCode (v 2), vcom := uvCode (sext 32 (v 3)) })

/-- The STAGED payload of LOAD_SET: the values after rounding (R187). -/
def loadEcho (p : Pkt) : List Byte :=
  (List.range 16).flatMap (fun e =>
    let v (i : Nat) : Nat := rd p.body (16 * e + 4 * i) 4
    words [v 0 % 4, uaCode (v 1) * 6, uaCode (v 2) * 6] ++ leI 4 (uvCode (sext 32 (v 3)) * 125))

/-- Form of REFLEX_SET without QUERY (R192). -/
def reflexForm (p : Pkt) : Option Fail :=
  let w (e : Nat) : Nat := rd p.body (8 * e) 4
  let bad (e : Nat) : Bool := (pktMask p).testBit e && (bits (w e) 8 7 == 3 || (if p.isE then decide (bits (w e) 31 16 < 10) || decide (400 < bits (w e) 31 16) else bits (w e) 31 16 != 0))
  firstFail [lenFail p 16, failIf ((List.range 16).any bad) 0x030 0x5002]

/-- REFLEX_SET as committed. -/
def Cfg.reflexSet (k : Cfg) (p : Pkt) : Cfg :=
  k.modPins (pktGroup p) (pktMask p) (fun e x =>
    let w := rd p.body (8 * e.val) 4
    { x with reflex := { enable := bit w 0, action := bits w 3 2, once := bit w 6, srcEdge := bits w 8 7, srcComp := bits w 9 9, srcPin := bits w 15 12, rearm := if p.isE then bits w 31 16 else 10 } })

/-! ### What a pin needs of a set -/

/-- The words of a pin entry that the set's KIND uses (R161). -/
def usedWords (t : TSet) (v : Vector Word 20) : List Word :=
  if t.kind = 1 then (List.range 6).map (fun i => v[fin 20 i])
  else if t.kind = 2 then ((List.range (2 ^ t.nbLog2)).flatMap (fun j => [v[fin 20 j], v[fin 20 (8 + j)]])) ++ [v[fin 20 16], v[fin 20 17]]
  else []

/-- A pin's entry is used in a set: some word that the KIND uses is a time (R161). -/
def TSet.uses (t : TSet) (e : Fin 16) : Bool := (usedWords t t.pins[e]).any (fun w => w != noTime)

/-- Word `i` of a pin entry as a time. -/
def TSet.tm (t : TSet) (e : Fin 16) (i : Nat) : Option Nat := timeOf (t.pins[e])[fin 20 i]

/-- Beats that a set defines. -/
def TSet.beats (t : TSet) : Nat := if t.kind = 2 then 2 ^ t.nbLog2 else 1

/-- A list of numbers strictly increases. -/
def rising : List Nat → Bool
  | a :: b :: l => decide (a < b) && rising (b :: l)
  | _ => true

/-- Successive numbers are at least `s` apart. -/
def spaced (s : Nat) : List Nat → Bool
  | a :: b :: l => decide (a + s ≤ b) && spaced s (b :: l)
  | _ => true

/-- Presence (R164): the edges that the KIND and the pin's format need are times (R181). -/
def TSet.presence (t : TSet) (e : Fin 16) (format : Nat) : Bool :=
  if t.kind = 1 then
    (t.tm e 1).isSome && (t.tm e 4).isSome && (if 2 ≤ format then (t.tm e 2).isSome else true) && (if format = 4 then (t.tm e 0).isSome else true)
  else
    (List.range t.beats).all (fun j => (t.tm e j).isSome && (t.tm e (8 + j)).isSome) && (if format = 2 ∨ format = 3 then (t.tm e 16).isSome else true)

/-- Range (R164): every time and end is less than the period. -/
def TSet.inRange (t : TSet) (e : Fin 16) (T : Nat) : Bool :=
  let lt (o : Option Nat) : Bool := match o with | none => true | some x => decide (x < T)
  let lt2 (a b : Option Nat) : Bool := match a, b with | some x, some y => decide (x + y < T) | _, _ => true
  if t.kind = 1 then (List.range 6).all (fun i => lt (t.tm e i))
  else (List.range t.beats).all (fun j => lt (t.tm e j) && lt (t.tm e (8 + j)) && lt2 (t.tm e j) (t.tm e 16) && lt2 (t.tm e (8 + j)) (t.tm e 17))

/-- Drive times of a ONE_BEAT entry in their order, NONE left out. -/
def TSet.drives (t : TSet) (e : Fin 16) : List Nat := [t.tm e 0, t.tm e 1, t.tm e 2, t.tm e 3].filterMap id

/-- Order (R164). -/
def TSet.ordered (t : TSet) (e : Fin 16) : Bool :=
  if t.kind = 1 then
    rising (t.drives e) && (match t.tm e 4, t.tm e 5 with | some a, some b => decide (a < b) | _, _ => true)
  else
    rising ((List.range t.beats).filterMap (fun j => t.tm e j)) && rising ((List.range t.beats).filterMap (fun j => t.tm e (8 + j)))

/-- Spacing (R164). -/
def TSet.spacing (t : TSet) (e : Fin 16) : Bool :=
  if t.kind = 1 then
    spaced minSpace (t.drives e) && (match t.tm e 4, t.tm e 5 with | some a, some b => decide (a + minSpace ≤ b) | _, _ => true)
  else
    let ds := (List.range t.beats).filterMap (fun j => t.tm e j)
    let ss := (List.range t.beats).filterMap (fun j => t.tm e (8 + j))
    let rw := (t.tm e 16).getD 0
    let win := match t.tm e 17 with | none => true | some w => decide (minSpace ≤ w) && spaced w ss
    spaced (minSpace + rw) ds && win

end Sys2Proof.Machine
end

