-- ==== Sys2Proof/Machine/Checks.lean ====
section
/-! DEFINITION. Commit checks of timing sets, offsets, formats, rates, loads and reflex units (R164, R171, R190), over the
groups in scope, in the order of R62; GROUP_ASSIGN uses the part that depends on the sequencer (R102). -/

namespace Sys2Proof.Machine

open Sys2Proof

/-- A failed check: its subcode and DETAIL. -/
abbrev CheckFail := Nat × Nat

/-- The first failure over a list of items. -/
def firstOf {α : Type} (l : List α) (f : α → Option CheckFail) : Option CheckFail := l.findSome? f

/-- DETAIL in the layout of R164. -/
def detail164 (g : Fin 8) (set pin pf : Nat) : Nat := g.val * 2 ^ 13 + set * 2 ^ 7 + pin * 2 ^ 3 + pf

/-- A group in scope with its sequencer's period file and roles, if it has one. -/
abbrev GItem := Fin 8 × Option (Fin 4)

/-- Sets of a group with a KIND, by number. -/
def GrpCfg.kinds (x : GrpCfg) : List (Nat × TSet) :=
  (x.sets.toList.zipIdx.filter (fun t => t.1.kind != 0)).map (fun t => (t.2, t.1))

/-- Period-file entries that a set is assigned to. -/
def TSet.entries (t : TSet) : List (Fin 4) := (List.finRange 4).filter (fun k => t.pfMask.testBit k.val)

/-- Pins of a group whose entry a set uses. -/
def TSet.pinsUsed (t : TSet) : List (Fin 16) := (List.finRange 16).filter (fun e => t.uses e)

/-- Fails with subcode and item unless the condition holds. -/
def must (ok : Bool) (sub : Nat) (g : Fin 8) (set pin pf : Nat) : Option CheckFail :=
  if ok then none else some (sub, detail164 g set pin pf)

/-- Assignment (R164), the part that involves no period file. -/
def chkMask (k : Cfg) (i : GItem) : Option CheckFail :=
  firstOf (k.grps[i.1]).kinds (fun (n, t) => must (t.pfMask != 0) 0x4010 i.1 n 0 0)

/-- Assignment (R164), the assigned entries. -/
def chkEntries (k : Cfg) (i : GItem) : Option CheckFail :=
  match i.2 with
  | none => none
  | some q => firstOf (k.grps[i.1]).kinds (fun (n, t) =>
      firstOf t.entries (fun e => must ((k.seqs[q]).pf[e] != 0) 0x4010 i.1 n 0 e.val))

/-- Assignment (R164): both parts, set by set. -/
def chkAssign (k : Cfg) (i : GItem) : Option CheckFail :=
  firstOf (k.grps[i.1]).kinds (fun (n, t) =>
    match must (t.pfMask != 0) 0x4010 i.1 n 0 0 with
    | some f => some f
    | none => match i.2 with
      | none => none
      | some q => firstOf t.entries (fun e => must ((k.seqs[q]).pf[e] != 0) 0x4010 i.1 n 0 e.val))

/-- The lowest period-file entry that a set is assigned to: the first item on which a check that no period changes fails. [DEDUCED, log 41] -/
def TSet.firstEntry (t : TSet) : Nat := ((t.entries.map (fun e => e.val)).head?).getD 0

/-- A check of every used pin entry of every set, the same on every assigned period. [DEDUCED, log 41] -/
def chkPins (k : Cfg) (i : GItem) (sub : Nat) (ok : TSet → Fin 16 → Bool) : Option CheckFail :=
  firstOf (k.grps[i.1]).kinds (fun (n, t) => firstOf t.pinsUsed (fun e => must (ok t e) sub i.1 n e.val t.firstEntry))

/-- A check of every used pin entry of every set on every assigned period. -/
def chkPeriods (k : Cfg) (i : GItem) (sub : Nat) (ok : TSet → Fin 16 → Nat → Bool) : Option CheckFail :=
  match i.2 with
  | none => none
  | some q => firstOf (k.grps[i.1]).kinds (fun (n, t) => firstOf t.pinsUsed (fun e =>
      firstOf t.entries (fun f => must (ok t e (k.seqs[q]).pf[f]) sub i.1 n e.val f.val)))

/-- Presence, Range, Order and Spacing of R164. -/
def chkPresence (k : Cfg) (i : GItem) : Option CheckFail := chkPins k i 0x4011 (fun t e => t.presence e ((k.grps[i.1]).pins[e]).format)
/-- Range of R164. -/
def chkRange (k : Cfg) (i : GItem) : Option CheckFail := chkPeriods k i 0x4012 (fun t e T => t.inRange e T)
/-- Order of R164. -/
def chkOrder (k : Cfg) (i : GItem) : Option CheckFail := chkPins k i 0x4013 (fun t e => t.ordered e)
/-- Spacing of R164. -/
def chkSpacing (k : Cfg) (i : GItem) : Option CheckFail := chkPins k i 0x4014 (fun t e => t.spacing e)

/-- The fixture term of a pin in force, or its FIX_TABLE, given the accepted reflection values (R170). -/
def fixOf (refl : Fin 128 → Option Nat) (k : Cfg) (p : Fin 128) : Nat :=
  let g := k.grps[grpOf p]
  let c := g.pins[entOf p]
  if g.plane = 0 then 0 else if c.fixReflect then (refl p).getD 0 else c.fixTable

/-- Drive offset O_D (R166). -/
def offD (refl : Fin 128 → Option Nat) (k : Cfg) (p : Fin 128) : Int := ((k.grps[grpOf p]).pins[entOf p]).dskD - fixOf refl k p
/-- Strobe offset O_S (R166). -/
def offS (refl : Fin 128 → Option Nat) (k : Cfg) (p : Fin 128) : Int := ((k.grps[grpOf p]).pins[entOf p]).dskS + fixOf refl k p

/-- An offset lies in the range of R171. -/
def offOk (v : Int) : Bool := decide (-4096 ≤ v) && decide (v ≤ 12287)

/-- Pin offsets (R171). -/
def chkOffsets (refl : Fin 128 → Option Nat) (k : Cfg) (i : GItem) : Option CheckFail :=
  firstOf (List.finRange 16) (fun e => must (offOk (offD refl k (pinOf i.1 e)) && offOk (offS refl k (pinOf i.1 e))) 0x4016 i.1 0 e.val 0)

/-- Kind of R190: no DNRZ or SBC pin in a group whose table holds a MULTI_BEAT set that uses the pin. [DEDUCED, log 41] -/
def chkKind (k : Cfg) (i : GItem) : Option CheckFail :=
  chkPins k i 0x5010 (fun t e =>
    let f := ((k.grps[i.1]).pins[e]).format
    !(t.kind == 2 && (f == 1 || f == 4)))

/-- Return rate of R190. -/
def chkReturn (k : Cfg) (i : GItem) : Option CheckFail :=
  chkPeriods k i 0x5011 (fun t e T => ((k.grps[i.1]).pins[e]).format < 2 || decide (512 * t.beats ≤ T))

/-- Largest swing, in codes of 125 µV, at a rate of `b` beats in a period `T` (R190). -/
def swingMax (b T : Nat) : Int :=
  if 5120 * b ≤ T then 60000 else if 1024 * b ≤ T then 26400 else if 512 * b ≤ T then 16000 else 9600

/-- Swing of R190. -/
def chkSwing (k : Cfg) (i : GItem) : Option CheckFail :=
  chkPeriods k i 0x5012 (fun t e T =>
    let c := (k.grps[i.1]).pins[e]
    decide (((c.vih - c.vil).natAbs : Int) ≤ swingMax t.beats T))

/-- Edge rate of R190. -/
def chkEdge (k : Cfg) (i : GItem) : Option CheckFail :=
  chkPeriods k i 0x5013 (fun t e T =>
    let r := ((k.grps[i.1]).pins[e]).edgeRate
    if r = 2 then decide (1024 * t.beats ≤ T) else if r = 3 then decide (5120 * t.beats ≤ T) else true)

/-- Pulse of R190. -/
def chkPulse (k : Cfg) (i : GItem) : Option CheckFail :=
  chkPins k i 0x5014 (fun t e =>
    let f := ((k.grps[i.1]).pins[e]).format
    if t.kind = 2 ∧ (f = 2 ∨ f = 3) then decide (minSpace ≤ (t.tm e 16).getD 0) else true)

/-- Load and termination of R190. -/
def chkLoad (k : Cfg) (i : GItem) : Option CheckFail :=
  firstOf (List.finRange 16) (fun e =>
    let c := (k.grps[i.1]).pins[e]
    must (c.loadMode == 0 || !c.offTerm) 0x5015 i.1 0 e.val 0)

/-- Reflex role of R190. -/
def chkReflex (k : Cfg) (i : GItem) : Option CheckFail :=
  match i.2 with
  | none => none
  | some q => firstOf (List.finRange 16) (fun e =>
      let c := (k.grps[i.1]).pins[e]
      must (!((k.seqs[q]).compact && c.reflex.enable && (k.seqs[q]).roles.testBit (pinOf i.1 e).val)) 0x5016 i.1 0 e.val 0)

/-- The checks of R164, in order, each over every group in scope. -/
def checks164 (k : Cfg) (gs : List GItem) : Option CheckFail :=
  firstOf [chkAssign, chkPresence, chkRange, chkOrder, chkSpacing] (fun f => firstOf gs (f k))

/-- The checks of R190, in order, each over every group in scope. -/
def checks190 (k : Cfg) (gs : List GItem) : Option CheckFail :=
  firstOf [chkKind, chkReturn, chkSwing, chkEdge, chkPulse, chkLoad, chkReflex] (fun f => firstOf gs (f k))

/-- The checks that a group takes when it is assigned to a sequencer (R102). -/
def checksAssign (k : Cfg) (gs : List GItem) : Option CheckFail :=
  firstOf [chkEntries, chkRange, chkReturn, chkSwing, chkEdge, chkReflex] (fun f => firstOf gs (f k))

/-- The edge rate in force of a pin whose EDGE_RATE is AUTO: FULL if its fastest rate exceeds 0.4 Gbit/s, else REDUCED (R186). -/
def autoEdge (k : Cfg) (i : GItem) (e : Fin 16) : Nat :=
  let fast := match i.2 with
    | none => false
    | some q => (k.grps[i.1]).kinds.any (fun (_, t) => t.uses e && t.entries.any (fun f =>
        let T := (k.seqs[q]).pf[f]
        T != 0 && decide (T < 5120 * t.beats)))
  if fast then 1 else 2

/-- The edge rates of a group in scope as a commit leaves them (R186). -/
def Cfg.resolveEdges (k : Cfg) (i : GItem) : Cfg :=
  k.modPins i.1 0xFFFF (fun e x => { x with edgeSel := if x.edgeRate = 0 then autoEdge k i e else x.edgeRate })

end Sys2Proof.Machine
end

