-- ==== Sys2Proof/Machine/Flags.lean ====
section
/-! DEFINITION. Comparator states, strobe outcomes, result bytes and the status words of pins (R202 to R205, R225, R228 to
R232). -/

namespace Sys2Proof.Machine

open Sys2Proof

/-! ### Time -/

/-- A time, in fine LSB, has come. [DESIGN CHOICE, log 5] -/
def State.due (s : State) (t : Nat) : Bool := decide (t / 512 ≤ s.tick)

/-- The pin die of a group is outside its Tuning temperature band, as one without a reference temperature is; timestamps show it
(R153, R177, R354). -/
def State.wideOf (s : State) (g : Fin 8) : Bool := (s.tune.refTemp[dieOf g]).isNone || !s.tune.inBand[dieOf g]

/-- A timestamp of a pin of group `g` at a time in fine LSB (R153). -/
def State.tsPin (s : State) (g : Fin 8) (t src : Nat) (clash : Bool) : Ts := { fine := t, flags := s.tsFlags src (s.wideOf g) clash false }

/-! ### Comparators (R202 to R205) -/

/-- The comparators that a code reads: VOH, VOL (R202). -/
def Code.reads : Code → Bool × Bool
  | .eh => (true, false)
  | .el => (false, true)
  | .em => (true, true)
  | .cp => (true, true)
  | _ => (false, false)

/-- A comparator is enabled at a time: its output is invalid from then on (R204). [DEDUCED, log 61] -/
def CompS.enable (k : CompS) (t : Nat) : CompS :=
  { k with prev := if t < k.enabledAt then k.prev else k.out, out := .invalid, enabledAt := t, validAt := 0, off := false }

/-- Both comparators of a pin enabled. -/
def Pin.enableComps (p : Pin) (t : Nat) : Pin := { p with voh := p.voh.enable t, vol := p.vol.enable t }

/-- A comparator's output at a time, from its output after the crossings listed, newest first. -/
def undoTo (voh : Bool) (t : Nat) : List Cross → CompSt → CompSt
  | [], c => c
  | x :: xs, c => if x.t ≤ t then c else undoTo voh t xs (if x.voh == voh then (if x.rising then .low else .high) else c)

/-- A comparator's output at a time (R203, R204). -/
def CompS.stateAt (k : CompS) (voh : Bool) (xs : List Cross) (t : Nat) : CompSt :=
  if k.off then .invalid
  else if t < k.enabledAt then undoTo voh t (xs.filter (fun x => decide (x.t < k.enabledAt))) k.prev
  else if k.out == .invalid || decide (t < k.validAt) then .invalid
  else undoTo voh t xs k.out

/-- A crossing of the comparator falls inside the sampling aperture about a time (R228). [DESIGN CHOICE, log 57] -/
def inAperture (voh : Bool) (xs : List Cross) (t : Nat) : Bool :=
  xs.any (fun x => x.voh == voh && decide (x.t ≤ t + 3) && decide (t ≤ x.t + 3))

/-- The comparator's output as an edge strobe samples it: a free valid state if a crossing falls in the aperture (R228).
The second part counts the free values drawn, from index `f` on. [DESIGN CHOICE, log 57] -/
def CompS.sample (k : CompS) (voh : Bool) (xs : List Cross) (t f : Nat) : CompSt × Nat :=
  let c := k.stateAt voh xs t
  if c != .invalid && inAperture voh xs t then (if Config.freeNat f % 2 = 1 then .high else .low, f + 1) else (c, f)

/-- The comparators stand in the code's pass state (R202). -/
def Code.passes (c : Code) (h l : CompSt) : Bool :=
  match c with
  | .eh => h == .high
  | .el => l == .low
  | .em => l == .high && h == .low
  | _ => true

/-- A comparator that the code reads is invalid. -/
def Code.unsure (c : Code) (h l : CompSt) : Bool := (c.reads.1 && h == .invalid) || (c.reads.2 && l == .invalid)

/-- CLASS of a result: 0 PASS, 1 FAIL, 2 INVALID, 3 NONE (R202, R230). -/
def Code.classOf (c : Code) (h l : CompSt) : Nat :=
  if c = .cp then 3 else if c.unsure h l then 2 else if c.passes h l then 0 else 1

/-- STATE_H or STATE_L of a result: 3 where the comparator is not read (R230). -/
def CompSt.code : CompSt → Nat
  | .low => 0
  | .high => 1
  | .invalid => 2

/-- The result byte (R230). -/
def resultByte (c : Code) (cls : Nat) (masked isMatch : Bool) (h l : CompSt) : Nat :=
  cls * 64 + b2n masked * 32 + b2n isMatch * 16 + (if c.reads.1 then h.code else 3) * 4 + (if c.reads.2 then l.code else 3)

/-- The result is a counted fail (R232). -/
def countedFail (b : Nat) : Bool := (bits b 7 6 == 1 || bits b 7 6 == 2) && !bit b 5 && !bit b 4

/-! ### Strobe outcomes (R228, R229, R231) -/

/-- What a strobe found: class, states, time and SRC of its timestamp, and the next free index. -/
structure Outcome where
  /-- CLASS. -/
  cls : Nat
  /-- VOH comparator. -/
  h : CompSt
  /-- VOL comparator. -/
  l : CompSt
  /-- result time. -/
  t : Nat
  /-- SRC. -/
  src : Nat
  /-- next free index. -/
  free : Nat
  deriving DecidableEq, Repr

/-- An edge strobe (R228). -/
def Pin.edgeStrobe (p : Pin) (e : StrobeEv) (f : Nat) : Outcome :=
  let (h, f1) := if e.code.reads.1 then p.voh.sample true p.crosses e.opens f else (p.voh.stateAt true p.crosses e.opens, f)
  let (l, f2) := if e.code.reads.2 then p.vol.sample false p.crosses e.opens f1 else (p.vol.stateAt false p.crosses e.opens, f1)
  { cls := e.code.classOf h l, h := h, l := l, t := e.opens, src := 1, free := f2 }

/-- Moments inside a window at which a comparator that the code reads changes, the opening first. -/
def Pin.moments (p : Pin) (e : StrobeEv) : List Nat :=
  let inside (t : Nat) : Bool := decide (e.opens < t) && decide (t ≤ e.closes)
  let mine (x : Cross) : Bool := if x.voh then e.code.reads.1 else e.code.reads.2
  let cs := (p.crosses.filter mine).map (fun x => x.t)
  let en := (if e.code.reads.1 then [p.voh.enabledAt, p.voh.validAt] else []) ++ (if e.code.reads.2 then [p.vol.enabledAt, p.vol.validAt] else [])
  e.opens :: sortNat ((cs ++ en).filter inside)

/-- Stretches between successive moments, the last one up to the close. -/
def stretches : List Nat → Nat → List (Nat × Nat)
  | [], _ => []
  | [a], c => [(a, c)]
  | a :: b :: l, c => (a, b) :: stretches (b :: l) c

/-- Excursions: successive stretches out of the pass state taken together. [DEDUCED, log 58] -/
def excursions (bad : Nat → Bool) : List (Nat × Nat) → List (Nat × Nat)
  | [] => []
  | (a, b) :: l =>
    match excursions bad l with
    | [] => if bad a then [(a, b)] else []
    | (c, d) :: r => if bad a then (if b = c then (a, d) :: r else (a, b) :: (c, d) :: r) else (c, d) :: r

/-- The first excursion that is detected: always from 40 ps on, else by a free choice (R229). [DEDUCED, log 58] -/
def firstDetected : List (Nat × Nat) → Nat → Option Nat × Nat
  | [], f => (none, f)
  | (a, b) :: l, f =>
    if 82 ≤ b - a then (some a, f)
    else if Config.freeNat f % 2 = 1 then (some a, f + 1)
    else firstDetected l (f + 1)

/-- A window strobe (R229, R231). [DEDUCED, log 160] -/
def Pin.windowStrobe (p : Pin) (e : StrobeEv) (f : Nat) : Outcome :=
  let hs (t : Nat) : CompSt := p.voh.stateAt true p.crosses t
  let ls (t : Nat) : CompSt := p.vol.stateAt false p.crosses t
  let ms := p.moments e
  match ms.find? (fun t => e.code.unsure (hs t) (ls t)) with
  | some t => { cls := if e.code = .cp then 3 else 2, h := hs t, l := ls t, t := e.closes, src := 1, free := f }
  | none =>
    let ex := excursions (fun t => !e.code.passes (hs t) (ls t)) (stretches ms e.closes)
    match firstDetected ex f with
    | (some t, f1) => { cls := 1, h := hs t, l := ls t, t := t, src := if t = e.opens then 1 else 2, free := f1 }
    | (none, f1) => { cls := if e.code = .cp then 3 else 0, h := hs e.closes, l := ls e.closes, t := e.closes, src := 1, free := f1 }

/-- The outcome of a strobe. -/
def Pin.outcome (p : Pin) (e : StrobeEv) (f : Nat) : Outcome := if e.window then p.windowStrobe e f else p.edgeStrobe e f

/-! ### Pin status (R225) -/

/-- The input of a comparator lies in its band (R205): never without hysteresis, and still if the output is invalid 200 ns
after its enable (R204); else as the free value `f` says. [DESIGN CHOICE, log 59] -/
def CompS.band (k : CompS) (hyst now f : Nat) : Nat :=
  if hyst = 0 then 0 else if k.out = .invalid ∧ !k.off ∧ k.enabledAt + nsF 200 < now then 1 else Config.freeNat f % 2

/-- A pin status entry at a time; what the analog input fixes, and whether a PPMU that is on stands at a clamp, are free values
from index `f` on (R205, R213). [DESIGN CHOICE, log 59] -/
def Pin.status (p : Pin) (hyst now : Nat) (joined : Bool) (carries f : Nat) : List Byte :=
  let clamp := if joined ∧ p.ppmuOut ∧ p.ppmu.mode ≠ 3 then Config.freeNat (f + 2) % 2 else 0
  let band (c : CompS) (k : Nat) : Nat := if joined then c.band hyst now (f + k) else 0
  let st (c : CompSt) : Nat := if joined then c.code else 2
  words [carries * 65536 + clamp * 4096 + (if joined then b2n p.gOv.latched * 2048 + b2n p.gPpmu.latched * 1024 + b2n p.gDrv.latched * 512 else 0) +
    st p.vol.out * 64 + st p.voh.out * 16 + band p.vol 1 * 2 + band p.voh 0, p.trips]

/-- The 17 status entries of a group (R225); entry 16 shows the carried pin's comparators, latches and PPMU while it carries one. [DESIGN CHOICE, log 59] [DEDUCED, log 60] -/
def State.statusBlock (s : State) (g : Fin 8) : List Byte :=
  let carried := s.grps[g].take.carried
  let rv := match carried with
    | none => s.grps[g].rv
    | some e => { s.pins[pinOf g e] with trips := s.grps[g].rv.trips }
  let hyst (e : Fin 16) : Nat := (s.pinCfg (pinOf g e)).hyst
  (List.finRange 16).flatMap (fun e => s.pins[pinOf g e].status (hyst e) s.metro true 31 (s.free + 3 * e.val)) ++
    rv.status (hyst (carried.getD 0)) s.metro carried.isSome (match carried with | none => 31 | some e => e.val) (s.free + 48)

end Sys2Proof.Machine
end

