-- ==== Sys2Proof/Machine/Interval.lean ====
section
/-! DEFINITION. Interval units: the statistics block, and what disarms a unit (R300, R302, R303). -/

namespace Sys2Proof.Machine

open Sys2Proof

/-- STATE (R303). -/
def TmuSt.code : TmuSt → Nat
  | .idle => 0
  | .setting => 1
  | .ready => 2
  | .measuring => 3
  | .latch => 4

/-- MEAN: the sum over COUNT, rounded half up (R302). -/
def Tmu.mean (x : Tmu) : Int := if x.count = 0 then 0 else (2 * x.sum + x.count) / (2 * x.count)

/-- SIGMA: the population standard deviation, rounded half up (R302). -/
def Tmu.sigma (x : Tmu) : Nat :=
  if x.count = 0 then 0 else (isqrt (4 * ((x.count * x.sumSq : Nat) - x.sum * x.sum).toNat) + x.count) / (2 * x.count)

/-- The statistics block of unit `u` (R303). -/
def Tmu.block (x : Tmu) (u : Fin 16) : List Byte :=
  words [x.endCause * 256 + x.st.code * 16 + u.val, x.results] ++ leI 8 x.mean ++ le 8 x.sigma ++ leI 8 x.minD ++ leI 8 x.maxD ++
  words [x.count, x.flagged, x.subres, x.order, x.noStart, x.noStop, x.calCnt, x.tbCnt, x.ignored, 0] ++ le 8 x.firstTick ++ le 8 x.lastTick

/-- An armed unit disarms: a measurement in progress yields nothing, and the final entry of the arm is formed (R300). -/
def State.tmuOff (s : State) (u : Fin 16) (cause : Nat) : State :=
  let x := s.tmus[u]
  if x.st = .idle then s
  else
    let y : Tmu := { x with st := .idle, endCause := cause, hdr := none, start := none, stop := none, skipped := 0, gateAtArm := false, wins := [], inq := [], byTap := none }
    let s1 := s.modTmu u (fun _ => y)
    match x.hdr with
    | none => s1
    | some h => s1.reply h 0 0 0 (y.block u)

/-- The pin of a COMP or DRIVE endpoint (R291). -/
def TmuEnd.usesPin (e : TmuEnd) : Option (Fin 128) := if e.kind < 2 then some e.pin else none

/-- The pins that a configuration names (R298). -/
def TmuCfg.pinsUsed (k : TmuCfg) : List (Fin 128) := [k.start.usesPin, k.stop.usesPin].filterMap id

/-- Units whose pins lie in a released group disarm (R300). -/
def State.tmuLoseGroup (s : State) (g : Fin 8) : State :=
  forFin 16 (fun u t => if (t.tmus[u]).cfg.pinsUsed.any (fun p => grpOf p == g) then t.tmuOff u 3 else t) s

end Sys2Proof.Machine
end

