-- ==== Sys2Proof/Machine/Assign.lean ====
section
/-! DEFINITION. GROUP_ASSIGN and GROUP_RELEASE (R10, R11, R101, R102), and who owns the group or sequencer of a command. -/

namespace Sys2Proof.Machine

open Sys2Proof

/-- The group of ARG0 bits 10:8 is the sender's (R10). -/
def ownGrp (h : Hdr) (p : Pkt) (s : State) : Option Fail := failIf (notMine s.grps[pktGroup p].owner h) 0x040 0x3001
/-- The sequencer of ARG0 bits 1:0 is the sender's (R101). -/
def ownSeq (h : Hdr) (p : Pkt) (s : State) : Option Fail := failIf (notMine s.seqs[pktSeq p].owner h) 0x040 0x3002
/-- The pin die of a group is in, or waits for, a full Tuning pass (R358). -/
def State.tuned (s : State) (g : Fin 8) : Bool := s.tune.full.any (fun f => f.dies.contains (dieOf g))

/-- The groups that GROUPS selects. -/
def pktGrps (p : Pkt) : List (Fin 8) := (List.finRange 8).filter (fun g => (p.a0 7 0).testBit g.val)
/-- SEQ of GROUP_ASSIGN. -/
def assignSeq (p : Pkt) : Fin 4 := fin 4 (p.a0 9 8)

/-- Ownership part of R102. -/
def assignOwns (h : Hdr) (p : Pkt) (s : State) : Option Fail :=
  firstFail [failIf ((pktGrps p).any (fun g => takenFrom s.grps[g].owner h)) 0x040 0x3001,
    failIf (!p.b0 15 && takenFrom s.seqs[assignSeq p].owner h) 0x040 0x3002]

/-- Running part of R102, and dies in a full Tuning pass (R358). -/
def assignBusy (_ : Hdr) (p : Pkt) (s : State) : Option Fail :=
  firstFail [failIf ((!p.b0 15 && s.seqs[assignSeq p].st != .idle) || (pktGrps p).any s.grpRuns) 0x010 0x0030,
    failIf ((pktGrps p).any s.tuned) 0x010 0xB010]

/-- Pins of a newly assigned group: at high impedance, records cleared, comparators enabled (R102, R204, R225, R239). -/
def Pin.assigned (p : Pin) (t : Nat) : Pin :=
  { (p.enableComps t) with on := false, level := .vil, lastCode := .k, driven := false, inBurst := false, haltHiz := true, haltSafe := false, stale := false, sealNext := false, carry := [], prevKeep := true, keep2 := true, trips := 0, latches := (p.latches.filter (fun l => l.2.isNone)), fail := {}, logged := 0 }

/-- Group `g` goes to sequencer `q` of its new owner. [DEDUCED, log 155] -/
def State.assignGrp (s : State) (g : Fin 8) (q : Fin 4) (o : Owner) : State :=
  forFin 16 (fun e t => t.modPin (pinOf g e) (fun x => x.assigned t.metro))
    (s.modGrp g (fun x => { x with owner := o, seq := some q, rv := { x.rv with trips := 0 } }))

/-- GROUP_ASSIGN takes effect, or fails its checks (R102). -/
def State.assignRun (s : State) (h : Hdr) (p : Pkt) : State :=
  if p.b0 15 then
    (((pktGrps p).filter (fun g => s.grps[g].owner != .none)).foldl (fun t g => (t.releaseGrp g).tmuLoseGroup g) s).ok h
  else
    let q := assignSeq p
    match checksAssign s.cfg ((pktGrps p).map (fun g => (g, some q))) with
    | some (sub, detail) => s.reply h 0x011 sub detail []
    | none =>
      let s1 := if (pktGrps p).isEmpty then s else s.setSeqOwner q h.who
      (((pktGrps p).foldl (fun t g => t.assignGrp g q h.who) s1).dropIdleSeqs).ok h

/-- A measurement holds group `g`: commands that name one group complete in order (R55). -/
def State.grpMeasures (s : State) (g : Fin 8) : Bool :=
  !s.grps[g].jobs.isEmpty

/-- GROUP_ASSIGN after intake; it waits for measurements of its groups (R55). -/
def groupAssignBody (h : Hdr) (p : Pkt) (s : State) : State :=
  s.unlessFail h (lenFail p 0) (fun s =>
    match (pktGrps p).find? s.grpMeasures with
    | some g => s.modGrp g (fun x => { x with after := x.after ++ [(h, p)] })
    | none => s.assignRun h p)

/-- The checks and the effect of a GROUP_ASSIGN that has waited. -/
def State.assignAgain (s : State) (h : Hdr) (p : Pkt) : State :=
  s.runChecked h 0x301 p assignOwns assignBusy groupAssignBody

/-- GROUP_ASSIGNs that waited for a group go on once nothing holds it (R55). [DEDUCED, log 116] -/
def State.resumeAssign (s : State) (g : Fin 8) : State :=
  if s.grpMeasures g then s
  else
    let ws := s.grps[g].after
    ws.foldl (fun t w => t.assignAgain w.1 w.2) (s.modGrp g (fun x => { x with after := [] }))

/-- GROUP_ASSIGN is taken. -/
def takeGroupAssign (c : Fin 8) (p : Pkt) (s : State) : State := s.deliver c 0x301 p assignOwns assignBusy groupAssignBody

/-- GROUP_ASSIGN without RELEASE. -/
def execGroupAssign (c : Fin 8) (p : Pkt) (s : State) : Out := hostCmd s c 0x301 (p.withA0 15 15 0) (takeGroupAssign c)
/-- GROUP_ASSIGN with RELEASE. -/
def execGroupRelease (c : Fin 8) (p : Pkt) (s : State) : Out := hostCmd s c 0x301 (p.withA0 15 15 1) (takeGroupAssign c)

end Sys2Proof.Machine
end

