-- ==== Sys2Proof/Machine/Drive.lean ====
section
/-! DEFINITION. Driver events, comparator crossings, edge pairs and reflex drive (R179 to R196, R203, R204, R220). -/

namespace Sys2Proof.Machine

open Sys2Proof

/-! ### Driver (R179 to R189) -/

/-- Drive events and reflex edges have no effect: a guard is latched, safe pins are in force or the PPMU is on (R206, R211,
R380). -/
def Pin.blocked (p : Pin) : Bool := p.latched || p.safe || p.ppmu.mode != 0

/-- The halt state of HALT_MODE (R145, R188, R189): 0 HOLD, 1 SAFE, 2 RELEASE. [DEDUCED, log 154] -/
def Pin.haltAct (p : Pin) (mode : Nat) : Pin :=
  if mode = 0 then { p with inBurst := true }
  else { p with on := false, inBurst := mode == 2, haltHiz := true, haltSafe := mode == 1 }

/-- The driver state that ACTION asks for (R195). -/
def Pin.reflexAct (p : Pin) (action : Nat) : Pin :=
  if action = 0 then { p with on := true, level := .vil, driven := true }
  else if action = 1 then { p with on := true, level := .vih, driven := true }
  else if action = 2 then { p with on := true, level := if p.level = .vil then .vih else .vil, driven := true }
  else { p with on := false }

/-- The first-fail record and counter of an earlier burst are gone (R239). -/
def Pin.freshen (p : Pin) : Pin := if p.stale then { p with fail := { sealed := p.sealNext }, stale := false, sealNext := false } else p

/-- The burst of a pin has become sealed: so have its record and counter, or those of the burst that is about to begin there (R255). -/
def Pin.sealFails (p : Pin) : Pin := if p.stale then { p with sealNext := true } else { p with fail := { p.fail with sealed := true } }

/-- Vector 0 of a burst begins at the pin: the halt state ends, and the records and reflex counters of the last burst are gone
(R145, R192, R239). -/
def Pin.startAct (p : Pin) : Pin :=
  { p.freshen with inBurst := true, haltHiz := false, haltSafe := false, reflex := { wins := p.reflex.wins } }

/-- What an event does at the pin (R182, R185, R195). -/
def Pin.driveAct (p : Pin) (a : DrvAct) : Pin :=
  match a with
  | .assign l => { p with on := true, level := l, driven := true, lastCode := if l = .vih then .d1 else .d0 }
  | .turnOn l => if p.on then p else { p with on := true, level := l.getD p.level, driven := true, lastCode := .d0 }
  | .release c => { p with on := false, lastCode := c }
  | .reflex n => p.reflexAct n
  | .halt m => p.haltAct m
  | .start => p.startAct

/-- The start and the end of a burst at the pin, which no guard holds back. -/
def DrvAct.isFrame : DrvAct → Bool
  | .halt _ => true
  | .start => true
  | _ => false

/-- The close of an arm window as far as it is known: 2 ns before the next drive event placed after it opened, or the start of
a vector with a code other than K (R193). -/
def Pin.winClose (p : Pin) (w : Nat × Option Nat × Bool) : Option Nat :=
  match p.driveQ.find? (fun d => d.live && decide (w.1 < d.fine)) with
  | none => w.2.1
  | some d => some (match w.2.1 with | none => d.fine - nsF 2 | some c => min c (d.fine - nsF 2))

/-- A drive event has come at a time: it has closed the windows opened before (R193). -/
def Pin.shutWins (p : Pin) (t : Nat) : Pin :=
  { p with reflex := { p.reflex with wins := p.reflex.wins.map (fun w => if w.1 < t then (w.1, some (match w.2.1 with | none => t - nsF 2 | some c => min c (t - nsF 2)), w.2.2) else w) } }

/-- The next event of a pin comes (R180, R206). -/
def Pin.takeDrive (p : Pin) (e : DrvEv) (rest : List DrvEv) (tick : Nat) : Pin :=
  let d := e.act.isDrive p.on
  let y := { (if d then p.shutWins e.fine else p).remember tick with driveQ := rest, lastDrive := if d then some e.fine else p.lastDrive }
  (if y.blocked && !e.act.isFrame then y else y.driveAct e.act).replan

/-- The first moved event of a burst is reported (R167). [DEDUCED, log 48] -/
def State.reportClash (s : State) (q : Fin 4) (moved : List (Nat × Fin 128 × Nat × Nat)) : State :=
  match moved with
  | [] => s
  | m :: ms =>
    if s.seqs[q].clashSeen then s
    else
      let f := ms.foldl (fun a b => if b.1 < a.1 then b else a) m
      (s.modSeq q (fun x => { x with clashSeen := true })).report 0x11 (pinInst f.2.1) false s.nowTick (cut 32 f.2.2.1) (min 0xFFFFFFFF f.2.2.2)

/-- An assignment of the other level to a driver that is ON is an event of the DRIVE endpoints of its pin (R291). -/
def State.tellDrive (s : State) (p : Fin 128) (e : DrvEv) : State :=
  let x := s.pins[p]
  match e.act with
  | .assign l => if x.on && x.level != l && !x.blocked then s.feedDrive p l e.fine e.clash else s
  | _ => s

/-- DRIVE_EVENT: the next placed event of a pin comes (R180). [DEDUCED, log 4] -/
def execDriveEvent (p : Fin 128) (s : State) : Out :=
  match s.pins[p].driveQ with
  | [] => .next s
  | e :: rest => if s.due e.fine then .next ((s.tellDrive p e).modPin p (fun x => x.takeDrive e rest s.tick)) else .next s

/-- The load of a pin is on (R188). -/
def State.loadOn (s : State) (p : Fin 128) : Bool :=
  let x := s.pins[p]
  let m := (s.pinCfg p).loadMode
  let sel := if m = 1 then x.lastCode == .dz else if m = 2 then x.lastCode == .dz || x.lastCode.reads != (false, false) else false
  !x.on && sel && x.inBurst && !x.haltSafe && !x.blocked

/-- The pin is terminated to VT (R179, R189). -/
def State.terminated (s : State) (p : Fin 128) : Bool :=
  let x := s.pins[p]
  !x.on && (s.pinCfg p).offTerm && x.inBurst && !x.haltHiz && !x.blocked

/-! ### Edge pairs (R220) -/

/-- A crossing that forms no pair. -/
def Cross.alone (x : Cross) : Pair := { t := x.t, tl := x.t, th := x.t, rising := x.rising, single := true }

/-- Crossings that no later one within PAIR_SPAN can pair any more stand alone (R220). -/
def Pin.expire (p : Pin) (now span : Nat) : Pin :=
  let p1 := match p.openRise with
    | some r => if r.t + span < now then { p with openRise := none, pairs := r.alone :: p.pairs } else p
    | none => p
  match p1.openFall with
  | some r => if r.t + span < now then { p1 with openFall := none, pairs := r.alone :: p1.pairs } else p1
  | none => p1

/-- A crossing taken into the edge pairs (R220). [DEDUCED, log 159] -/
def Pin.pair (p0 : Pin) (x : Cross) (span : Nat) : Pin :=
  let p := p0.expire x.t span
  match x.voh, x.rising with
  | false, true => { p with openRise := some x }
  | true, false => { p with openFall := some x }
  | false, false =>
    let p1 := match p.openRise with
      | some r => { p with openRise := none, pairs := r.alone :: p.pairs }
      | none => p
    match p1.openFall with
    | some f => { p1 with openFall := none, pairs := { t := x.t, tl := x.t, th := f.t, rising := false } :: p1.pairs }
    | none => { p1 with pairs := x.alone :: p1.pairs }
  | true, true =>
    let p1 := match p.openFall with
      | some r => { p with openFall := none, pairs := r.alone :: p.pairs }
      | none => p
    match p1.openRise with
    | some r => { p1 with openRise := none, pairs := { t := x.t, tl := r.t, th := x.t, rising := true } :: p1.pairs }
    | none => { p1 with pairs := x.alone :: p1.pairs }

/-- PAIR_SPAN of a pin in fine LSB (R199). -/
def State.spanOf (s : State) (p : Fin 128) : Nat := (s.pinCfg p).pairSpan * 256

/-- A SLOPE measurement takes an edge of its direction, until its pairs are in or its timeout has come (R222). -/
def LevMeas.takeEdge (m : LevMeas) (p : Fin 128) (e : Pair) : LevMeas :=
  let wanted := m.dts.length < m.count && decide (e.t ≤ (m.startTick + usT m.timeout) * 512)
  if m.slope && m.pin == p && e.rising != m.sel && wanted then
    if e.single then { m with singles := m.singles + 1 } else { m with dts := (((e.th : Int) - e.tl).natAbs) :: m.dts }
  else m

/-- A level measurement in progress takes the edges. -/
def Grp.takeEdges (g : Grp) (p : Fin 128) (es : List Pair) : Grp :=
  match g.jobs with
  | .level m :: js => { g with jobs := .level (es.foldl (fun a e => a.takeEdge p e) m) :: js }
  | _ => g

/-- Edges that a change of a pin added go to the SLOPE measurement of its group. -/
def State.pinEdges (s : State) (p : Fin 128) (f : Pin → Pin) : State :=
  let old := s.pins[p].pairs.length
  let s1 := s.modPin p f
  let ps := s1.pins[p].pairs
  s1.modGrp (grpOf p) (fun g => g.takeEdges p (ps.take (ps.length - old)).reverse)

/-! ### Reflex drive (R191 to R196) -/

/-- The arm window that is open at a time (R193). -/
def Pin.winAt (p : Pin) (t : Nat) : Option (Nat × Option Nat × Bool) :=
  p.reflex.wins.find? (fun w => decide (w.1 ≤ t) && (match p.winClose w with | none => true | some c => decide (t < c)))

/-- A crossing in re-arm is counted; one outside it is accepted unless `self` keeps the driver's own edges out or ONCE has been
used up; true if the unit fires (R194). -/
def ReflexS.meet (r : ReflexS) (k : ReflexCfg) (w : Nat × Option Nat × Bool) (t : Nat) (self : Bool) : ReflexS × Bool :=
  let wait := match r.lastAt with
    | none => false
    | some a => decide (t < a + 512 * k.rearm)
  if r.offBurst then (r, false)
  else if wait then ({ r with skips := sat 16 (r.skips + 1) }, false)
  else if self || (k.once && w.2.2) then (r, false)
  else ({ r with fires := sat 32 (r.fires + 1), lastAt := some t, wins := r.wins.map (fun v => if v.1 = w.1 then (v.1, v.2.1, true) else v) }, true)

/-- Drive events of a pin that the spacing rule moves: placed time, the vector that placed it and amount (R167). -/
def Pin.moves (x : Pin) : List (Nat × Nat × Nat) := (x.driveQ.filter (fun d => d.clash)).map (fun d => (d.fine, d.vec, d.fine - d.want))

/-- A reflex edge waits for its time among the events of the pin (R191). -/
def Pin.addReflex (p : Pin) (t action : Nat) : Pin :=
  let e : DrvEv := { fine := t, want := t, act := .reflex action, prog := t }
  Pin.replan { p with driveQ := p.driveQ.takeWhile (fun d : DrvEv => decide (d.fine ≤ t)) ++ e :: p.driveQ.dropWhile (fun d : DrvEv => decide (d.fine ≤ t)) }

/-- The sequencer of a pin runs a burst (R141). -/
def State.pinRuns (s : State) (p : Fin 128) : Bool := s.grpRuns (grpOf p)

/-- Time of the edge that a crossing brings: 1.6 ns ± 20 ps later, a free choice within that (R191). -/
def State.reflexTime (s : State) (t : Nat) : Nat := t + 3236 + s.freeVal % 82

/-- A pin's moved events are reported after a change of its driver state, as those of an issued vector are (R167). -/
def State.pinClash (s : State) (p : Fin 128) : State :=
  match s.grps[grpOf p].seq with
  | none => s
  | some q => s.reportClash q (s.pins[p].moves.map (fun m => (m.1, p, m.2)))

/-- A crossing reaches the reflex unit of pin `r` (R191 to R195). -/
def State.reflexMeet (s : State) (src r : Fin 128) (x : Cross) : State :=
  let k := (s.pinCfg r).reflex
  let match_ := k.enable && k.srcPin == (entOf src).val && (k.srcComp == 0) == x.voh && (k.srcEdge == 2 || (k.srcEdge == 0) == x.rising)
  if s.pinRuns r && match_ then
    match s.pins[r].winAt x.t with
    | none => s
    | some w =>
      let (u, fired) := s.pins[r].reflex.meet k w x.t (src == r && s.pins[r].on)
      if fired then
        let t := s.reflexTime x.t
        let u1 := if u.hasFired then u else { u with hasFired := true, first := s.tsPin (grpOf r) t 2 false }
        (s.drawn.modPin r (fun y => ({ y with reflex := u1 }).addReflex t k.action)).pinClash r
      else s.modPin r (fun y => { y with reflex := u })
  else s

/-- ARM_WINDOW_CLOSE: windows whose close has come are over (R193). -/
def execArmWindowClose (p : Fin 128) (s : State) : Out :=
  .next (s.modPin p (fun x => { x with reflex := { x.reflex with wins := x.reflex.wins.filter (fun w =>
    match x.winClose w with | none => true | some c => !s.due c) } }))

/-- A reflex status entry (R192). -/
def State.reflexEntry (s : State) (p : Fin 128) : List Byte :=
  let r := s.pins[p].reflex
  let armed := s.pinRuns p && (s.pinCfg p).reflex.enable && !r.offBurst && (s.pins[p].winAt s.metro).isSome
  let v := if r.hasFired then r.first.val else 0
  words [r.fires, r.skips * 65536 + b2n armed, cut 32 v, cut 32 (v / 2 ^ 32), v / 2 ^ 64, 0, 0, 0]

/-- REFLEX_SET with QUERY, after intake (R192). -/
def reflexQueryBody (h : Hdr) (p : Pkt) (s : State) : State :=
  s.unlessFail h (lenFail p 0) (fun s =>
    s.reply h 0 0 0 ((List.finRange 16).flatMap (fun e => s.reflexEntry (pinOf (pktGroup p) e))))

/-! ### Comparators (R203, R204) -/

/-- The issued vector of a sequencer in which a time falls (R263). -/
def Seq.vecAt (q : Seq) (t : Nat) : Option VecRec := q.hist.find? (fun r => decide (r.start ≤ t) && decide (t < r.fin))

/-- A crossing changes the output, or the output before an enable still to come (R203). -/
def CompS.cross (k : CompS) (rising : Bool) (t : Nat) : CompS :=
  let v : CompSt := if rising then .high else .low
  if t < k.enabledAt then { k with prev := v } else { k with out := v }

/-- The crossing can occur: the output is valid and stands on the other side (R203). -/
def CompS.canCross (k : CompS) (rising : Bool) (t : Nat) : Bool :=
  let cur := if t < k.enabledAt then k.prev else k.out
  !k.off && cur == (if rising then CompSt.low else CompSt.high)

/-- COMPARATOR_CROSSING: the TDC times a crossing of a comparator (R203, R220, R194, R291). [DESIGN CHOICE, log 136] -/
def execComparatorCrossing (p : Fin 128) (voh rising : Bool) (t : Nat) (s : State) : Out :=
  let x0 := s.pins[p]
  let k := if voh then x0.voh else x0.vol
  let late := match x0.crosses with | [] => true | c :: _ => decide (c.t ≤ t)
  if k.canCross rising t && late && s.due t then
    let vec := match s.grps[grpOf p].seq with
      | none => none
      | some q => (s.seqs[q].vecAt t).map (fun r => r.vec)
    let x : Cross := { t := t, voh := voh, rising := rising, vec := vec }
    let s1 := s.pinEdges p (fun y =>
      let y1 := if voh then { y with voh := y.voh.cross rising t } else { y with vol := y.vol.cross rising t }
      ({ y1 with crosses := x :: y1.crosses }).pair x (s.spanOf p))
    .next (forFin 16 (fun e u => u.reflexMeet p (pinOf (grpOf p) e) x) (s1.feedCross p voh rising t))
  else .next s

/-- COMPARATOR_VALID: 200 ns after its enable, with the input outside its band, an output becomes valid (R204). [DEDUCED, log 61] -/
def execComparatorValid (p : Fin 128) (voh above : Bool) (s : State) : Out :=
  let f (k : CompS) : CompS :=
    if k.out == .invalid && !k.off && decide (7 ≤ s.power.stepDone) && s.due (k.enabledAt + nsF 200) then
      { k with out := if above then .high else .low, validAt := max s.metro (k.enabledAt + nsF 200) }
    else k
  .next (s.modPin p (fun x => if voh then { x with voh := f x.voh } else { x with vol := f x.vol }))

end Sys2Proof.Machine
end

