-- ==== Sys2Proof/Machine/Analog.lean ====
section
/-! DEFINITION. Guards, PPMU, level measurements and comparator checks (R198 to R226). -/

namespace Sys2Proof.Machine

open Sys2Proof

/-- Signed word `i` of an entry. -/
def sw (e : List Byte) (i : Nat) : Int := sext 32 (rdw e i)

/-- The pin entries that a mask selects, ascending. -/
def entriesOf (mask : Nat) : List (Fin 16) := (List.finRange 16).filter (fun e => mask.testBit e.val)

/-- Entry `e` of `n` bytes of a payload. -/
def entryAt (n : Nat) (bs : List Byte) (e : Fin 16) : List Byte := (bs.drop (n * e.val)).take n

/-- A code lies from -1.500 V to +6.000 V (R198). -/
def codeOk (c : Int) : Bool := decide (-12000 ≤ c) && decide (c ≤ 48000)

/-! ### LEVELS_SET (R199, R200) -/

/-- Level `i` of an entry as a code: VIH, VIL, VT, VOH, VOL (R199). -/
def levelCode (isE : Bool) (e : List Byte) (i : Nat) : Int := if isE then sw e i else uvCode (sw e i)

/-- Form of LEVELS_SET (R199). -/
def levelsForm (p : Pkt) : Option Fail :=
  let bad (e : Fin 16) : Bool :=
    let b := entryAt 32 p.body e
    (List.range 5).any (fun i => !codeOk (levelCode p.isE b i)) || decide (8 < bits (rdw b 5) 3 0) || bits (rdw b 5) 15 8 == 0
  firstFail [lenFail p 64, failIf ((entriesOf (pktMask p)).any bad) 0x030 0x5004]

/-- LEVELS_SET as committed. -/
def Cfg.levelsSet (k : Cfg) (p : Pkt) : Cfg :=
  k.modPins (pktGroup p) (pktMask p) (fun e x =>
    let b := entryAt 32 p.body e
    { x with vih := levelCode p.isE b 0, vil := levelCode p.isE b 1, vt := levelCode p.isE b 2, voh := levelCode p.isE b 3, vol := levelCode p.isE b 4, pairSpan := bits (rdw b 5) 15 8, hyst := bits (rdw b 5) 3 0 })

/-- The STAGED payload of the basic form of LEVELS_SET: the values after rounding (R199). -/
def levelsEcho (p : Pkt) : List Byte :=
  (List.finRange 16).flatMap (fun e =>
    let b := entryAt 32 p.body e
    (List.range 5).flatMap (fun i => leI 4 (uvCode (sw b i) * 125)) ++ (b.drop 20).take 12)

/-- Level order (R200). -/
def chkLevels (k : Cfg) (i : GItem) : Option CheckFail :=
  firstOf (List.finRange 16) (fun e =>
    let c := (k.grps[i.1]).pins[e]
    must (decide (c.vol < c.voh)) 0x5017 i.1 0 e.val 0)

/-! ### Guards (R206 to R210) -/

/-- A guard of a pin. -/
def Pin.guard (p : Pin) : Guard → GuardS
  | .drv => p.gDrv
  | .ppmu => p.gPpmu
  | .ov => p.gOv

/-- A guard of a pin changed. -/
def Pin.modGuard (p : Pin) (g : Guard) (f : GuardS → GuardS) : Pin :=
  match g with
  | .drv => { p with gDrv := f p.gDrv }
  | .ppmu => { p with gPpmu := f p.gPpmu }
  | .ov => { p with gOv := f p.gOv }

/-- The guard is enabled. -/
def Pin.guardOn (p : Pin) : Guard → Bool
  | .drv => p.drvEn
  | .ppmu => p.ppmuEn
  | .ov => p.ovEn

/-- Number of a guard in DETAIL0 of GUARD_TRIP (R208). -/
def guardNo : Guard → Nat
  | .drv => 0
  | .ppmu => 1
  | .ov => 2

/-- A guard watches its input: the device is ready, it is enabled and not latched (R207, R210). -/
def State.guardLive (s : State) (p : Fin 128) (g : Guard) : Bool :=
  decide (7 ≤ s.power.stepDone) && s.pins[p].guardOn g && !(s.pins[p].guard g).latched

/-- A trip at the pin: high impedance, load off, latched, reflex unit disarmed; drive events of the same tick have no effect
(R206). -/
def Pin.trip (p : Pin) (g : Guard) (tick : Nat) : Pin :=
  let q := (p.undoTick tick).modGuard g (fun _ => { armed := false, latched := true })
  { q with on := false, lastCode := .k, trips := sat 32 (p.trips + 1), latches := if p.latched then p.latches else (tick, none) :: p.latches, reflex := { p.reflex with offBurst := true } }.replan

/-- The reserve channel carries the pin (R362). -/
def State.carriedPin (s : State) (p : Fin 128) : Bool := s.grps[grpOf p].take.carried == some (entOf p)

/-- A trip of the carrying channel counts at the reserve channel too, which keeps the pin until the burst ends (R225, R366). -/
def State.tripCarrier (s : State) (p : Fin 128) : State :=
  if s.carriedPin p then s.modGrp (grpOf p) (fun x => { x with rv := { x.rv with trips := sat 32 (x.rv.trips + 1) }, take := { x.take with stuck := true } })
  else s

/-- GUARD_TRIP: a guard trips, is reported and raises its group's tap (R206, R208). -/
def execGuardTrip (p : Fin 128) (g : Guard) (s : State) : Out :=
  if s.guardLive p g then
    let ts := s.tsPin (grpOf p) (s.tick * 512) 0 false
    .next ((((s.modPin p (fun x => x.trip g s.tick)).tripCarrier p).report 0x12 (pinInst p) false ts (guardNo g) 0).raise (0x18 + (grpOf p).val) ts 0 none none)
  else .next s

/-- GUARD_ARMED: the input leaves the band on its inner side (R207). -/
def execGuardArmed (p : Fin 128) (g : Guard) (s : State) : Out :=
  if s.guardLive p g then .next (s.modPin p (fun x => x.modGuard g (fun y => { y with armed := true }))) else .next s

/-- Form of GUARD_SET (R209). [DEDUCED, log 14] -/
def guardForm (p : Pkt) : Option Fail :=
  let i16 (w hi lo : Nat) : Int := sext 16 (bits w hi lo)
  let bad (e : Fin 16) : Bool :=
    let b := entryAt 16 p.body e
    let ilim := bits (rdw b 0) 31 24
    let fil := bits (rdw b 0) 23 16
    let hi := i16 (rdw b 1) 31 16
    let lo := i16 (rdw b 1) 15 0
    ilim < 10 || decide (160 < ilim) || decide ((if p.isE then 250 else 0) < fil) || hi % 50 != 0 || lo % 50 != 0 ||
      decide (hi < -1000) || decide (7000 < hi) || decide (lo < -2500) || decide (5000 < lo) || decide (hi ≤ lo)
  if p.b0 15 ∧ p.b0 14 then some (0x030, 0x5009)
  else if p.units ≠ (if p.b0 15 ∨ p.b0 14 then 0 else 32) then some (0x030, 0x5009)
  else if p.b0 15 ∨ p.b0 14 then none
  else failIf ((entriesOf (pktMask p)).any bad) 0x030 0x5005

/-- A guard whose enable bit goes from 0 to 1 starts in its no-trip state (R207). -/
def guardReset (was now : Bool) (g : GuardS) : GuardS := if now && !was then { g with armed := false } else g

/-- Guard settings written to a pin (R209). -/
def Pin.guardWrite (p : Pin) (b : List Byte) : Pin :=
  let w := rdw b 0
  { p with drvIlim := bits w 31 24, filter := bits w 23 16, ppmuEn := bit w 3, ovEn := bit w 2, drvEn := bit w 1, ovh := sext 16 (bits (rdw b 1) 31 16), ovl := sext 16 (bits (rdw b 1) 15 0), gPpmu := guardReset p.ppmuEn (bit w 3) p.gPpmu, gOv := guardReset p.ovEn (bit w 2) p.gOv, gDrv := guardReset p.drvEn (bit w 1) p.gDrv }

/-- The trip latches of a pin cleared; a pin that has not tripped is left alone (R210). -/
def Pin.guardClear (p : Pin) (tick : Nat) : Pin :=
  if p.latched then
    let f (g : GuardS) : GuardS := if g.latched then {} else g
    { p with gDrv := f p.gDrv, gPpmu := f p.gPpmu, gOv := f p.gOv, latches := p.latches.map (fun l : Nat × Option Nat => (l.1, some (l.2.getD tick))), on := false, lastCode := .k }.replan
  else p

/-- The pins of a group that a mask selects changed. -/
def State.modEntries (s : State) (g : Fin 8) (mask : Nat) (f : Fin 16 → Pin → Pin) : State :=
  (entriesOf mask).foldl (fun t e => t.modPin (pinOf g e) (f e)) s

/-- A status block is answered; it draws a free value for each bit that nothing fixes (R225). -/
def State.replyStatus (s : State) (h : Hdr) (g : Fin 8) : State :=
  ({ s with free := s.free + 51 }).reply h 0 0 0 (s.statusBlock g)

/-- GUARD_SET after intake (R209). -/
def guardSetBody (h : Hdr) (p : Pkt) (s : State) : State :=
  s.unlessFail h (guardForm p) (fun s =>
    let g := pktGroup p
    if p.b0 15 then s.replyStatus h g
    else if p.b0 14 then (s.modEntries g (pktMask p) (fun _ x => x.guardClear s.tick)).ok h
    else (s.modEntries g (pktMask p) (fun e x => x.guardWrite (entryAt 16 p.body e))).ok h)

/-- GUARD_SET is taken. -/
def takeGuardSet (c : Fin 8) (p : Pkt) (s : State) : State := s.deliver c 0x505 p ownGrp noFail guardSetBody

/-- GUARD_SET that writes. -/
def execGuardSet (c : Fin 8) (p : Pkt) (s : State) : Out := hostCmd s c 0x505 (p.withA0 15 14 0) (takeGuardSet c)
/-- GUARD_SET with CLEAR. -/
def execGuardClear (c : Fin 8) (p : Pkt) (s : State) : Out := hostCmd s c 0x505 (p.withA0 14 14 1) (takeGuardSet c)
/-- GUARD_SET with QUERY. -/
def execGuardQuery (c : Fin 8) (p : Pkt) (s : State) : Out := hostCmd s c 0x505 (p.withA0 15 15 1) (takeGuardSet c)

/-! ### PPMU (R211 to R216) -/

/-- Full scale of a current range, pA (R212). -/
def fullScale (range : Nat) : Int :=
  if range = 0 then 2000000 else if range = 1 then 20000000 else if range = 2 then 200000000 else if range = 3 then 2000000000 else 40000000000

/-- FORCE as converted (R212). -/
def forceCode (mode range : Nat) (v : Int) : Int :=
  if mode = 1 then uvCode v
  else if mode = 2 then (v * 65536 + fullScale range) / (2 * fullScale range) else 0

/-- The PPMU entry that 32 bytes give. [DEDUCED, log 15] -/
def ppmuEntry (isE : Bool) (b : List Byte) : PpmuEnt :=
  let mode := bits (rdw b 0) 1 0
  let range := bits (rdw b 0) 6 4
  let force := sext 64 (rd b 8 8)
  { mode := mode, range := range, force := force, forceCode := forceCode mode range force, clampHi := uvCode (sw b 4), clampLo := uvCode (sw b 5), settleUs := if isE then rdw b 6 else 0 }

/-- Form of PPMU_SET (R212). -/
def ppmuForm (p : Pkt) : Option Fail :=
  let bad (e : Fin 16) : Bool :=
    let b := entryAt 32 p.body e
    let x := ppmuEntry p.isE b
    decide (4 < x.range) || !codeOk x.clampHi || !codeOk x.clampLo || decide (sw b 4 ≤ sw b 5) || decide (1000000 < x.settleUs) ||
      (if x.mode = 1 then !codeOk x.forceCode else if x.mode = 2 then decide (x.forceCode < -32767) || decide (32767 < x.forceCode) else x.force != 0)
  failIf (p.units != 64 || (entriesOf (pktMask p)).any bad) 0x030 0x5006

/-- Settling time of an entry, µs (R214). -/
def PpmuEnt.settling (x : PpmuEnt) : Nat :=
  if x.settleUs ≠ 0 then x.settleUs
  else if x.mode = 3 then 20
  else if x.range = 0 then 2000 else if x.range = 1 then 400 else if x.range = 2 then 100 else if x.range = 3 then 30 else 20

/-- A response of a PPMU measurement over pins of the mask is still to be posted (R216). -/
def State.measUnposted (s : State) (g : Fin 8) (mask : Nat) : Bool :=
  s.ctxs.toList.any (fun c => c.rings.toList.any (fun r => r.queue.any (fun e => match e.locks with
    | none => false
    | some l => decide (l.1 = g) && l.2 &&& mask != 0)))

/-- The group's sequencer runs, or a measurement that has started and is not yet answered uses a pin of the mask (R212, R216). -/
def ppmuBusy (_ : Hdr) (p : Pkt) (s : State) : Option Fail :=
  let g := pktGroup p
  firstFail [failIf (s.grpRuns g || s.grps[g].adcHeld.any (fun m => m.mask &&& pktMask p != 0) || s.measUnposted g (pktMask p)) 0x010 0x0030,
    failIf (s.tuned g) 0x010 0xB010]

/-- A PPMU measurement that is first in its group starts once every pin of it is settled (R215). -/
def State.startMeas (s : State) (g : Fin 8) : State :=
  match s.grps[g].jobs with
  | .ppmu m :: js =>
    if m.started.isNone && (entriesOf m.mask).all (fun e => s.pins[pinOf g e].ppmu.settled) then
      s.modGrp g (fun x => { x with jobs := .ppmu { m with started := some s.tick } :: js })
    else s
  | _ => s

/-- A comparator is disconnected from strobes (R218, R223). -/
def CompS.disconnect (k : CompS) : CompS := { k with off := true, out := .invalid }

/-- Channels of a mask, the reserve channel as 16. -/
def chansOfMask (mask : Nat) : List Nat := setBits 17 mask

/-- A channel of a group, 16 being the reserve channel, changed. -/
def State.modChanPin (s : State) (g : Fin 8) (k : Nat) (f : Pin → Pin) : State :=
  if k < 16 then s.modPin (pinOf g (fin 16 k)) f else s.modGrp g (fun x => { x with rv := f x.rv })

/-- The first measurement of a group starts: a PPMU measurement once its pins are settled, a ramp and a self-check with their
comparators disconnected (R215, R218, R222, R223). -/
def State.startJob (s : State) (g : Fin 8) : State :=
  match s.grps[g].jobs with
  | [] => s
  | .ppmu _ :: _ => s.startMeas g
  | .level m :: js =>
    let c := s.pinCfg m.pin
    let s1 := s.modGrp g (fun x => { x with jobs := .level { m with startTick := s.tick, codes := (c.voh - c.vol).toNat } :: js })
    if m.slope then s1
    else s1.modPin m.pin (fun y => if m.sel then { y with vol := y.vol.disconnect } else { y with voh := y.voh.disconnect })
  | .check m :: js =>
    (chansOfMask m.mask).foldl (fun t k => t.modChanPin g k (fun y => { y with voh := y.voh.disconnect, vol := y.vol.disconnect }))
      (s.modGrp g (fun x => { x with jobs := .check { m with startTick := s.tick } :: js }))

/-- A measurement joins those of its group, and starts if it is the only one (R55, R215). [DEDUCED, log 144] -/
def State.addJob (s : State) (g : Fin 8) (j : MeasJob) : State :=
  let s1 := s.modGrp g (fun x => { x with jobs := x.jobs ++ [j] })
  if s.grps[g].jobs.isEmpty then s1.startJob g else s1

/-- The first measurement of a group is over and its response is formed; the next one starts, or GROUP_ASSIGNs that waited go
on (R55). -/
def State.endJob (s : State) (g : Fin 8) (e : Entry) : State :=
  let s1 := (s.modGrp g (fun x => { x with jobs := x.jobs.drop 1 })).pushEntry e.hdr.mb e.hdr.ring e
  (s1.startJob g).resumeAssign g

/-- The response of a measurement (R40). -/
def State.measReply (s : State) (h : Hdr) (pay : List Byte) : Entry :=
  { hdr := h, ts := s.nowSI, payload := pay, wrap := h.isS, finishes := true }

/-- PPMU_SET after intake (R212). [DEDUCED, log 158] -/
def ppmuSetBody (h : Hdr) (p : Pkt) (s : State) : State :=
  s.unlessFail h (ppmuForm p) (fun s =>
    let g := pktGroup p
    ((s.modEntries g (pktMask p) (fun e x =>
      let n := ppmuEntry p.isE (entryAt 32 p.body e)
      let y := { x with ppmu := { n with wroteTick := s.nowSI.tick, settled := n.mode == 0 } }
      if n.mode = 0 then y else { y with on := false }.replan)).startMeas g).ok h)

/-- PPMU_SET is taken. -/
def takePpmuSet (c : Fin 8) (p : Pkt) (s : State) : State := s.deliver c 0x506 p ownGrp ppmuBusy ppmuSetBody
/-- PPMU_SET. -/
def execPpmuSet (c : Fin 8) (p : Pkt) (s : State) : Out := hostCmd s c 0x506 p (takePpmuSet c)

/-- PPMU_SETTLED: an entry's settling time is over (R214). -/
def execPpmuSettled (p : Fin 128) (s : State) : Out :=
  let x := s.pins[p].ppmu
  if x.mode ≠ 0 ∧ !x.settled ∧ x.wroteTick + usT x.settling ≤ s.tick then
    .next ((s.modPin p (fun y => { y with ppmu := { y.ppmu with settled := true } })).startMeas (grpOf p))
  else .next s

/-- PPMU_MEASURE after intake (R215). -/
def ppmuMeasureBody (h : Hdr) (p : Pkt) (s : State) : State :=
  let g := pktGroup p
  let n := p.a2 16 0
  s.unlessFail h (firstFail [lenFail p 0, failIf ((entriesOf (pktMask p)).any (fun e => s.pins[pinOf g e].ppmu.mode == 0)) 0x030 0x5008, failIf (n = 0 || decide (65536 < n)) 0x030 0x5007]) (fun s =>
    s.addJob g (.ppmu { hdr := h, mask := pktMask p, samples := n }))

/-- PPMU_MEASURE is taken. -/
def takePpmuMeasure (c : Fin 8) (p : Pkt) (s : State) : State := s.deliver c 0x507 p ownGrp noFail ppmuMeasureBody
/-- PPMU_MEASURE. -/
def execPpmuMeasure (c : Fin 8) (p : Pkt) (s : State) : Out := hostCmd s c 0x507 p (takePpmuMeasure c)

/-- The range that the limit, the clamps or the ADC leave to a sample, in its unit: ±110 % of full scale, CLAMP_LO to CLAMP_HI,
or -2.0 V to +6.5 V (R213). -/
def PpmuEnt.span (x : PpmuEnt) : Int × Int :=
  if x.mode = 1 then (-(fullScale x.range * 11 / 10), fullScale x.range * 11 / 10)
  else if x.mode = 2 then (x.clampLo * 125, x.clampHi * 125)
  else (-2000000, 6500000)

/-- A sample as the PPMU gives it: within its range, and clamped if it stands at an end of it while something is forced (R213). [DEDUCED, log 145] -/
def PpmuEnt.sample (x : PpmuEnt) (v : Sample) : Sample :=
  let (lo, hi) := x.span
  { value := max lo (min hi v.value), clamped := decide (x.mode ≠ 3) && (v.clamped || decide (v.value ≤ lo) || decide (hi ≤ v.value)) }

/-- A response entry of PPMU_MEASURE over samples with the tick of each (R216); values that no sample before a trip gives are
free from index `f` on. [DEDUCED, log 145] -/
def Pin.measEntry (p : Pin) (e : Fin 16) (xs : List (Nat × Sample)) (f : Nat) : List Byte :=
  let good := (xs.takeWhile (fun x => !p.latchedAt x.1)).map (fun x => p.ppmu.sample x.2)
  let ok := good.map (fun x => x.value)
  let v := if ok.isEmpty then le 8 (Config.freeNat f) ++ le 8 (Config.freeNat (f + 1)) ++ le 8 (Config.freeNat (f + 2))
    else leI 8 (meanI ok) ++ leI 8 (minI ok) ++ leI 8 (maxI ok)
  v ++ words [e.val * 65536 + b2n (decide (good.length < xs.length)) * 32768 + b2n (good.any (fun x => x.clamped)) * 16384, xs.length]

/-- The entry of the `i`-th pin of a measurement that started at tick `t`; a pin takes 5 µs of switching and 1 µs for each sample
(R215). -/
def State.measPin (s : State) (g : Fin 8) (t n i : Nat) (e : Fin 16) (xs : List Sample) : List Byte :=
  s.pins[pinOf g e].measEntry e (xs.zipIdx.map (fun (x, k) => (t + usT (i * (5 + n) + 6 + k), x))) (s.free + 3 * i)

/-- PPMU_MEASURE_DONE: the last conversion of the measurement in progress is done (R215, R216). -/
def execPpmuMeasureDone (g : Fin 8) (samples : List (List Sample)) (s : State) : Out :=
  match s.grps[g].jobs with
  | .ppmu m :: _ =>
    let es := entriesOf m.mask
    match m.started with
    | none => .next s
    | some t =>
      if samples.length = es.length ∧ samples.all (fun l => l.length == m.samples) ∧ t + usT (es.length * (5 + m.samples)) ≤ s.tick then
        let pay := (es.zip samples).zipIdx.flatMap (fun (x, i) => s.measPin g t m.samples i x.1 x.2)
        .next (({ s with free := s.free + 3 * es.length }).endJob g { s.measReply m.hdr pay with locks := some (g, m.mask) })
      else .next s
  | _ => .next s

/-! ### Level measurement (R217 to R222) -/

/-- The pin that LEVEL_MEASURE names. -/
def levPin (p : Pkt) : Fin 128 := pinOf (pktGroup p) (fin 16 (p.a0 3 0))

/-- Form of LEVEL_MEASURE (R217). -/
def levelForm (p : Pkt) : Option Fail :=
  let v0 := sext 32 p.arg1.toNat
  let v1 := sext 32 p.arg2.toNat
  let ok (v : Int) : Bool := decide (-1500000 ≤ v) && decide (v ≤ 6000000)
  let bad : Bool :=
    if p.a0 17 16 = 0 then
      !ok v0 || !ok v1 || v0 == v1 || p.a3 15 0 < 10 || decide (10000 < p.a3 15 0) || p.a3 31 16 == 0 || decide (256 < p.a3 31 16) ||
        decide (1000000 * p.a3 15 0 < (v1 - v0).natAbs)
    else if p.a0 17 16 = 1 then
      p.arg1.toNat == 0 || decide (16777216 < p.arg1.toNat) || p.arg2.toNat == 0 || decide (10000000 < p.arg2.toNat)
    else true
  firstFail [lenFail p 0, failIf bad 0x030 0x5007]

/-- A RAMP measurement needs an idle sequencer (R217). -/
def levelBusy (_ : Hdr) (p : Pkt) (s : State) : Option Fail := failIf (p.a0 17 16 == 0 && s.grpRuns (pktGroup p)) 0x010 0x0030

/-- LEVEL_MEASURE after intake (R217). -/
def levelMeasureBody (h : Hdr) (p : Pkt) (s : State) : State :=
  s.unlessFail h (levelForm p) (fun s =>
    let g := pktGroup p
    let m : LevMeas := { hdr := h, pin := levPin p, slope := p.a0 17 16 == 1, sel := p.b0 12, keepHyst := p.b0 20, vStart := sext 32 p.arg1.toNat, vEnd := sext 32 p.arg2.toNat, rate := p.a3 15 0, ramps := p.a3 31 16, count := p.arg1.toNat, timeout := p.arg2.toNat }
    s.addJob g (.level m))

/-- LEVEL_MEASURE is taken. -/
def takeLevelMeasure (c : Fin 8) (p : Pkt) (s : State) : State := s.deliver c 0x508 p ownGrp levelBusy levelMeasureBody
/-- LEVEL_MEASURE with MODE RAMP. -/
def execLevelMeasureRamp (c : Fin 8) (p : Pkt) (s : State) : Out := hostCmd s c 0x508 (p.withA0 17 16 0) (takeLevelMeasure c)
/-- LEVEL_MEASURE with MODE SLOPE. -/
def execLevelMeasureSlope (c : Fin 8) (p : Pkt) (s : State) : Out := hostCmd s c 0x508 (p.withA0 17 16 1) (takeLevelMeasure c)

/-- The level of a ramp whose crossing came `dt` fine LSB after its start (R218). -/
def LevMeas.level (m : LevMeas) (dt : Nat) : Int :=
  let d : Int := (m.rate * dt * 2 + 2048) / 4096
  if m.vStart < m.vEnd then m.vStart + d else m.vStart - d

/-- The sweep of a ramp in fine LSB, rounded up. -/
def LevMeas.sweep (m : LevMeas) : Nat := ceilDiv ((m.vEnd - m.vStart).natAbs * 2048) m.rate

/-- Response of a RAMP measurement (R219). -/
def LevMeas.rampReply (m : LevMeas) (ramps : List (Option Nat)) : List Byte :=
  let vs := (ramps.filterMap id).map m.level
  if vs.isEmpty then zeros 32
  else leI 4 (meanI vs) ++ le 4 (sigmaI vs) ++ leI 4 (minI vs) ++ leI 4 (maxI vs) ++ words [(ramps.length - vs.length) * 65536 + vs.length, 0, 0, 0]

/-- Response of a SLOPE measurement (R222); values that no pair or a zero interval leaves open are free from index `f` on. [DEDUCED, log 62] -/
def LevMeas.slopeReply (m : LevMeas) (f : Nat) : List Byte :=
  let ds := m.dts.map (fun d : Nat => ((16 * d : Nat) : Int))
  let n := ds.length
  let mean := if n = 0 then cut 32 (Config.freeNat f) else (meanI ds).toNat
  let sg := if n = 0 then cut 32 (Config.freeNat (f + 1)) else sigmaI ds
  let sl := if n = 0 ∨ mean = 0 then cut 32 (Config.freeNat (f + 2)) else m.codes * 256000 * 16 / mean
  words [mean, sg, sl, n, m.singles, b2n (n < m.count), 0, 0]

/-- The level measurement of a group in progress. -/
def Grp.level (g : Grp) : Option LevMeas :=
  match g.jobs with
  | .level m :: _ => some m
  | _ => none

/-- Open crossings that nothing can pair any more reach the SLOPE measurement before it ends (R222). -/
def State.lastEdges (s : State) (p : Fin 128) : State := s.pinEdges p (fun y => y.expire s.metro (s.spanOf p))

/-- LEVEL_MEASURE_DONE: the ramps are over, or the edges are in or the timeout has come (R218, R222). -/
def execLevelMeasureDone (g : Fin 8) (ramps : List (Option Nat)) (s : State) : Out :=
  match s.grps[g].level with
  | none => .next s
  | some m =>
    if m.slope then
      if m.count ≤ m.dts.length ∨ m.startTick + usT m.timeout ≤ s.tick then
        let s1 := s.lastEdges m.pin
        let m1 := (s1.grps[g].level).getD m
        .next (({ s1 with free := s.free + 3 }).endJob g (s.measReply m.hdr (m1.slopeReply s.free)))
      else .next s
    else if ramps.length = m.ramps ∧ ramps.all (fun r => match r with | none => true | some d => decide (d ≤ m.sweep)) ∧
        m.startTick * 512 + m.ramps * (nsF 1000 + m.sweep) ≤ s.metro then
      let s1 := s.modPin m.pin (fun y => if m.sel then { y with vol := y.vol.enable s.metro } else { y with voh := y.voh.enable s.metro })
      .next (s1.endJob g (s.measReply m.hdr (m.rampReply ramps)))
    else .next s

/-! ### COMP_CHECK (R223 to R225) -/

/-- SWAP and TIE need an idle sequencer (R223). -/
def checkBusy (_ : Hdr) (p : Pkt) (s : State) : Option Fail := failIf (p.a0 17 16 != 0 && s.grpRuns (pktGroup p)) 0x010 0x0030

/-- COMP_CHECK after intake (R223). -/
def compCheckBody (h : Hdr) (p : Pkt) (s : State) : State :=
  s.unlessFail h (lenFail p 0) (fun s =>
    let g := pktGroup p
    if p.a0 17 16 = 0 then s.replyStatus h g
    else
      s.addJob g (.check { hdr := h, tie := p.a0 17 16 == 2, mask := p.a1 16 0 }))

/-- COMP_CHECK is taken. -/
def takeCompCheck (c : Fin 8) (p : Pkt) (s : State) : State := s.deliver c 0x509 p ownGrp checkBusy compCheckBody
/-- COMP_CHECK with MODE STATUS. -/
def execCompCheckStatus (c : Fin 8) (p : Pkt) (s : State) : Out := hostCmd s c 0x509 (p.withA0 17 16 0) (takeCompCheck c)
/-- COMP_CHECK with MODE SWAP. -/
def execCompCheckSwap (c : Fin 8) (p : Pkt) (s : State) : Out := hostCmd s c 0x509 (p.withA0 17 16 1) (takeCompCheck c)
/-- COMP_CHECK with MODE TIE. -/
def execCompCheckTie (c : Fin 8) (p : Pkt) (s : State) : Out := hostCmd s c 0x509 (p.withA0 17 16 2) (takeCompCheck c)

/-- An error of a comparator is within its accuracy of 4 mV (R224, R463). -/
def errOk (e : Int) : Bool := decide (e.natAbs ≤ 4000)
/-- An error as reported: at the limit of its sign beyond ±32,767 µV (R224). -/
def errLimit (e : Int) : Int := max (-32767) (min 32767 e)

/-- A response entry of SWAP and TIE (R224). -/
def checkEntry (k : Nat) (e : Int × Int) : List Byte :=
  words [enc 16 (errLimit e.1) * 65536 + enc 16 (errLimit e.2), k, b2n (errOk e.2) * 2 + b2n (errOk e.1), 0]

/-- Comparators that do not pass are reported (R224). [DEDUCED, log 63] -/
def State.checkReport (s : State) (g : Fin 8) (k : Nat) (e : Int × Int) : State :=
  let r (t : State) (n : Nat) (v : Int) : State := if errOk v then t else t.report 0x13 (g.val * 256 + k) false s.nowSI n (enc 32 (errLimit v))
  r (r s 0 e.1) 1 e.2

/-- COMP_CHECK_DONE: the self-check in progress ends (R223, R224). -/
def execCompCheckDone (g : Fin 8) (errs : List (Int × Int)) (s : State) : Out :=
  match s.grps[g].jobs with
  | .check m :: _ =>
    let ks := chansOfMask m.mask
    if errs.length = ks.length ∧ m.startTick + usT (if m.tie then 120 else 40) ≤ s.tick then
      let s1 := ks.foldl (fun t k => t.modChanPin g k (fun y => y.enableComps t.metro)) s
      let s2 := (ks.zip errs).foldl (fun t x => t.checkReport g x.1 x.2) s1
      .next (s2.endJob g (s.measReply m.hdr ((ks.zip errs).flatMap (fun x => checkEntry x.1 x.2))))
    else .next s
  | _ => .next s

end Sys2Proof.Machine
end

