-- ==== Sys2Proof/Machine/Compare.lean ====
section
/-! DEFINITION. Strobes and their results, the fail flag, per-pin fail records, the Fail Map and the Fail Log
(R126, R133, R227 to R256). -/

namespace Sys2Proof.Machine

open Sys2Proof

/-! ### MASK_SET (R234 to R236) -/

/-- TABLE of MASK_SET. -/
def maskTable (p : Pkt) : Nat := p.a0 13 12

/-- Ownership of MASK_SET: the group, or the sequencer of TABLE 2 (R235). -/
def maskOwns (h : Hdr) (p : Pkt) (s : State) : Option Fail := if maskTable p = 2 then ownSeq h p s else ownGrp h p s

/-- Form of MASK_SET (R235). [DEDUCED, log 161] -/
def maskForm (p : Pkt) : Option Fail :=
  let b := p.body
  if maskTable p = 0 then lenFail p 0
  else if maskTable p = 1 then
    firstFail [lenFail p 32, failIf ((entriesOf (pktMask p)).any (fun e => decide (rdw (entryAt 16 b e) 2 < rdw (entryAt 16 b e) 1))) 0x030 0x6001]
  else
    let mode := bits (rdw b 0) 9 8
    let n := bits (rdw b 2) 31 16
    firstFail [lenFail p 8, failIf (decide (128 < bits (rdw b 0) 31 24) || mode == 3 || (!p.isE && (mode == 2 || n != 0)) || (mode == 2 && n == 0) || (mode != 2 && n != 0)) 0x030 0x6001]

/-- A range entry of the payload. -/
def rangeOf (e : List Byte) : RangeEnt := { pins := bits (rdw e 0) 31 16, en := bit (rdw e 0) 0, first := rdw e 1, last := rdw e 2 }

/-- MASK_SET as committed. -/
def Cfg.maskSet (k : Cfg) (p : Pkt) : Cfg :=
  if maskTable p = 0 then k.modGrp (pktGroup p) (fun x => { x with pinMask := pktMask p })
  else if maskTable p = 1 then
    k.modGrp (pktGroup p) (fun x => { x with ranges := vmap x.ranges (fun i r => if (pktMask p).testBit i.val then rangeOf (entryAt 16 p.body i) else r) })
  else
    let w := rdw p.body 0
    k.modSeq (pktSeq p) (fun x => { x with fmBlocks := bits w 31 24, fmShift := bits w 23 20, fmClear := bit w 16, logMode := bits w 9 8, fmBase := rdw p.body 1, logN := bits (rdw p.body 2) 31 16, fmPins := rd p.body 16 16 })

/-- A strobe of a vector address is masked (R234). -/
def GrpCfg.masked (g : GrpCfg) (e : Fin 16) (addr : Nat) : Bool :=
  g.pinMask.testBit e.val || g.ranges.toList.any (fun r => r.en && r.pins.testBit e.val && decide (r.first ≤ addr) && decide (addr ≤ r.last))

/-- The Fail Map fields of two configurations of a sequencer agree (R236, R244). -/
def SeqCfg.sameMap (a b : SeqCfg) : Bool := a.fmBlocks == b.fmBlocks && a.fmShift == b.fmShift && a.fmBase == b.fmBase && a.fmPins == b.fmPins

/-- The checks of R236 on the configuration `k` that a commit would make of `k0`, over the sequencers in scope. -/
def State.checks236 (s : State) (k0 k : Cfg) (qs : List (Fin 4)) : Option CheckFail :=
  let total := (k.seqs.toList.map (fun x => x.fmBlocks)).sum
  let changed := (List.finRange 4).find? (fun q => k.seqs[q].fmBlocks != k0.seqs[q].fmBlocks)
  let space : Option CheckFail := if 128 < total then some (0x6010, (changed.getD 0).val) else none
  let pins (q : Fin 4) : Option CheckFail :=
    let x := k.seqs[q]
    let ps := setBits 128 x.fmPins
    let own := ps.all (fun n => s.grps[grpOf (fin 128 n)].seq == some q)
    if x.fmBlocks ≠ 0 ∧ !(1 ≤ ps.length && ps.length ≤ 64 && own) then some (0x6011, q.val) else none
  let run (q : Fin 4) : Option CheckFail :=
    if s.seqs[q].st != .idle && !(k.seqs[q].sameMap k0.seqs[q]) then some (0x6012, q.val) else none
  match (if qs.isEmpty then none else space) with
  | some f => some f
  | none => match firstOf qs pins with
    | some f => some f
    | none => firstOf qs run

/-! ### Strobes (R227 to R233, R237, R238) -/

/-- A counted fail joins a pin's record and counter (R238, R255). -/
def FailRec.add (f : FailRec) (e : StrobeEv) (byte : Nat) (ts : Ts) : FailRec :=
  let new := !f.has || (f.vec == e.vec && decide (ts.fine < f.ts.fine))
  let g := { f with sat := f.sat || f.count == 0xFFFFFFFF, count := min 0xFFFFFFFF (f.count + 1) }
  let z := { g with sealed := g.sealed || e.sealed }
  if new then { z with has := true, result := byte, beat := e.beat, addr := e.addr, vec := e.vec, ts := ts } else z

/-- A result sets the fail flag where its vector lets it: an unmasked fail or invalid result of EL, EH or EM, not of a NOFLAG
vector or a MATCH repetition, not from before the last CLRF (R133). -/
def flagSetting (q : Seq) (r : FlagRes) : Bool := r.isFail && !r.isMatch && !r.noflag && decide (q.clrfVec ≤ r.vec)

/-- The raise of FAIL_Gg for a vector that is still on its way takes an earlier origin (R253). -/
def earlierOrigin (prod vec : Nat) (ts : Ts) (r : Raise) : Raise :=
  if r.prod = prod ∧ r.vec = some vec ∧ ts.fine < r.ts.fine then { r with ts := ts } else r

/-- FAIL_Gg is raised once for each vector with a flag-setting result in the group, 3 ns after the close, with the earliest
timestamp among its flag-setting results (R252, R253). [DEDUCED, log 140] -/
def State.raiseFailG (s : State) (q : Fin 4) (g : Fin 8) (vec close : Nat) (ts : Ts) : State :=
  match s.seqs[q].hist.find? (fun r => r.vec == vec) with
  | none => s
  | some r =>
    if r.failGrps.testBit g.val then s.modTaps (fun m => { m with raises := m.raises.map (earlierOrigin (0x10 + g.val) vec ts) })
    else
      let e : Raise := { prod := 0x10 + g.val, ts := ts, fine := close + nsF 3, vec := some vec }
      (s.modSeq q (fun x => { x with hist := x.hist.map (fun y => if y.vec == vec then { y with failGrps := y.failGrps ||| 2 ^ g.val } else y) })).modTaps (fun m => { m with raises := m.raises ++ [e] })

/-- STROBE: the next strobe of a pin has closed and, 2 ns later, yields its result (R228 to R233, R252). [DEDUCED, log 4] -/
def execStrobe (p : Fin 128) (s : State) : Out :=
  match s.pins[p].strobeQ with
  | [] => .next s
  | e :: rest =>
    if !s.due (e.closes + nsF 2) then .next s
    else
      let g := grpOf p
      let o := s.pins[p].outcome e s.free
      let byte := resultByte e.code o.cls e.masked e.isMatch o.h o.l
      let s0 := { s with free := o.free }
      let ts := s0.tsPin g o.t o.src e.clash
      let s1 := s0.modPin p (fun x => { x with strobeQ := rest, fail := if countedFail byte then x.freshen.fail.add e byte ts else x.freshen.fail, stale := false, sealNext := false })
      match s.grps[g].seq with
      | none => .next s1
      | some q =>
        let fr : FlagRes := { vec := e.vec, ts := ts, close := e.closes, isFail := (o.cls == 1 || o.cls == 2) && !e.masked, isMatch := e.isMatch, noflag := e.noflag, expects := e.code != .cp && !e.masked, grp := g }
        let cr : CapRes := { pin := p, result := byte, beat := e.beat, ts := ts, close := e.closes, vec := e.vec, addr := e.addr, mark := e.mark, beatLog2 := e.beatLog2, noflag := e.noflag, sealed := e.sealed, vstart := e.vstart }
        let s2 := s1.modSeq q (fun x => { x with strobesOut := x.strobesOut - 1, results := x.results ++ [fr], capQ := x.capQ ++ [cr] })
        .next (if flagSetting s2.seqs[q] fr then s2.raiseFailG q g e.vec e.closes ts else s2)

/-! ### The fail flag (R126, R133, R252 to R254) -/

/-- The fail flag of a sequencer goes to set, is raised as a tap and reported (R133, R253, R254). -/
def State.setFlag (s : State) (q : Fin 4) (vec t : Nat) (ts : Ts) : State :=
  if s.seqs[q].flag then s
  else
    let first := !s.seqs[q].failed
    let s1 := s.modSeq q (fun x => { x with flag := true, flagAt := t, failed := true, firstFlag := if first then vec else x.firstFlag, flagHist := (t, true) :: x.flagHist })
    (s1.raise (0x0C + q.val) ts 0 none none).report 0x10 q.val false s.nowGHz vec 0

/-- A result of a MATCH repetition counts toward the pass of its repetition (R126). -/
def Seq.matchResult (x : Seq) (r : FlagRes) : Seq :=
  let upd (y : VecRec) : VecRec :=
    if y.vec == r.vec && r.expects then (if r.isFail then { y with failed := true } else { y with passes := y.passes + 1, passClose := max y.passClose r.close }) else y
  let h := x.hist.map upd
  let pass := match h.find? (fun y => y.vec == r.vec) with
    | none => none
    | some y => if !y.failed && y.passes == y.strobes && decide (x.vecs - x.reps ≤ r.vec) then some (y.passClose + nsF 14) else none
  let inMatch := match x.dec with | .matching _ _ => true | _ => false
  { x with hist := h, passAt := if inMatch && x.passAt.isNone then pass else x.passAt }

/-- One result reaches the sequencer (R133, R252). -/
def State.absorbOne (s : State) (q : Fin 4) (r : FlagRes) : State :=
  if r.isMatch then s.modSeq q (fun x => x.matchResult r)
  else if flagSetting s.seqs[q] r then s.setFlag q r.vec (r.close + nsF 14) r.ts
  else s

/-- Results whose 14 ns have passed by time `t` reach the sequencer, in the order of their strobe closes (R252). -/
def State.absorb (s : State) (q : Fin 4) (t : Nat) : State :=
  let ready (r : FlagRes) : Bool := decide (r.close + nsF 14 ≤ t)
  let rs := sortBy (fun r => r.close) (s.seqs[q].results.filter ready)
  rs.foldl (fun u r => u.absorbOne q r) (s.modSeq q (fun x => { x with results := x.results.filter (fun r => !ready r) }))

/-- FAIL_FLAG_SET: results that have come reach the sequencer and may set its flag (R133, R252). -/
def execFailFlagSet (q : Fin 4) (s : State) : Out := .next (s.absorb q (s.tick * 512 + 511))

/-! ### Fail Map (R241 to R244) -/

/-- Bytes of a Fail Map entry for `k` mapped pins (R241). -/
def entryBytes (k : Nat) : Nat := if k ≤ 8 then 1 else if k ≤ 16 then 2 else if k ≤ 32 then 4 else 8

/-- Size of a Fail Map in bytes (R241). -/
def SeqCfg.mapBytes (k : SeqCfg) : Nat := k.fmBlocks * 65536

/-- Byte offset of the entry of a vector address; none outside the map (R241, R242). -/
def SeqCfg.mapEntry (k : SeqCfg) (addr : Nat) : Option Nat :=
  let w := entryBytes (setBits 128 k.fmPins).length
  let i := (addr - k.fmBase) / 2 ^ k.fmShift
  if k.fmBase ≤ addr ∧ i < k.mapBytes / w then some (i * w) else none

/-- The bit of an entry that belongs to a mapped pin (R241). -/
def SeqCfg.mapBit (k : SeqCfg) (p : Fin 128) : Option Nat := (setBits 128 k.fmPins).idxOf? p.val

/-- One byte of an entry is updated, or skipped if it is uncorrectable (R243). -/
def State.mapByte (s : State) (q : Fin 4) (a : Nat) (d : Byte) : State :=
  match judge (s.fmaps[q].mem.code a) with
  | .bad => ((s.countUe 2 a).modFmap q (fun m => { m with ueSkipped := sat 32 (m.ueSkipped + 1) })).report 0x18 q.val false s.nowGHz a 0
  | _ => s.aliasByte 2 q a (fun b => b ||| d)

/-- Counted fails of one vector update the map; all beats and pins of a vector count as one update (R242). [DEDUCED, log 64] -/
def State.mapUpdate (s : State) (q : Fin 4) (rs : List CapRes) : State :=
  let k := s.cfg.seqs[q]
  if k.fmBlocks = 0 then s
  else
    let all := rs.filter (fun r => countedFail r.result)
    let fails := all.filter (fun r => (k.mapBit r.pin).isSome)
    match all with
    | [] => s
    | r0 :: _ =>
      match k.mapEntry r0.addr with
      | none => s.modFmap q (fun m => { m with outWindow := sat 64 (m.outWindow + all.length) })
      | some off => if fails = [] then s else
        let w := entryBytes (setBits 128 k.fmPins).length
        let v := maskOf (fails.filterMap (fun r => k.mapBit r.pin))
        let s1 := (List.range w).foldl (fun t i => t.mapByte q (off + i) (BitVec.ofNat 8 (v / 256 ^ i))) s
        let again := s1.seqs[q].hist.any (fun y => y.vec == r0.vec && y.mapped)
        let s2 := s1.modSeq q (fun x => { x with hist := x.hist.map (fun y => if y.vec == r0.vec then { y with mapped := true } else y) })
        s2.modFmap q (fun m => { m with updates := if again then m.updates else sat 64 (m.updates + 1), sealed := m.sealed || rs.any (fun r => r.sealed) })

/-! ### Fail Log (R246 to R250) -/

/-- The 32 bytes of a record (R248). -/
def FlogRec.bytes (r : FlogRec) : List Byte :=
  let t := r.ts.val
  words [cut 32 t, cut 32 (t / 2 ^ 32), r.result * 2 ^ 24 + r.type * 2 ^ 20 + b2n r.sealed * 2 ^ 19 + b2n r.noflag * 2 ^ 18 + r.seq.val * 2 ^ 16 + cut 16 (t / 2 ^ 64),
    r.pin * 2 ^ 24 + r.beat * 2 ^ 21 + r.mark * 2 ^ 10, r.addr, r.count] ++ le 8 r.vec

/-- A dropped record joins the LOST record that covers the drops; a LOST record brings the drops that it covers itself. It is
sealed from the first sealed record on (R248, R250, R255). -/
def lostAdd (l : Option FlogRec) (r : FlogRec) : Option FlogRec :=
  let n := if r.type = 1 then r.count else 1
  match l with
  | some x => some { x with count := sat 32 (x.count + n), sealed := x.sealed || r.sealed }
  | none => some { r with type := 1, result := 0, count := n }

/-- FLOG_OVERFLOW is reported once in a burst (R250). -/
def State.flogOverflow (s : State) (q : Fin 4) : State :=
  if s.seqs[q].flogOver then s
  else (s.modSeq q (fun x => { x with flogOver := true })).report 0x17 q.val false s.nowGHz 0 0

/-- A record is staged, behind a LOST record if some were dropped, or dropped (R249, R250). -/
def State.logRec (s : State) (q : Fin 4) (r : FlogRec) : State :=
  let f := s.flogs[q]
  let drop (g : Flog) : Flog := { g with lost := lostAdd g.lost r, droppedBuf := sat 32 (g.droppedBuf + 1) }
  if 2048 ≤ f.staging.length then (s.modFlog q drop).flogOverflow q
  else
    match f.lost with
    | none => s.modFlog q (fun g => { g with staging := g.staging ++ [r] })
    | some l =>
      let s1 := s.modFlog q (fun g => { g with staging := g.staging ++ [l], lost := none })
      if f.staging.length + 1 < 2048 then s1.modFlog q (fun g => { g with staging := g.staging ++ [r] })
      else (s1.modFlog q drop).flogOverflow q

/-- The record of a counted fail, where LOG_MODE asks for it; FIRST_N takes the first LOG_N counted fails of the pin in the burst,
whatever was logged of them (R247, R248). [DEDUCED, log 65] -/
def State.logFail (s : State) (q : Fin 4) (r : CapRes) : State :=
  if !countedFail r.result then s
  else
    let k := s.cfg.seqs[q]
    let n := s.pins[r.pin].logged
    let s1 := s.modPin r.pin (fun x => { x with logged := x.logged + 1 })
    if k.logMode == 1 || (k.logMode == 2 && decide (n < k.logN)) then
      s1.logRec q { ts := r.ts, result := r.result, type := 0, sealed := r.sealed, noflag := r.noflag, seq := q, pin := r.pin.val, beat := r.beat, mark := r.mark, addr := r.addr, vec := r.vec, usable := r.close + nsF 22 }
    else s1

/-- The START record of a burst (R247, R248). [DEDUCED, log 66] -/
def State.logStart (s : State) (q : Fin 4) (sl : Bool) : State :=
  if s.cfg.seqs[q].logMode = 0 then s
  else
    let x := s.seqs[q]
    s.logRec q { ts := { fine := x.startFine, flags := s.tsFlags 1 false false false }, type := 2, sealed := x.sealedVec.isSome || sl, seq := q, addr := x.startVa, vec := 0, usable := x.startFine + nsF 8 }

/-- Records that a sub-ring holds (R246). -/
def Store.flogCapacity (t : Store) : Nat := t.flogUnits * 2097152

/-- A record reaches the sub-ring, behind a LOST record if some were dropped there, or is dropped; a LOST record on its way takes
the drops before it in, so that one LOST record covers every record dropped since the last one written (R250). -/
def State.ringRec (s : State) (q : Fin 4) (r : FlogRec) : State :=
  let f := s.flogs[q]
  let room : Nat := s.store.flogCapacity - (f.ring.length + f.held)
  let put (g : Flog) (x : FlogRec) : Flog := { g with ring := g.ring ++ [x], written := g.written + 1 }
  let drop (g : Flog) : Flog := { g with lostRing := lostAdd g.lostRing r, droppedRing := if r.type = 1 then g.droppedRing else sat 32 (g.droppedRing + 1) }
  match f.lostRing with
  | none => if room = 0 then (s.modFlog q drop).flogOverflow q else s.modFlog q (fun g => put g r)
  | some l =>
    if room = 0 then (s.modFlog q drop).flogOverflow q
    else if r.type = 1 then s.modFlog q (fun g => put { g with lostRing := none } ((lostAdd (some l) r).getD r))
    else if room = 1 then (s.modFlog q (fun g => drop { put g l with lostRing := none })).flogOverflow q
    else s.modFlog q (fun g => put (put { g with lostRing := none } l) r)

/-- The staged records of a sequencer that a FLOG slot can take now, at most 32, oldest first (R249, R252). [DEDUCED, log 66] -/
def State.flogReady (s : State) (q : Fin 4) : List FlogRec := (s.flogs[q].staging.takeWhile (fun r => decide (r.usable ≤ s.metro))).take 32

/-- The sequencer whose staging buffer a FLOG slot serves: the next one in rotation with such a record (R249). -/
def State.flogTurn (s : State) : Option (Fin 4) := ((List.finRange 4).map (fun i => s.flogNext + i)).find? (fun q => !(s.flogReady q).isEmpty)

/-- FLOG_SLOT_DRAIN: a FLOG slot moves up to 32 staged records of one sequencer into its sub-ring (R249). -/
def execFlogSlotDrain (s : State) : Out :=
  if s.slotFree && (s.slot ∈ [4, 20, 36, 52]) then
    match s.flogTurn with
    | none => .next s
    | some q =>
      let rs := s.flogReady q
      let s1 := (s.useSlot.modFlog q (fun f => { f with staging := f.staging.drop rs.length }))
      .next { rs.foldl (fun t r => t.ringRec q r) s1 with flogNext := q + 1 }
  else .next s

/-! ### FAIL_READ (R240) -/

/-- A FAIL_READ entry (R240). -/
def FailRec.bytes (f : FailRec) : List Byte :=
  let t := f.ts.val
  (if f.has then words [f.result * 2 ^ 24 + f.beat * 2 ^ 16 + b2n f.sealed * 4 + b2n f.sat * 2 + 1, f.addr] ++ le 8 f.vec ++ words [cut 32 t, cut 32 (t / 2 ^ 32), cut 16 (t / 2 ^ 64)]
  else words [b2n f.sealed * 4] ++ zeros 24) ++ le 4 f.count

/-- The fail records of a group are sealed (R255). -/
def State.grpSealed (s : State) (g : Fin 8) : Bool := (List.finRange 16).any (fun e => s.pins[pinOf g e].fail.sealed)

/-- FAIL_READ after intake (R240, R255). -/
def failReadBody (h : Hdr) (p : Pkt) (s : State) : State :=
  let g := pktGroup p
  s.unlessFail h (firstFail [lenFail p 0, failIf (s.grpSealed g && !h.isS) 0x090 0x6003]) (fun s =>
    s.reply h 0 0 0 ((List.finRange 16).flatMap (fun e => (s.pins[pinOf g e].fail).bytes)))

/-- FAIL_READ is taken. -/
def takeFailRead (c : Fin 8) (p : Pkt) (s : State) : State := s.deliver c 0x602 p ownGrp noFail failReadBody
/-- FAIL_READ. -/
def execFailRead (c : Fin 8) (p : Pkt) (s : State) : Out := hostCmd s c 0x602 p (takeFailRead c)

/-! ### FAILMAP_READ (R245) -/

/-- The Fail Map status (R245). -/
def State.mapStatus (s : State) (q : Fin 4) : List Byte :=
  let k := s.cfg.seqs[q]
  let m := s.fmaps[q]
  words [k.fmBlocks * 2 ^ 24 + k.fmShift * 2 ^ 20 + b2n m.sealed * 128 + entryBytes (setBits 128 k.fmPins).length, k.fmBase] ++ le 8 m.updates ++ le 8 m.outWindow ++ words [m.ueSkipped, 0]

/-- The entries of a Fail Map read, each with the status of R88. [DEDUCED, log 29] -/
def State.mapRead (s : State) (h : Hdr) (q : Fin 4) (a n : Nat) : State :=
  let k := (n + 262143) / 262144
  (List.range k).foldl (fun t i =>
    let o := a + 262144 * i
    let len := min 262144 (n - 262144 * i)
    let bad := t.badBytes 2 q o len
    let st := if bad.isEmpty then 0 else 0x060
    let e : Entry := { hdr := h, more := decide (i + 1 < k), status := st, detail := if bad.isEmpty then 0 else ueDetail o bad, ts := s.nowGHz, payload := t.sramBytes 2 q o len, wrap := h.isS, finishes := decide (i + 1 = k) }
    (t.meetRange 2 q o len).pushEntry h.mb h.ring e) s

/-- FAILMAP_READ after intake (R245, R255). [DEDUCED, log 68] -/
def failmapReadBody (h : Hdr) (p : Pkt) (s : State) : State :=
  let q := pktSeq p
  let a := p.arg1.toNat
  let n := p.arg3.toNat
  let bad := a % 64 ≠ 0 ∨ n % 64 ≠ 0 ∨ 8388608 < n ∨ (s.cfg.seqs[q]).mapBytes < a + n
  s.unlessFail h (firstFail [lenFail p 0, failIf (decide bad) 0x030 0x6002, failIf (decide (n ≠ 0) && s.fmaps[q].sealed && !h.isS) 0x090 0x6003]) (fun s =>
    if n = 0 then s.reply h 0 0 0 (s.mapStatus q) else s.mapRead h q a n)

/-- FAILMAP_READ is taken. -/
def takeFailmapRead (c : Fin 8) (p : Pkt) (s : State) : State := s.deliver c 0x603 p ownSeq noFail failmapReadBody
/-- FAILMAP_READ of data. -/
def execFailmapRead (c : Fin 8) (p : Pkt) (s : State) : Out := hostCmd s c 0x603 p (takeFailmapRead c)
/-- FAILMAP_READ with SIZE 0. -/
def execFailmapStatus (c : Fin 8) (p : Pkt) (s : State) : Out := hostCmd s c 0x603 { p with arg3 := 0 } (takeFailmapRead c)

/-! ### FAILLOG_DRAIN (R251, R255) -/

/-- The Fail Log status as it stood before a drain that has moved `moved` records (R251). -/
def State.logStatus (s : State) (q : Fin 4) (moved : Nat) : List Byte :=
  let f := s.flogs[q]
  words [f.ring.length + moved, s.store.flogCapacity, f.droppedBuf, f.droppedRing] ++ le 8 f.written ++ zeros 8

/-- FAILLOG_DRAIN after intake (R251). [DEDUCED, log 68] -/
def faillogDrainBody (h : Hdr) (p : Pkt) (s : State) : State :=
  let q := pktSeq p
  s.unlessFail h (lenFail p 0) (fun s =>
    if p.arg1.toNat = 0 || (s.flogs[q].drains.isEmpty && s.flogs[q].ring.isEmpty) then s.reply h 0 0 0 (s.logStatus q 0)
    else s.modFlog q (fun f => { f with drains := f.drains ++ [{ hdr := h, left := p.arg1.toNat }] }))

/-- FAILLOG_DRAIN is taken. -/
def takeFaillogDrain (c : Fin 8) (p : Pkt) (s : State) : State := s.deliver c 0x604 p ownSeq noFail faillogDrainBody
/-- FAILLOG_DRAIN. -/
def execFaillogDrain (c : Fin 8) (p : Pkt) (s : State) : Out := hostCmd s c 0x604 p (takeFaillogDrain c)

/-- An entry of a drain: the status block before its first records, and the status that R88 gives to its data; posting it frees
the space of its records (R251, R346). [DEDUCED, log 68] -/
def State.drainEntry (s : State) (q : Fin 4) (d : DrainOp) (more : Bool) : State :=
  let n := d.got.length / 32
  let o := if d.first then 1 else 0
  s.pushEntry d.hdr.mb d.hdr.ring { hdr := d.hdr, more := more, status := if d.bad.isEmpty then 0 else 0x060, detail := if d.bad.isEmpty then 0 else lineDetail (((d.bad.map (fun i => (i + o) / 2))).eraseDups), ts := s.nowGHz, payload := (if d.first then s.logStatus q d.moved else []) ++ d.got, wrap := d.hdr.isS, finishes := !more, flogFree := if n = 0 then none else some (q, n) }

/-- A drain ends: with its last records, or before the first sealed record (R251, R255). -/
def State.drainEnd (s : State) (q : Fin 4) (d : DrainOp) (blocked : Bool) : State :=
  let s1 := s.modFlog q (fun f => { f with drains := f.drains.drop 1 })
  if blocked then
    let s2 := if d.got.isEmpty then s1 else s1.drainEntry q d true
    s2.pushEntry d.hdr.mb d.hdr.ring { hdr := d.hdr, status := 0x090, sub := 0x6003, ts := s.nowGHz, payload := s.logStatus q d.moved, wrap := d.hdr.isS, finishes := true }
  else s1.drainEntry q d false

/-- Errors of a drain access in the bytes it moves: uncorrectable words stand as stored (R88, R346). -/
def spoiled (errs : List DrainErr) (bs : List Byte) : List Byte :=
  (errs.filter (fun e => e.err.uncorrectable)).foldl (fun l e => flipWord (e.off / 8 * 8) e.err.flip l) bs

/-- Those of the errors that lie in `n` bytes, and the 32-byte units of the uncorrectable ones. -/
def drainBad (errs : List DrainErr) (n : Nat) : List DrainErr × List Nat :=
  let l := errs.filter (fun e => e.off < n)
  (l, sortNat ((l.filter (fun e => e.err.uncorrectable)).map (fun e => e.off / 32)))

/-- Records that one entry of a drain holds: 256 KiB less the status block of the first (R44, R251). -/
def DrainOp.room (d : DrainOp) : Nat := if d.first then 8191 else 8192

/-- One HOSTOUT access of the first drain of a sequencer: up to 32 records, and no more than its entry takes (R251). -/
def State.drainAccess (s : State) (q : Fin 4) (d : DrainOp) (errs : List DrainErr) : State :=
  let have_ := d.got.length / 32
  let rs := ((s.flogs[q].ring.takeWhile (fun r => d.hdr.isS || !r.sealed)).take (min 32 d.left)).take (d.room - have_)
  let k := rs.length
  let e := drainBad errs (32 * k)
  let s1 := (s.storeErrs 1 (e.1.map (fun x => x.err))).modFlog q (fun g => { g with ring := g.ring.drop k, held := g.held + k })
  let d1 : DrainOp := { d with left := d.left - k, moved := d.moved + k, got := d.got ++ spoiled e.1 (rs.flatMap FlogRec.bytes), bad := d.bad ++ e.2.map (fun i => have_ + i) }
  let blocked := decide (d1.left ≠ 0) && (s1.flogs[q].ring.head?.any (fun r => r.sealed && !d.hdr.isS))
  if d1.left = 0 || blocked || s1.flogs[q].ring.isEmpty then s1.drainEnd q d1 blocked
  else if d.room ≤ have_ + k then
    (s1.drainEntry q d1 true).modFlog q (fun g => { g with drains := { d1 with first := false, got := [], bad := [] } :: g.drains.drop 1 })
  else s1.modFlog q (fun g => { g with drains := d1 :: g.drains.drop 1 })

/-- The sequencer whose drain the next HOSTOUT access serves. [DEDUCED, log 67] -/
def State.drainTurn (s : State) : Option (Fin 4) := (List.finRange 4).find? (fun q => !s.flogs[q].drains.isEmpty)

end Sys2Proof.Machine
end

