-- ==== Sys2Proof/Machine/Snare.lean ====
section
/-! DEFINITION. Snare inside: the configuration of an engine, its records, lanes and marks, and what the capture island takes
(R257 to R286). -/

namespace Sys2Proof.Machine

open Sys2Proof

/-! ### CAP_CONFIG (R259, R260) -/

/-- Engine of ARG0 bits 2:0. -/
def pktEng (p : Pkt) : Fin 8 := fin 8 (p.a0 2 0)

/-- The configuration that a CAP_CONFIG packet gives (R259). -/
def capOf (p : Pkt) : CapCfg :=
  let b := p.body
  let w0 := rdw b 0
  let w1 := rdw b 1
  { mode := p.a0 13 12, seq := fin 4 (p.a0 9 8), pre := p.arg1.toNat, post := p.arg2.toNat, seg := p.a3 31 16, kCap := p.a3 4 0, startLevel := bits w0 31 30, noStepUp := bit w0 29, edgeDir := bits w0 26 25, sqQual := bits w0 24 22, tapQual := bits w0 21 20, rawComp := bits w0 19 19, trigRaw := bit w0 18, trigEdge := bits w0 17 16, lanes := bits w0 4 0, trigPin := fin 128 (bits w1 30 24), countLog2 := bits w1 20 16, histLog2 := bits w1 12 8, histBin := bits w1 3 0, n := bits (rdw b 2) 23 0, vtrig := if p.isE then sw b 3 else uvCode (sw b 3), holdoffNs := rdw b 4, autoUs := rdw b 5, histStart := sw b 6, qualNs := rdw b 7, selPins := rd b 32 16, care := rd b 48 16, value := rd b 64 16 }

/-- Ownership of CAP_CONFIG (R257, R259). -/
def capCfgOwns (h : Hdr) (p : Pkt) (s : State) : Option Fail :=
  firstFail [failIf (takenFrom s.caps[pktEng p].owner h) 0x040 0x7003, failIf (notMine s.seqs[(capOf p).seq].owner h) 0x040 0x3002]

/-- Form of CAP_CONFIG (R259). [DEDUCED, log 71] -/
def capForm (p : Pkt) : Option Fail :=
  let k := capOf p
  let bad := k.kCap = 0 ∨ 16 < k.kCap ∨ k.seg = 0 ∨ k.edgeDir = 3 ∨ 6 ≤ k.sqQual ∨ k.tapQual = 3 ∨ k.trigEdge = 3 ∨ k.countLog2 < 4 ∨ 24 < k.countLog2 ∨
    k.histLog2 < 8 ∨ 24 < k.histLog2 ∨ 8 < k.histBin ∨ k.n = 0 ∨ k.autoUs = 0 ∨ 10000000 < k.autoUs ∨ k.value &&& k.care ≠ k.value ∨
    (!p.isE ∧ (k.startLevel ≠ 0 ∨ k.noStepUp))
  firstFail [lenFail p 12, failIf (decide bad) 0x030 0x7001]

/-- CAP_CONFIG as committed. -/
def Cfg.capSet (k : Cfg) (p : Pkt) : Cfg := k.modCap (pktEng p) (fun _ => capOf p)

/-- The engine holds its resources: admitted, armed or draining (R272). -/
def Cap.held (e : Cap) : Bool := e.admitted || e.st != .idle

/-- Fields that an armed engine keeps (R260). -/
def CapCfg.fixed (a b : CapCfg) : Bool :=
  a.mode == b.mode && a.seq == b.seq && a.lanes == b.lanes && a.selPins == b.selPins && a.pre == b.pre && a.post == b.post && a.seg == b.seg &&
  a.kCap == b.kCap && a.countLog2 == b.countLog2 && a.histLog2 == b.histLog2 && a.histBin == b.histBin && a.histStart == b.histStart &&
  a.edgeDir == b.edgeDir && a.startLevel == b.startLevel && a.noStepUp == b.noStepUp

/-- SEQ owns the groups of every pin of a mask. -/
def State.ownsPins (s : State) (q : Fin 4) (mask : Nat) : Bool :=
  (setBits 128 mask).all (fun n => s.grps[grpOf (fin 128 n)].seq == some q)

/-- The checks of R260, in order, each over the engines in scope. -/
def State.checks260 (s : State) (k : Cfg) (es : List (Fin 8)) : Option CheckFail :=
  let chk (sub : Nat) (ok : Fin 8 → Bool) : Option CheckFail := firstOf es (fun e => if ok e then none else some (sub, e.val))
  firstOf [
    (0x7020, fun (e : Fin 8) => let c := k.caps[e]; s.ownsPins c.seq (c.selPins ||| c.care) && c.selPins != 0),
    (0x7021, fun (e : Fin 8) => let c := k.caps[e]; (c.care != 0 || !c.trigRaw) && (c.care == 0 || c.care.testBit c.trigPin.val)),
    (0x7022, fun (e : Fin 8) => let c := k.caps[e]; let x := (k.grps[grpOf c.trigPin]).pins[entOf c.trigPin]; decide (x.vol ≤ c.vtrig) && decide (c.vtrig ≤ x.voh)),
    (0x7023, fun (e : Fin 8) => let c := k.caps[e]; c.lanes != 0 && (c.mode != 3 || (c.tapQual == 0 && c.n == 1))),
    (0x7024, fun (e : Fin 8) => !s.caps[e].held || (k.caps[e]).fixed s.cfg.caps[e])] (fun (sub, ok) => chk sub ok)

/-- A timestamp without the REC flag (R276). -/
def Ts.plain (t : Ts) : Ts := { t with flags := t.flags / 2 * 2 }

/-! ### Fill and the staging buffer (R280, R283) -/

/-- Length of an item in 32-byte units. -/
def CapRec.units (r : CapRec) : Nat := r.bytes.length / 32
/-- Units of a list of items. -/
def unitsOf (l : List CapRec) : Nat := l.foldl (fun n r => n + r.units) 0
/-- Units that the segment holds. -/
def Cap.room (e : Cap) : Nat := e.segHeld * 524288
/-- Units in the staging buffer; of the oldest item some may be written already (R280). -/
def Cap.stageUnits (e : Cap) : Nat := unitsOf e.staging - e.cut
/-- The staging buffer holds the items `l`: what was written of its oldest item counts while that item stays the oldest (R280). -/
def Cap.restage (e : Cap) (l : List CapRec) : Cap := { e with staging := l, cut := if l.head? = e.staging.head? then e.cut else 0 }
/-- Undrained units in the segment (R280). -/
def Cap.ringUnits (e : Cap) : Nat := unitsOf (e.segment.filter (fun r => r.kept)) + (if e.staging.head?.any (fun r => r.kept) then e.cut else 0)
/-- RING_FILL in 1/256 units. -/
def Cap.ringFill (e : Cap) : Nat := min 255 (e.ringUnits * 256 / e.room)
/-- STAGE_FILL in 1/256 units. -/
def Cap.stageFill (e : Cap) : Nat := min 255 (e.stageUnits / 8)
/-- A fill of 25 % or more ends the quiet time of the ladder (R282). -/
def Cap.noteFill (e : Cap) : Cap := if e.room ≤ 4 * e.ringUnits || 512 ≤ e.stageUnits then { e with lowSince := none } else e

/-- RING_POS of heads (R276). -/
def State.ringPos (s : State) : Nat := if s.ring.trained then s.ring.pos % 32 else 0

/-- The head of a record or mark with the bits 26:0 at +0x0C (R276). -/
def State.capHead (s : State) (i : Fin 8) (ts : Ts) (type len low : Nat) : List Byte :=
  let t := ts.val
  words [cut 32 t, cut 32 (t / 2 ^ 32), type * 2 ^ 24 + s.ringPos * 2 ^ 19 + i.val * 2 ^ 16 + cut 16 (t / 2 ^ 64), len * 2 ^ 29 + (s.cfg.caps[i]).seq.val * 2 ^ 27 + low]

/-- A burst vector number as 64 bits; all ones for none. -/
def vecBytes (v : Option Nat) : List Byte := le 8 (v.getD (2 ^ 64 - 1))

/-- An item of vector `v` is sealed (R285). -/
def State.vecSealed (s : State) (i : Fin 8) (v : Option Nat) : Bool :=
  match s.seqs[(s.cfg.caps[i]).seq].sealedVec, v with
  | some a, some b => decide (a ≤ b)
  | _, _ => false

/-- What becomes of an item of vector `v`: none if it is not formed, else whether it belongs to a capture or STREAM. Items of the
last capture's own vectors that come after its end are still its own (R268 to R270). [DEDUCED, log 142] -/
def State.want (s : State) (i : Fin 8) (v : Nat) : Option Bool :=
  let e := s.caps[i]
  if !e.armed then none
  else if (s.cfg.caps[i]).mode = 3 then (if e.taken ≤ v then some true else none)
  else if e.capVec.isSome && decide (e.preFrom ≤ v) && decide (v ≤ e.postVec) then some true
  else if e.st = .ready then (if e.taken ≤ v then some false else none)
  else none

/-- An item of vector `v` that the engine does not take now may still belong to a capture that `v` or a later vector triggers (R269). [DEDUCED, log 142] -/
def Cap.mayTake (e : Cap) (v : Nat) : Bool := (e.st == .waitTap || e.st == .rearm) && decide (e.vecsIn ≤ v)

/-- Engine with an item dropped (R283). -/
def Cap.drop (e : Cap) (r : CapRec) (ts : Ts) : Cap :=
  let first := e.gapRec + e.gapMark == 0
  { e with gapRec := if r.isMark then e.gapRec else e.gapRec + 1, gapMark := if r.isMark then e.gapMark + 1 else e.gapMark, gapRecords := sat 32 (e.gapRecords + 1), gapTs := if first then ts else e.gapTs, gapVec := if first then r.vec else e.gapVec }

/-- The GAP mark of the items dropped (R279, R283). -/
def State.gapItem (s : State) (i : Fin 8) : CapRec :=
  let e := s.caps[i]
  let kept := match e.gapVec with | none => false | some v => s.want i v == some true
  { bytes := s.capHead i e.gapTs.plain 0x16 1 0 ++ vecBytes e.gapVec ++ words [cut 32 e.gapRec, cut 32 e.gapMark], vec := e.gapVec, isMark := true, sealed := s.vecSealed i e.gapVec, level := e.level, kept := kept || (s.cfg.caps[i]).mode == 3 }

/-- An item goes into the staging buffer, behind a GAP mark if some were dropped before it, or is dropped (R280, R283). -/
def State.capPut (s : State) (i : Fin 8) (r : CapRec) (ts : Ts) : State :=
  let e := s.caps[i]
  let gap := e.gapRec + e.gapMark != 0
  if e.room ≤ e.ringUnits || 2048 < e.stageUnits + r.units + b2n gap then s.modCap i (fun x => x.drop r ts)
  else
    let pre := if gap then [s.gapItem i] else []
    s.modCap i (fun x => ({ x with staging := x.staging ++ pre ++ [r], units := x.units + r.units + b2n gap, gapRec := 0, gapMark := 0 }).noteFill)

/-! ### Marks (R279) -/

/-- A mark as an item. [DEDUCED, log 72] -/
def State.markItem (s : State) (i : Fin 8) (ts : Ts) (type low : Nat) (v : Option Nat) (a b : Nat) (kept : Bool) : CapRec :=
  { bytes := s.capHead i ts type 1 low ++ vecBytes v ++ words [cut 32 a, cut 32 b], vec := v, isMark := true, sealed := s.vecSealed i v, level := s.caps[i].level, kept := kept }

/-- A mark that is drained wherever it stands. -/
def State.putMark (s : State) (i : Fin 8) (ts : Ts) (type low : Nat) (v : Option Nat) (a b : Nat) : State :=
  s.capPut i (s.markItem i ts type low v a b true) ts

/-- A USER, LEVEL or BURST mark: drained with the capture that its vector belongs to (R279). -/
def State.putVecMark (s : State) (i : Fin 8) (ts : Ts) (type low : Nat) (v : Option Nat) (a b : Nat) : State :=
  let k := match v with
    | none => if (s.cfg.caps[i]).mode = 3 ∧ s.caps[i].armed then some true else none
    | some n => s.want i n
  match k with
  | none => s
  | some kept => s.capPut i (s.markItem i ts type low v a b kept) ts

/-- A PAD unit completes a store line (R276). -/
def State.putPad (s : State) (i : Fin 8) : State :=
  let e := s.caps[i]
  if e.units % 2 = 1 then s.capPut i { bytes := zeros 32, isMark := true, level := e.level, kept := e.st != .ready || (s.cfg.caps[i]).mode == 3 } s.nowGHz else s

/-- The USER mark of a MARK vector in every engine that takes the sequencer's data (R118, R279). -/
def State.capUser (s : State) (q : Fin 4) (v addr mark operand start : Nat) : State :=
  forFin 8 (fun i t =>
    if t.caps[i].armed && (t.cfg.caps[i]).seq == q then
      t.putVecMark i { fine := start, flags := t.tsFlags 1 false false false } 0x15 (mark % 1024) (some v) operand addr
    else t) s

/-! ### Lanes (R277, R278, R281) -/

/-- The ladder level of data of a vector that begins at `start`: that before the first step that applies later (R282). -/
def Cap.levelFor (e : Cap) (start : Nat) : Nat := e.levels.foldl (fun l x => if start < x.1 then x.2 else l) e.level

/-- A lane is written at a level: 0 L-raw, 1 L-fail, 2 L-count, 3 L-edge, 4 L-hist (R281). -/
def CapCfg.laneOn (k : CapCfg) (lvl lane : Nat) : Bool :=
  k.lanes.testBit lane && decide (lvl ≤ (if lane = 0 then 0 else if lane = 1 then 2 else if lane = 3 then 1 else 3))

/-- A lane record of vector `v` as an item. -/
def State.recItem (s : State) (i : Fin 8) (v start : Nat) (bytes : List Byte) (kept : Bool) : CapRec :=
  { bytes := bytes, vec := some v, sealed := s.vecSealed i (some v), level := s.caps[i].levelFor start, kept := kept }

/-- A lane record of vector `v`, formed if its lane is on and its vector is taken, or may be. -/
def State.putRec (s : State) (i : Fin 8) (lane v start : Nat) (ts : Ts) (bytes : List Byte) : State :=
  if (s.cfg.caps[i]).laneOn (s.caps[i].levelFor start) lane then
    match s.want i v with
    | none => if s.caps[i].mayTake v then s.modCap i (fun e => { e with early := e.early ++ [(s.recItem i v start bytes false, ts)] }) else s
    | some kept => s.capPut i (s.recItem i v start bytes kept) ts
  else s

/-- The data of vector `v` are taken, or may be. -/
def State.forms (s : State) (i : Fin 8) (v : Nat) : Bool := (s.want i v).isSome || s.caps[i].mayTake v

/-- A selected pin feeds the lanes. -/
def CapCfg.sel (k : CapCfg) (p : Fin 128) : Bool := k.selPins.testBit p.val

/-- A FAIL record (R277). -/
def State.putFail (s : State) (i : Fin 8) (r : CapRes) : State :=
  s.putRec i 1 r.vec r.vstart r.ts (s.capHead i r.ts 0x02 1 (r.pin.val * 2 ^ 20 + r.beat * 2 ^ 17 + r.mark * 2 ^ 7) ++ words [r.addr, r.result * 2 ^ 24] ++ le 8 r.vec)

/-- A result joins the L-raw record of its vector and group. -/
def Cap.addRaw (e : Cap) (r : CapRes) : Cap :=
  let g := grpOf r.pin
  let cell := (16 * r.beat + (entOf r.pin).val, r.result)
  if e.raws.any (fun x => x.vec == r.vec && x.grp == g) then
    { e with raws := e.raws.map (fun x => if x.vec == r.vec && x.grp == g then { x with res := x.res ++ [cell] } else x) }
  else { e with raws := e.raws ++ [{ vec := r.vec, grp := g, addr := r.addr, mark := r.mark, beatLog2 := r.beatLog2, start := r.vstart, res := [cell], sealed := r.sealed }] }

/-- One result reaches an engine that serves its sequencer (R258, R277). -/
def State.capResult (s : State) (i : Fin 8) (r : CapRes) : State :=
  let k := s.cfg.caps[i]
  let s1 := if bit r.result 5 then s else s.modCap i (fun e => { e with pats := e.pats ++ [r] })
  if k.sel r.pin && s1.forms i r.vec then
    let cls := bits r.result 7 6
    let s2 := if cls = 1 ∨ cls = 2 then s1.putFail i r else s1
    s2.modCap i (fun e =>
      let e1 := e.addRaw r
      if countedFail r.result then { e1 with lanes := e1.lanes ++ [{ pin := r.pin, vec := r.vec }] } else e1)
  else s1

/-- The L-raw record of a vector and group (R277). -/
def State.putRaw (s : State) (i : Fin 8) (x : RawRow) : State :=
  let beats := 2 ^ x.beatLog2
  let cells := (List.range (16 * beats)).map (fun n => ((x.res.find? (fun c => c.1 == n)).map (fun c => c.2)).getD 0xFF)
  let ts := s.tsPin x.grp x.start 1 false
  let len := 1 + (16 * beats + 31) / 32
  s.putRec i 0 x.vec x.start ts (s.capHead i ts 0x01 len (x.grp.val * 2 ^ 24 + x.beatLog2 * 2 ^ 22 + x.mark * 2 ^ 10) ++ words [x.addr, 0] ++ le 8 x.vec ++ padTo 32 (cells.map (BitVec.ofNat 8)))

/-- The time at which a paired edge passed a level (R221). -/
def interp (cv cl ch : Int) (p : Pair) : Nat :=
  let den := ch - cl
  ((p.tl : Int) + (2 * ((cv - cl) * ((p.th : Int) - p.tl)) + den) / (2 * den)).toNat

/-- A direction is asked for by a field: 0 rising, 1 falling, 2 both (R259). -/
def dirOk (f : Nat) (rising : Bool) : Bool := f == 2 || (f == 0) == rising

/-- One edge reaches an engine (R277, R278). -/
def State.capEdge (s : State) (i : Fin 8) (p : Fin 128) (x : Pair) : State :=
  let k := s.cfg.caps[i]
  if k.sel p && dirOk k.edgeDir x.rising then
    let c := s.pinCfg p
    let t := if x.single then x.t else interp ((c.vol + c.voh) / 2) c.vol c.voh x
    match s.seqs[k.seq].vecAt t with
    | none => s
    | some r =>
      let ts0 := s.tsPin (grpOf p) t (if x.single then 2 else 3) false
      let ts := if x.single then { ts0 with flags := ts0.flags + 1 } else ts0
      let dir := b2n (!x.rising)
      let dt := if x.single then 0 else min 0xFFFF ((x.th : Int) - x.tl).natAbs
      let s1 := s.putRec i 3 r.vec r.start ts (s.capHead i ts 0x04 1 (p.val * 2 ^ 20 + dir * 2 ^ 19) ++ words [r.addr, dt * 2 ^ 16] ++ le 8 r.vec)
      if s1.forms i r.vec then s1.modCap i (fun e => { e with lanes := e.lanes ++ [{ pin := p, vec := r.vec, hist := true, dir := dir, off := (t : Int) - r.start }] }) else s1
  else s

/-! ### Windows (R277) -/

/-- The record kept of vector `v` of a sequencer. -/
def Seq.vecRec (q : Seq) (v : Nat) : Option VecRec := q.hist.find? (fun r => r.vec == v)

/-- First vector of which windows may hold data. -/
def Cap.coverFrom (e : Cap) : Nat := if e.st = .post then e.preFrom else e.taken

/-- A record of a lane with its timestamp: its group or pin, and its bytes. -/
abbrev LaneRec := Ts × List Byte

/-- Start of a vector as the windows of an engine name it. -/
def State.vecStart (s : State) (i : Fin 8) (v : Nat) : Nat := ((s.seqs[(s.cfg.caps[i]).seq].vecRec v).map (fun r => r.start)).getD 0

/-- The COUNT records of vectors `a` to `b` (R277). -/
def State.countRecs (s : State) (i : Fin 8) (a b : Nat) : List LaneRec :=
  let k := s.cfg.caps[i]
  let partial_ := b2n (b + 1 - a != 2 ^ k.countLog2)
  ((List.finRange 8).filter (fun g => (List.finRange 16).any (fun e => k.sel (pinOf g e)))).map (fun g =>
    let n (e : Fin 16) : Nat := if k.sel (pinOf g e) then min 0xFFFE (s.caps[i].lanes.countP (fun x => !x.hist && x.pin == pinOf g e && decide (a ≤ x.vec) && decide (x.vec ≤ b))) else 0xFFFF
    let ts := s.tsPin g (s.vecStart i a) 1 false
    (ts, s.capHead i ts 0x03 2 (g.val * 2 ^ 24 + partial_ * 2 ^ 23) ++ words [b + 1 - a, 0] ++ le 8 a ++ (List.finRange 16).flatMap (fun e => le 2 (n e))))

/-- The HIST record of a pin and direction (R277, R278). -/
def State.histRec (s : State) (i : Fin 8) (a b : Nat) (p : Fin 128) (dir : Nat) : LaneRec :=
  let k := s.cfg.caps[i]
  let partial_ := b2n (b + 1 - a != 2 ^ k.histLog2)
  let evs := s.caps[i].lanes.filter (fun x => x.hist && x.pin == p && x.dir == dir && decide (a ≤ x.vec) && decide (x.vec ≤ b))
  let bin (x : LaneEv) : Int := (x.off - k.histStart) / 2 ^ k.histBin
  let bins := (List.range 64).map (fun n : Nat => min 0xFFFF (evs.countP (fun x => bin x == (n : Int))))
  let out := evs.countP (fun x => decide (bin x < 0) || decide (63 < bin x))
  let ts := s.tsPin (grpOf p) (s.vecStart i a) 1 false
  (ts, s.capHead i ts 0x05 5 (p.val * 2 ^ 20 + dir * 2 ^ 19 + partial_ * 2 ^ 18) ++ words [b + 1 - a, sat 32 out] ++ le 8 a ++ bins.flatMap (le 2))

/-- The HIST records of vectors `a` to `b`. -/
def State.histRecs (s : State) (i : Fin 8) (a b : Nat) : List LaneRec :=
  let k := s.cfg.caps[i]
  ((List.finRange 128).filter (fun p => k.sel p)).flatMap (fun p =>
    ((if dirOk k.edgeDir true then [0] else []) ++ (if dirOk k.edgeDir false then [1] else [])).map (fun d => s.histRec i a b p d))

/-- The records of a window of vectors from `a` on are written. -/
def State.putLane (s : State) (i : Fin 8) (lane a : Nat) (l : List LaneRec) : State :=
  l.foldl (fun t r => t.putRec i lane a (s.vecStart i a) r.1 r.2) s

/-- An edge that lies before a time may still reach the engine: one of its crossings on a selected pin waits for its other, or its
later crossing has not come yet (R220, R262). -/
def State.edgeOpen (s : State) (i : Fin 8) (t : Nat) : Bool :=
  (setBits 128 (s.cfg.caps[i]).selPins).any (fun n =>
    let x := s.pins[fin 128 n]
    let waits (c : Option Cross) : Bool := match c with | none => false | some r => decide (r.t < t)
    waits x.openRise || waits x.openFall || (x.pairs.take (x.pairs.length - x.edgesIn)).any (fun e => decide (min e.tl e.th < t)))

/-- L-hist windows whose edges are all known are written, in order; all of them where no more is waited for (R277). [DEDUCED, log 143] -/
def State.flushHist (s : State) (i : Fin 8) (all : Bool) : State :=
  let fin_ (v : Nat) : Nat := ((s.seqs[(s.cfg.caps[i]).seq].vecRec v).map (fun r => r.fin)).getD 0
  let l := s.caps[i].histDue.takeWhile (fun w => all || !s.edgeOpen i (fin_ w.2))
  l.foldl (fun t w => t.putLane i 4 w.1 (t.histRecs i w.1 w.2)) (s.modCap i (fun e => { e with histDue := e.histDue.drop l.length }))

/-- The window of a size that ends with vector `b`, or is cut there, as far as the engine covers it (R277). -/
def Cap.winTo (e : Cap) (size b : Nat) (cutHere : Bool) : Option (Nat × Nat) :=
  let a := max (b / size * size) e.coverFrom
  let whole := (b + 1) % size == 0
  if (whole != cutHere) && decide (a ≤ b) then some (a, b) else none

/-- Both window lanes for the windows, of their own sizes, that end with vector `b`, or are cut there (R277). -/
def State.putWins (s : State) (i : Fin 8) (b : Nat) (cutHere : Bool) : State :=
  let k := s.cfg.caps[i]
  let s1 := match s.caps[i].winTo (2 ^ k.countLog2) b cutHere with | none => s | some w => s.putLane i 2 w.1 (s.countRecs i w.1 w.2)
  let s2 := match s1.caps[i].winTo (2 ^ k.histLog2) b cutHere with | none => s1 | some w => s1.modCap i (fun e => { e with histDue := e.histDue ++ [w] })
  s2.flushHist i cutHere

/-- The records of the windows that the start of a capture cuts and that were already complete, from the capture's first vector
`a` on (R277, R286). [DEDUCED, log 73] -/
def State.cutWins (s : State) (i : Fin 8) (a from0 : Nat) : List CapRec :=
  let k := s.cfg.caps[i]
  let e := s.caps[i]
  let start := s.vecStart i a
  let one (lane size : Nat) (f : Nat → Nat → List LaneRec) : List CapRec :=
    let z := a / size * size + size - 1
    if max (a / size * size) from0 < a && z < e.vecsIn && !(lane == 4 && e.histDue.any (fun w => w.2 == z)) && k.laneOn (e.levelFor start) lane then
      (f a z).map (fun r => s.recItem i a start r.2 true)
    else []
  one 2 (2 ^ k.countLog2) (s.countRecs i) ++ one 4 (2 ^ k.histLog2) (s.histRecs i)

/-! ### What the capture island takes (R252, R258, R262, R270) -/

/-- Evaluation time of a vector over the pins of a mask: 14 ns after their last strobe, 12 ns after its end (R262). -/
def VecRec.evalAt (r : VecRec) (mask : Nat) : Nat :=
  r.closes.foldl (fun t c => if mask.testBit c.1.val then max t (c.2 + nsF 14) else t) (r.fin + nsF 12)

/-- Every strobe of a vector on the pins of a mask has yielded its result, and the capture island has it (R252). -/
def State.vecClear (s : State) (q : Fin 4) (r : VecRec) (mask : Nat) : Bool :=
  r.closes.all (fun c => !mask.testBit c.1.val || !s.pins[c.1].strobeQ.any (fun e => e.vec == r.vec)) &&
    !s.seqs[q].capQ.any (fun x => mask.testBit x.pin.val && x.vec == r.vec)

/-- The results and edges of a vector have been taken, in a cycle of the capture island. -/
def State.vecReady (s : State) (q : Fin 4) (r : VecRec) (mask : Nat) : Bool :=
  decide (r.evalAt mask ≤ s.edge 2048) && s.vecClear q r mask

/-- All pins. -/
def allPins : Nat := 2 ^ 128 - 1

/-- The pins of a group as a mask. -/
def grpMask (g : Fin 8) : Nat := maskOf ((List.finRange 16).map (fun e => (pinOf g e).val))

/-- L-raw records of a group of which every result has come are written, in the order of their vectors (R277, R286). -/
def State.putRows (s : State) (q : Fin 4) (i : Fin 8) (g : Fin 8) : State :=
  let rows := sortBy (fun (x : RawRow) => x.vec) (s.caps[i].raws.filter (fun x => x.grp == g))
  let full (x : RawRow) : Bool := match s.seqs[q].vecRec x.vec with | none => true | some r => s.vecReady q r (grpMask g)
  let l := rows.takeWhile full
  l.foldl (fun t x => t.putRaw i x) (s.modCap i (fun e => { e with raws := e.raws.filter (fun x => !l.contains x) }))

/-- An engine takes the next vector of the burst if its evaluation time has come: the windows that it ends are written (R270, R277). -/
def State.capVec (s : State) (q : Fin 4) (i : Fin 8) : State :=
  let v := s.caps[i].vecsIn
  match s.seqs[q].vecRec v with
  | none => s
  | some r =>
    if s.vecReady q r (s.cfg.caps[i]).care then
      (s.putWins i v false).modCap i (fun e => { e with vecsIn := v + 1, early := e.early.filter (fun r => decide (v + 1 ≤ r.1.vec.getD 0)) })
    else s

/-- An engine takes every vector that is ready, in order. -/
def State.capVecs (s : State) (q : Fin 4) (i : Fin 8) : State :=
  let s1 := forFin 8 (fun g t => t.putRows q i g) s
  ((List.range (s1.seqs[q].vecs - s1.caps[i].vecsIn)).foldl (fun t _ => t.capVec q i) s1).flushHist i false

/-- The engines that take a sequencer's data (R258). -/
def State.takers (s : State) (q : Fin 4) : List (Fin 8) := (List.finRange 8).filter (fun i => s.caps[i].armed && (s.cfg.caps[i]).seq == q)

/-- Edges of a pin of which the later crossing lies 12 ns back reach the engines (R258, R262). -/
def State.capEdges (s : State) (q : Fin 4) (p : Fin 128) : State :=
  let t0 := s.metro - nsF 12
  let s1 := s.pinEdges p (fun x => x.expire t0 (s.spanOf p))
  let x := s1.pins[p]
  let new := (x.pairs.take (x.pairs.length - x.edgesIn)).reverse.takeWhile (fun e => decide (e.t ≤ t0))
  (new.foldl (fun t e => (t.takers q).foldl (fun u i => u.capEdge i p e) t) s1).modPin p (fun y => { y with edgesIn := y.edgesIn + new.length })

/-- What has come to the capture island by now is taken: results into the Fail Map, the Fail Log and the engines, edges, and
the vectors that they complete (R242, R247, R252, R258). [DEDUCED, log 75] -/
def State.capSync (s : State) (q : Fin 4) : State :=
  let ready (r : CapRes) : Bool := s.due (r.close + nsF 14)
  let rs := sortBy (fun (r : CapRes) => r.close) (s.seqs[q].capQ.filter ready)
  let s1 := s.modSeq q (fun x => { x with capQ := x.capQ.filter (fun r => !ready r) })
  let s2 := (sortNat (rs.map (fun r => r.vec))).foldl (fun t v => t.mapUpdate q (rs.filter (fun r => r.vec == v))) s1
  let s3 := rs.foldl (fun t r => (t.takers q).foldl (fun u i => u.capResult i r) (t.logFail q r)) s2
  let s4 := (s3.pinsOf q).foldl (fun t p => t.capEdges q p) s3
  (s4.takers q).foldl (fun t i => t.capVecs q i) s4

/-- RESULT_TO_CAPTURE: what has come reaches the Fail Map, the Fail Log and the engines (R252). -/
def execResultToCapture (q : Fin 4) (s : State) : Out := .next (s.capSync q)

end Sys2Proof.Machine
end

