-- ==== Sys2Proof/Machine/Capture.lean ====
section
/-! DEFINITION. Capture engines: triggers, captures, arming and disarming, the reduction ladder, and the slots that write and
drain segments (R257 to R286). -/

namespace Sys2Proof.Machine

open Sys2Proof

/-! ### States and the end of a capture (R268 to R271) -/

/-- The MISSED mark of a Bar is written (R271). [DEDUCED, log 73] -/
def State.flushMissed (s : State) (i : Fin 8) : State :=
  let e := s.caps[i]
  match e.missedFirst with
  | none => s
  | some t =>
    let s1 := s.modCap i (fun x => { x with missedFirst := none, missedInBar := 0 })
    s1.putMark i t.ts.plain 0x13 (b2n t.noEdge * 128 + (s.cfg.caps[i]).trigPin.val) t.vec e.missedInBar e.missed

/-- A trigger is missed (R271). [DEDUCED, log 73] -/
def State.capMiss (s : State) (i : Fin 8) (t : Trig) : State :=
  let bar := s.tick / 256
  let s1 := if s.caps[i].missedBar ≠ bar then s.flushMissed i else s
  s1.modCap i (fun x => { x with missed := sat 32 (x.missed + 1), missedBar := bar, missedInBar := x.missedInBar + 1, missedFirst := match x.missedFirst with | none => some t | some u => some u })

/-- The engine becomes READY: it collects pre-trigger data from the first vector not yet taken on (R268, R269). In STREAM every
vector since arm is taken (R271). [DEDUCED, log 142] -/
def State.capReady (s : State) (i : Fin 8) : State :=
  let stream := (s.cfg.caps[i]).mode == 3
  let s1 := s.modCap i (fun x => { x with st := .ready, readyTick := s.tick, taken := if stream then x.taken else x.vecsIn, capVec := none, early := [] })
  s.caps[i].early.foldl (fun t r => t.capPut i r.1 r.2) s1

/-- SEQ of the engine has a burst at the pins. -/
def State.capRuns (s : State) (i : Fin 8) : Bool :=
  let q := s.seqs[(s.cfg.caps[i]).seq]
  q.st == .running || q.st == .ending

/-- A capture ends with its mark; the engine enters REARM, or DONE in SINGLE (R268, R270, R279). `last` is the last vector captured. -/
def State.capEnd (s : State) (i : Fin 8) (reason : Nat) (last : Option Nat) (ts : Ts) : State :=
  let e := s.caps[i]
  let s1 := match last with | none => s | some b => s.putWins i b true
  let post := match last, e.capVec with | some b, some v => b - v | _, _ => 0
  let s2 := (s1.putMark i ts 0x17 reason (last.map (fun b => b + 1)) e.captures post).putPad i
  s2.modCap i (fun x => { x with st := if (s.cfg.caps[i]).mode = 1 then .done else .rearm, rearmAt := s.tick + 256, capVec := if last.isSome then x.capVec else none, postVec := last.getD x.postVec })

/-- A tick as a timestamp of a mark: fine part zero, SRC CLOCK (R154, R279). -/
def State.tickTs (s : State) (fine : Nat) : Ts := { fine := fine / 512 * 512, flags := s.tsFlags 0 false false false }

/-- Start of a vector, if it is known, else the tick of the time given (R279). -/
def State.startTs (s : State) (i : Fin 8) (v : Nat) (d : Nat) : Ts :=
  match s.seqs[(s.cfg.caps[i]).seq].vecRec v with
  | some r => { fine := r.start, flags := s.tsFlags 1 false false false }
  | none => s.tickTs d

/-- The end of a capture whose last post-trigger vector has been taken, or whose burst has ended and been taken (R270). -/
def State.captureDone (s : State) (q : Fin 4) (i : Fin 8) : State :=
  let e := s.caps[i]
  let x := s.seqs[q]
  if e.st != .post then s
  else if e.postVec < e.vecsIn then
    let fin := ((x.vecRec e.postVec).map (fun r => r.fin)).getD x.nextStart
    s.capEnd i 0 (some e.postVec) (s.startTs i (e.postVec + 1) fin)
  else if x.st != .running && x.st != .admitted && x.vecs ≤ e.vecsIn then
    s.capEnd i 1 (some (x.vecs - 1)) (s.tickTs x.endFine)
  else s

/-- A capture in its post-trigger part takes what has come, and may end (R270). -/
def State.captureEnd (s : State) (i : Fin 8) : State :=
  let q := (s.cfg.caps[i]).seq
  (if s.caps[i].st = .post then s.capSync q else s).captureDone q i

/-- CAPTURE_END (R270). -/
def execCaptureEnd (i : Fin 8) (s : State) : Out := .next (s.captureEnd i)

/-- 64 ns after a capture the engine is READY again, or WAIT_TAP (R268). -/
def State.rearmed (s : State) (i : Fin 8) : State :=
  let e := s.caps[i]
  if e.st == .rearm && decide (e.rearmAt ≤ s.tick) then
    let s1 := s.capSync (s.cfg.caps[i]).seq
    if e.armOnTap then s1.modCap i (fun x => { x with st := .waitTap }) else s1.capReady i
  else s

/-- REARM_DONE (R268). -/
def execRearmDone (i : Fin 8) (s : State) : Out := .next (s.rearmed i)

/-! ### Triggers (R262 to R271) -/

/-- An item that a capture from vector `a` on keeps (R269). -/
def keepFrom (a : Nat) (r : CapRec) : Option CapRec :=
  if r.kept then some r
  else match r.vec with
    | none => none
    | some v => if a ≤ v then some { r with kept := true } else none

/-- Items with marks put before the first that is newly kept. -/
def putMarks (a : Nat) (marks l : List CapRec) : List CapRec :=
  let l1 := l.filter (fun r => (keepFrom a r).isSome)
  let pre := l1.takeWhile (fun r => r.kept)
  pre ++ marks ++ (l1.drop pre.length).filterMap (keepFrom a)

/-- The list holds an item that is newly kept. -/
def anyNew (a : Nat) (l : List CapRec) : Bool := l.any (fun r => !r.kept && (keepFrom a r).isSome)

/-- The marks of a new capture, and the records of windows that its start cuts, stand before its other records (R279, R286). -/
def State.capOpen (s : State) (i : Fin 8) (a : Nat) (marks : List CapRec) (ts : Ts) : State :=
  let e := s.caps[i]
  if anyNew a e.segment then
    s.modCap i (fun x => { x.restage (x.staging.filterMap (keepFrom a)) with segment := putMarks a marks x.segment, units := x.units + unitsOf marks })
  else
    let s1 := s.modCap i (fun x => { x with segment := x.segment.filterMap (keepFrom a) })
    if anyNew a e.staging && decide (unitsOf e.staging + unitsOf marks ≤ 2048) then
      s1.modCap i (fun x => { x.restage (putMarks a marks x.staging) with units := x.units + unitsOf marks })
    else marks.foldl (fun t m => t.capPut i m ts) (s1.modCap i (fun x => x.restage (x.staging.filterMap (keepFrom a))))

/-- A trigger that the engine captures (R268, R269, R274). -/
def State.capStart (s : State) (i : Fin 8) (t : Trig) : State :=
  let k := s.cfg.caps[i]
  let e := s.caps[i]
  let n := e.captures + 1
  let type := if t.auto then 0x11 else 0x10
  let low := b2n t.tap * 256 + b2n t.noEdge * 128 + k.trigPin.val
  let s1 := s.modCap i (fun x => { x with captures := n })
  let s2 :=
    if k.mode = 3 then
      (s1.putMark i t.ts type low t.vec 0 t.addr).modCap i (fun x => { x with st := .rearm, rearmAt := s.tick + 256 })
    else
      match t.vec with
      | none => (s1.putMark i t.ts type low none n t.addr).capEnd i 3 none t.ts
      | some v =>
        let pre := min k.pre (v - max e.taken e.heldFrom)
        let a := v - pre
        let s' := s1.modCap i (fun x => { x with st := .post, preFrom := a, postVec := v + k.post, capVec := some v })
        let short := if pre < k.pre then [s'.markItem i (s.startTs i a 0) 0x12 0 (some a) pre k.pre true] else []
        s'.capOpen i a (short ++ [s'.markItem i t.ts type low (some v) n t.addr true] ++ s'.cutWins i a e.taken) t.ts
  if t.tap then s2.reRaise (0x20 + i.val) t.ts (t.hop + 1) else s2.raise (0x20 + i.val) t.ts 0 none none

/-- A trigger: captured in READY, missed in another armed state (R265, R268, R271). [DEDUCED, log 72] -/
def State.capTrigger (s : State) (i : Fin 8) (t : Trig) : State :=
  let s1 := s.modCap i (fun x => { x with triggers := x.triggers + 1, lastTrig := some t.ts.fine, holdFrom := some t.ts.fine, autos := if t.auto then sat 32 (x.autos + 1) else x.autos })
  if s.caps[i].st = .ready then s1.capStart i t else s1.capMiss i t

/-- Both qualifiers pass (R264). -/
def State.qualified (s : State) (i : Fin 8) (r : VecRec) (t : Nat) : Bool :=
  let k := s.cfg.caps[i]
  let e := s.caps[i]
  let sq := if k.sqQual = 1 then r.sq else if k.sqQual = 2 then !r.sq else if k.sqQual = 3 then r.flagSet else if k.sqQual = 4 then !r.flagSet else if k.sqQual = 5 then r.waitRep else true
  let base := e.lastTrig.getD (e.armTick * 512)
  let tap := if k.tapQual = 1 then e.qualTaps.any (fun x => decide (base < x) && decide (x < t))
    else if k.tapQual = 2 then e.qualTaps.any (fun x => decide (t ≤ x + nsF k.qualNs) && decide (x ≤ t)) else true
  sq && tap

/-- An occurrence evaluated in the cycle that begins at `at_`: if it is qualified and past the holdoff it counts, and the N-th is a
trigger, from which the count restarts (R264, R265). -/
def State.capOccur (s : State) (i : Fin 8) (r : VecRec) (t : Trig) (at_ : Nat) : State :=
  let k := s.cfg.caps[i]
  let e := s.caps[i]
  let past := match e.holdFrom with | none => true | some h => decide (h + nsF k.holdoffNs ≤ t.ts.fine)
  if s.qualified i r t.ts.fine && past then
    if k.n ≤ e.count + 1 then (s.modCap i (fun x => { x with count := 0, patAt := some at_ })).capTrigger i t else s.modCap i (fun x => { x with count := x.count + 1 })
  else s

/-- The value of a CARE pin in a vector; none if it is absent (R262). -/
def Cap.pinValue (e : Cap) (p v : Nat) : Option Bool :=
  let rs := e.pats.filter (fun r => r.pin.val == p && r.vec == v)
  if rs.isEmpty then none else some (rs.any (fun r => bits r.result 7 6 == 1 || bits r.result 7 6 == 2))

/-- A timestamp of TRIG_PIN. [DESIGN CHOICE, log 70] -/
def State.tsTrig (s : State) (i : Fin 8) (t src : Nat) (noInterp : Bool) : Ts :=
  let x := s.tsPin (grpOf (s.cfg.caps[i]).trigPin) t src false
  { x with flags := x.flags + b2n noInterp }

/-- The trigger time of an edge of TRIG_PIN, at level VTRIG (R221, R266). -/
def State.edgeTs (s : State) (i : Fin 8) (x : Pair) : Ts :=
  let k := s.cfg.caps[i]
  let c := s.pinCfg k.trigPin
  if x.single then s.tsTrig i x.t 2 true else s.tsTrig i (interp k.vtrig c.vol c.voh x) 3 false

/-- The occurrence that a vector of the RESULT pattern is, with its trigger time; a crossing that has found no other yet is a
single one (R262, R266); the time is a free value where
TRIG_PIN has neither an edge nor a result in the vector. [DESIGN CHOICE, log 70] -/
def State.resultTrig (s : State) (i : Fin 8) (r : VecRec) : State × Trig :=
  let k := s.cfg.caps[i]
  let x0 := s.pins[k.trigPin]
  let es := sortBy (fun (x : Pair) => x.t) ((x0.pairs ++ (x0.openRise.toList ++ x0.openFall.toList).map Cross.alone).filter (fun x => dirOk k.trigEdge x.rising && decide (r.start ≤ x.t) && decide (x.t < r.fin)))
  match es.find? (fun x => !x.single), es.head? with
  | some x, _ => (s, { ts := s.edgeTs i x, vec := some r.vec, addr := r.addr })
  | none, some x => (s, { ts := s.edgeTs i x, vec := some r.vec, addr := r.addr })
  | none, none =>
    let rs := sortBy (fun (x : CapRes) => x.close) (s.caps[i].pats.filter (fun x => x.pin == k.trigPin && x.vec == r.vec))
    match rs with
    | x :: _ => (s, { ts := x.ts, vec := some r.vec, addr := r.addr, noEdge := true })
    | [] => (s.drawn, { ts := s.tsTrig i s.freeVal 1 false, vec := some r.vec, addr := r.addr, noEdge := true })

/-- The RESULT pattern is evaluated for the next vector that is ready (R262). [DEDUCED, log 69] -/
def State.evalResult (s : State) (q : Fin 4) (i : Fin 8) : State :=
  let k := s.cfg.caps[i]
  let due := sortBy (fun (r : VecRec) => r.evalAt k.care) (s.seqs[q].hist.reverse.filter (fun r => !s.caps[i].evald.contains r.vec && s.vecReady q r k.care))
  match due with
  | [] => s
  | r :: _ =>
    let e := s.caps[i]
    let occ := (setBits 128 k.care).all (fun p => e.pinValue p r.vec == some (k.value.testBit p))
    let s1 := if occ then let (s', t) := s.resultTrig i r; s'.capOccur i r t (s.edgeFrom 2048 (r.evalAt k.care)) else s
    s1.modCap i (fun x => { x with evald := r.vec :: x.evald, pats := x.pats.filter (fun y => y.vec != r.vec) })

/-- The RAW pattern is met at a time (R263). -/
def State.rawMet (s : State) (i : Fin 8) (t : Nat) : Bool :=
  let k := s.cfg.caps[i]
  (setBits 128 k.care).all (fun n =>
    let x := s.pins[fin 128 n]
    let c := if k.rawComp = 0 then x.voh.stateAt true x.crosses t else x.vol.stateAt false x.crosses t
    c == (if k.value.testBit n then CompSt.high else CompSt.low))

/-- Times of crossings of CARE pins after the last one applied, up to 12 ns back and before the end of the burst (R258, R263). -/
def State.rawTimes (s : State) (i : Fin 8) : List Nat :=
  let k := s.cfg.caps[i]
  let e := s.caps[i]
  let ts := (setBits 128 k.care).flatMap (fun n => (s.pins[fin 128 n].crosses.filter (fun c => c.voh == (k.rawComp == 0))).map (fun c => c.t))
  let x := s.seqs[k.seq]
  sortNat (ts.filter (fun t => decide (e.rawAt < t) && decide (t + nsF 12 ≤ s.edge 2048) && (x.st != .ending || decide (t < x.endFine))))

/-- The first time at which the pattern goes from not met to met, with the last time applied and the state there (R263). -/
def firstMet (met : Nat → Bool) : Bool → Nat → List Nat → Option Nat × Nat × Bool
  | prev, last, [] => (none, last, prev)
  | prev, last, t :: ts => if met t && !prev then (some t, t, true) else firstMet met (met t) (max last t) ts

/-- The edge of TRIG_PIN that a RAW occurrence is placed on: that of its last crossing in the direction (R266). -/
def State.rawEdge (s : State) (i : Fin 8) (t : Nat) : Option Pair :=
  let k := s.cfg.caps[i]
  let x := s.pins[k.trigPin]
  match x.crosses.find? (fun c => dirOk k.trigEdge c.rising && decide (c.t ≤ t)) with
  | none => none
  | some c => some ((x.pairs.find? (fun p => !p.single && p.t == c.t && p.rising == c.rising)).getD c.alone)

/-- The RAW pattern is evaluated up to its next occurrence (R263). -/
def State.evalRaw (s : State) (q : Fin 4) (i : Fin 8) : State :=
  let e := s.caps[i]
  let (o, last, prev) := firstMet (s.rawMet i) e.rawPrev e.rawAt (s.rawTimes i)
  let s1 := s.modCap i (fun x => { x with rawAt := last, rawPrev := prev })
  match o with
  | none => s1
  | some t =>
    match s.seqs[q].hist.find? (fun r => decide (r.start ≤ t)) with
    | none => s1
    | some r =>
      let ts := match s.rawEdge i t with | some x => (s.edgeTs i x, false) | none => (s.tsTrig i t 2 false, true)
      s1.capOccur i r { ts := ts.1, vec := some r.vec, addr := r.addr, noEdge := ts.2 } (s.edgeFrom 2048 (t + nsF 12))

/-- Evaluations of the trigger pattern that may be due. -/
def State.evalsDue (s : State) (i : Fin 8) : Nat :=
  let k := s.cfg.caps[i]
  if k.trigRaw then (s.rawTimes i).length
  else (s.seqs[k.seq].hist.filter (fun r => !s.caps[i].evald.contains r.vec && s.vecReady k.seq r k.care)).length

/-- The trigger pattern of an armed engine is evaluated as far as it is due (R262, R263). -/
def State.trigEval (s0 : State) (i : Fin 8) : State :=
  let k := s0.cfg.caps[i]
  if s0.caps[i].armed && s0.capRuns i then
    let s := (s0.capSync k.seq).rearmed i
    (List.range (s.evalsDue i)).foldl (fun t _ => if k.trigRaw then t.evalRaw k.seq i else t.evalResult k.seq i) s
  else s0.rearmed i

/-- TRIGGER_EVAL (R262). -/
def execTriggerEval (i : Fin 8) (s : State) : Out := .next (s.trigEval i)

/-- A forced trigger in the cycle that begins at `at_`: a pattern trigger evaluated in the same cycle takes its place (R267). -/
def State.forced (s : State) (i : Fin 8) (ts : Ts) (tap auto : Bool) (hop at_ : Nat) : State :=
  let s1 := s.trigEval i
  if s1.caps[i].patAt = some at_ then s1
  else
    let r := s1.seqs[(s1.cfg.caps[i]).seq].hist.find? (fun r => decide (r.start ≤ ts.fine))
    s1.capTrigger i { ts := ts, vec := r.map (fun x => x.vec), addr := (r.map (fun x => x.addr)).getD 0, noEdge := true, tap := tap, hop := hop, auto := auto }

/-- AUTO_TRIGGER: in AUTO, no trigger within AUTO_US of READY (R267). -/
def execAutoTrigger (i : Fin 8) (s0 : State) : Out :=
  let s := s0.trigEval i
  let e := s.caps[i]
  let k := s.cfg.caps[i]
  .next (if k.mode = 2 ∧ e.st = .ready ∧ e.readyTick + usT k.autoUs ≤ s.tick then s.forced i s.nowGHz false true 0 (s.edge 2048) else s)

/-- A commit strobe with trigger fields reaches an engine: what was due under the old fields has been evaluated, and from here on
the new ones apply. The occurrence count restarts, the holdoff ends and the AUTO timeout restarts (R261). -/
def State.capStrobed (s : State) (i : Fin 8) : State :=
  let k := s.cfg.caps[i]
  let now := s.edge 2048
  let done := (s.seqs[k.seq].hist.filter (fun r => decide (r.evalAt k.care ≤ now))).map (fun r => r.vec)
  s.modCap i (fun x =>
    let at_ := max x.rawAt (now - nsF 12)
    { x with count := 0, holdFrom := none, readyTick := s.tick, evald := done, rawAt := at_, rawPrev := s.rawMet i at_ })

/-! ### Bursts as the engines see them (R258, R270, R279) -/

/-- Vector 0 of a burst begins: pre-trigger data of an earlier burst is gone, and the BURST mark is written. -/
def State.capBurstStart (s : State) (q : Fin 4) : State :=
  (s.takers q).foldl (fun t i =>
    let t1 := t.modCap i (fun e => { e.restage (e.staging.filter (fun r => r.kept)) with vecsIn := 0, evald := [], lanes := [], raws := [], pats := [], early := [], histDue := [], capVec := none, patAt := none, taken := 0, heldFrom := 0, rawAt := t.seqs[q].startFine, rawPrev := false, segment := e.segment.filter (fun r => r.kept) })
    t1.putVecMark i { fine := t.seqs[q].startFine, flags := t.tsFlags 1 false false false } 0x18 0 (some 0) t.seqs[q].startVa 0) s

/-- Every vector of a burst has been taken by the engines that serve it: its evaluation time has come (R143, R262). -/
def State.capTaken (s : State) (q : Fin 4) : Bool :=
  (s.takers q).isEmpty || s.seqs[q].hist.all (fun r => decide (r.evalAt allPins ≤ s.edge 2048))

/-- A burst has ended and all of it has been taken: open captures and windows end, and the BURST mark is written. [DEDUCED, log 78] -/
def State.capBurstEnd (s0 : State) (q : Fin 4) : State :=
  let s := s0.capSync q
  (s.takers q).foldl (fun t i =>
    let x := t.seqs[q]
    let t1 := (t.trigEval i).captureEnd i
    let t2 := if (t.cfg.caps[i]).mode = 3 ∧ x.vecs ≠ 0 then t1.putWins i (x.vecs - 1) true else t1
    let t3 := t2.putVecMark i (t.tickTs x.endFine) 0x18 (x.endReason * 16 + 1) (some x.vecs) x.endAddr 0
    (if (t.cfg.caps[i]).mode = 3 then t3.putPad i else t3).modCap i (fun e => { e.restage (e.staging.filter (fun r => r.kept)) with taken := if e.st = .ready then x.vecs + 1 else e.taken, segment := e.segment.filter (fun r => r.kept) })) s

/-! ### Engine status and disarming (R275) -/

/-- STATE of the status block. -/
def CapSt.code : CapSt → Nat
  | .idle => 0
  | .waitTap => 1
  | .ready => 2
  | .post => 3
  | .rearm => 4
  | .done => 5
  | .draining => 6

/-- The engine status block (R275). -/
def State.capBlock (s : State) (i : Fin 8) : List Byte :=
  let e := s.caps[i]
  words [e.endCause * 16 + i.val, e.ringFill * 2 ^ 24 + e.stageFill * 2 ^ 16 + e.level * 256 + e.st.code, cut 32 e.captures, cut 32 e.triggers, e.missed, e.autos, e.gapRecords, cut 32 e.blocks] ++
    le 8 e.bytes ++ le 8 e.stateTick ++ words [e.stepsDown * 65536 + e.stepsUp, 0, 0, 0]

/-- Something of the engine is still to be drained. -/
def Cap.undrained (e : Cap) : Bool := e.staging.any (fun r => r.kept) || e.segment.any (fun r => r.kept)

/-- A draining engine with nothing left gives up its resources and answers CAP_ARM, then the CAP_DISARMs (R275). [DEDUCED, log 78] -/
def State.capSettle (s : State) (i : Fin 8) : State :=
  let e := s.caps[i]
  if e.st = .draining ∧ !e.undrained then
    let s1 := s.modCap i (fun x => { x with st := .idle, admitted := false, hdr := none, disarms := [], releaseAfter := false, slots := [], segHeld := 0, kHeld := 0, staging := [], cut := 0, segment := [], raws := [], lanes := [], pats := [], early := [], histDue := [], owner := if x.releaseAfter then .none else x.owner })
    let s2 := match e.hdr with | none => s1 | some h => s1.reply h 0 0 0 (s1.capBlock i)
    e.disarms.foldl (fun t h => t.reply h 0 0 1 []) s2
  else s

/-- The engine stops taking data (R275). -/
def State.capStop (s : State) (i : Fin 8) : State :=
  let e := s.caps[i]
  let q := (s.cfg.caps[i]).seq
  let x := s.seqs[q]
  if e.armed then
    let s1 := s.flushMissed i
    let last := if e.vecsIn = 0 then none else some (e.vecsIn - 1)
    let s2 := if e.st = .post then s1.capEnd i 2 (last.map (fun b => min b e.postVec)) (s.startTs i e.vecsIn s.metro)
      else if (s.cfg.caps[i]).mode = 3 then (match last with | none => s1 | some b => s1.putWins i b true) else s1
    let s3 := s2.putMark i s.nowGHz 0x19 1 ((x.hist.find? (fun r => decide (r.start ≤ s.metro))).map (fun r => r.vec)) 0 0
    s3.putPad i
  else s

/-- An engine is disarmed with a cause; its segment is drained, or dropped (R275). -/
def State.capDisarm (s : State) (i : Fin 8) (cause : Nat) (discard : Bool) : State :=
  let dropAll (x : Cap) : Cap := if discard then { x with staging := [], cut := 0, segment := [] } else x
  if s.caps[i].st = .draining then (s.modCap i dropAll).capSettle i
  else
    ((s.capStop i).modCap i (fun x => dropAll { x.restage (x.staging.filter (fun r => r.kept)) with st := .draining, admitted := false, endCause := cause, stateTick := s.tick, segment := x.segment.filter (fun r => r.kept) })).capSettle i

/-- SINGLE_DRAINED: a SINGLE capture has been drained and the engine disarms (R268). -/
def execSingleDrained (i : Fin 8) (s : State) : Out :=
  if s.caps[i].st = .done ∧ !s.caps[i].undrained then .next (s.capDisarm i 2 false) else .next s

/-- CAP_DISARM and CAP_QUERY after intake (R275). -/
def capDisarmBody (h : Hdr) (p : Pkt) (s : State) : State :=
  let i := pktEng p
  s.unlessFail h (lenFail p 0) (fun s =>
    if p.b0 10 then s.reply h 0 0 0 (s.capBlock i)
    else if s.caps[i].held then
      (s.modCap i (fun x => { x with disarms := x.disarms ++ [h], releaseAfter := x.releaseAfter || p.b0 8 })).capDisarm i 0 (p.b0 9)
    else ((if p.b0 8 then s.modCap i Cap.released else s)).ok h)

/-- The engine is the sender's (R257). [DEDUCED, log 79] -/
def engOwns (h : Hdr) (p : Pkt) (s : State) : Option Fail := failIf (notMine s.caps[pktEng p].owner h) 0x040 0x7003

/-- CAP_DISARM is taken. -/
def takeCapDisarm (c : Fin 8) (p : Pkt) (s : State) : State := s.deliver c 0x703 p engOwns noFail capDisarmBody
/-- CAP_DISARM without QUERY. -/
def execCapDisarm (c : Fin 8) (p : Pkt) (s : State) : Out := hostCmd s c 0x703 (p.withA0 10 10 0) (takeCapDisarm c)
/-- CAP_DISARM with QUERY. -/
def execCapQuery (c : Fin 8) (p : Pkt) (s : State) : Out := hostCmd s c 0x703 (p.withA0 10 10 1) (takeCapDisarm c)

/-! ### Arming (R272, R273) -/

/-- The engine is armed already (R272). -/
def armBusy (_ : Hdr) (p : Pkt) (s : State) : Option Fail := failIf s.caps[pktEng p].held 0x010 0x0030

/-- The arm record (R273). -/
def armRecord (i : Fin 8) (k : CapCfg) (tick : Nat) : List Byte :=
  words [k.kCap * 65536 + k.mode * 4096 + k.seq.val * 256 + i.val, k.seg] ++ le 8 tick ++ zeros 16

/-- CAP_ARM after intake: steps 3 to 6 of R272, then admission (R273). -/
def capArmBody (h : Hdr) (p : Pkt) (s : State) : State :=
  let i := pktEng p
  let k := s.cfg.caps[i]
  let segs : Nat := (s.caps.toList.map (fun e => e.segHeld)).sum
  let avail := min (16 - s.capHeld) s.placeable
  s.unlessFail h (firstFail [lenFail p 0, failIf (k.lanes == 0) 0x030 0x7002,
      failIf (notMine s.seqs[k.seq].owner h || !s.ownsPins k.seq (k.selPins ||| k.care)) 0x040 0x3001,
      failIf (decide (s.store.capUnits * 16 < segs + k.seg)) 0x021 0x7011]) (fun s =>
    if avail < k.kCap then s.reply h 0x020 0x7010 (k.kCap * 256 + avail) []
    else
      let tick := (s.tick / 256 + 1) * 256
      let s1 := s.modCap i (fun e => { owner := e.owner, admitted := true, armOnTap := p.b0 9, hdr := some h, slots := s.placeSlots k.kCap, segHeld := k.seg, kHeld := k.kCap, armTick := tick, endCause := e.endCause, stateTick := e.stateTick, level := k.startLevel, lastStep := tick })
      s1.pushEntry h.mb h.ring { hdr := h, more := true, ts := s.nowSI, payload := armRecord i k tick })

/-- CAP_ARM is taken. -/
def takeCapArm (c : Fin 8) (p : Pkt) (s : State) : State := s.deliver c 0x702 p engOwns armBusy capArmBody
/-- CAP_ARM. -/
def execCapArm (c : Fin 8) (p : Pkt) (s : State) : Out := hostCmd s c 0x702 p (takeCapArm c)

/-- CAP_ARMED: the first Bar after admission begins (R272, R279). [DEDUCED, log 75] -/
def execCapArmed (i : Fin 8) (s : State) : Out :=
  let e := s.caps[i]
  if e.admitted && decide (e.armTick ≤ s.tick) then
    let q := s.seqs[(s.cfg.caps[i]).seq]
    let run := s.capRuns i
    let first := if run then (q.hist.filter (fun r => decide (r.start < e.armTick * 512))).length else 0
    let s1 := s.modCap i (fun x =>
      let y : Cap := { x with admitted := false, stateTick := e.armTick, vecsIn := first, evald := List.range first, taken := first, rawAt := e.armTick * 512 }
      { y with st := .waitTap })
    let s2 := if e.armOnTap then s1 else s1.capReady i
    .next (s2.putMark i (s.tickTs (e.armTick * 512)) 0x19 0 ((q.hist.find? (fun r => decide (r.start ≤ e.armTick * 512))).map (fun r => r.vec)) 0 0)
  else .next s

/-! ### Taps at an engine (R274) -/

/-- An ARM tap (R268). -/
def State.capArmTap (s : State) (i : Fin 8) : State :=
  if s.caps[i].st = .waitTap then s.capReady i else s
/-- A QUAL tap is recorded (R264). -/
def State.capQualTap (s : State) (i : Fin 8) (t : Nat) : State := s.modCap i (fun x => { x with qualTaps := x.qualTaps ++ [t] })

/-! ### The ladder (R282) -/

/-- A step of the ladder with its LEVEL mark (R282). [DEDUCED, log 74] -/
def State.ladderStep (s : State) (i : Fin 8) (cause new : Nat) : State :=
  let e := s.caps[i]
  let q := s.seqs[(s.cfg.caps[i]).seq]
  let now := s.tick * 512
  let at_ := match q.hist.reverse.find? (fun r => decide (now ≤ r.start)) with
    | some r => (some r.vec, r.start)
    | none => if q.st = SeqSt.running then (some q.vecs, q.nextStart) else (none, s.edge 2048 / 512 * 512)
  let src := if at_.1.isSome then 1 else 0
  let s1 := s.modCap i (fun x => { x with level := new, levels := (now, x.level) :: x.levels, lastStep := s.tick, lastDown := if cause = 2 then x.lastDown else some (s.tick / 256), stepsDown := if cause = 2 then x.stepsDown else sat 16 (x.stepsDown + 1), stepsUp := if cause = 2 then sat 16 (x.stepsUp + 1) else x.stepsUp })
  s1.putVecMark i { fine := at_.2, flags := s.tsFlags src false false false } 0x14 (cause * 16 + e.level * 4 + new) at_.1 e.ringFill e.stageFill

/-- LADDER_EVAL: at a Bar start the ladder may step (R282), and the MISSED mark of the last Bar is written (R271). -/
def execLadderEval (i : Fin 8) (s0 : State) : Out :=
  if s0.caps[i].armed && s0.tick % 256 == 0 then
    let s := if s0.caps[i].missedBar ≠ s0.tick / 256 then s0.flushMissed i else s0
    let e := s.caps[i]
    let k := s.cfg.caps[i]
    let ring := e.ringUnits
    let stage := e.stageUnits
    let high := decide (3 * e.room < 4 * ring)
    let down := (high || decide (1536 < stage)) && decide (e.level < 3) && (match e.lastDown with | none => true | some b => decide (b + 16 ≤ s.tick / 256))
    let low := decide (4 * ring < e.room) && decide (stage < 512)
    let since := if low then some (e.lowSince.getD s.tick) else none
    let up := (match since with | none => false | some t => decide (t + msT 1 ≤ s.tick)) && decide (e.lastStep + msT 1 ≤ s.tick) && decide (k.startLevel < e.level) && !k.noStepUp
    let s1 := s.modCap i (fun x => { x with lowSince := since })
    .next (if down then s1.ladderStep i (if high then 0 else 1) (e.level + 1) else if up then s1.ladderStep i 2 (e.level - 1) else s1)
  else .next s0

/-! ### Slots (R280, R284, R285) -/

/-- Space for an item in the segment: pre-trigger data is overwritten, oldest first (R280). -/
def Cap.makeRoom (e : Cap) (n : Nat) : Nat → Cap
  | 0 => e
  | k + 1 =>
    if unitsOf e.segment + n ≤ e.room then e
    else
      match e.segment.find? (fun r => !r.kept) with
      | none => e
      | some r => Cap.makeRoom { e with segment := e.segment.erase r, heldFrom := max e.heldFrom ((r.vec.getD 0) + 1) } n k

/-- One access writes up to 32 units of staged items, an item in parts where it reaches over the access; an item that finds no
space waits (R280). -/
def Cap.writeUnits (e : Cap) : Nat → Nat → Cap
  | 0, _ => e
  | k + 1, left =>
    match e.staging with
    | [] => e
    | r :: rest =>
      let e1 := e.makeRoom r.units e.segment.length
      if e1.room < unitsOf e1.segment + r.units then e1
      else if left < r.units - e1.cut then { e1 with cut := e1.cut + left }
      else Cap.writeUnits { e1 with staging := rest, cut := 0, segment := e1.segment ++ [r] } k (left - (r.units - e1.cut))

/-- CAP_SLOT_WRITE: a CAP slot of the engine writes 1,024 bytes of staged items to its segment (R280). -/
def execCapSlotWrite (i : Fin 8) (s : State) : Out :=
  let e := s.caps[i]
  if s.slotFree && e.slots.contains s.slot && !e.staging.isEmpty then
    .next (s.useSlot.modCap i (fun x => (x.writeUnits 32 32).noteFill))
  else .next s

/-- Items from the front that make up at most `n` units. -/
def takeUnits : Nat → List CapRec → List CapRec
  | _, [] => []
  | n, r :: l => if r.units ≤ n then r :: takeUnits (n - r.units) l else []

/-- The timestamp in the head of an item (R276). -/
def CapRec.ts (r : CapRec) : Ts :=
  let v := rd r.bytes 0 8 + 2 ^ 64 * rd r.bytes 8 2
  { fine := v / 128, flags := v % 128 }

/-- Sealed items replaced by one GAP mark, REASON SEALED (R285). -/
def State.unsealed (s : State) (i : Fin 8) (l : List CapRec) : List CapRec :=
  let bad := l.filter (fun r => r.sealed)
  match bad with
  | [] => l
  | r0 :: _ =>
    let g : CapRec := { bytes := s.capHead i r0.ts.plain 0x16 1 1 ++ vecBytes r0.vec ++ words [bad.countP (fun r => !r.isMark), bad.countP (fun r => r.isMark)], vec := r0.vec, isMark := true, level := r0.level, kept := true }
    l.takeWhile (fun r => !r.sealed) ++ [g] ++ (l.dropWhile (fun r => !r.sealed)).filter (fun r => !r.sealed)

/-- The block header of a stream notice (R284). -/
def State.blockHead (s : State) (i : Fin 8) (l : List CapRec) : List Byte :=
  let e := s.caps[i]
  words [b2n (l.any (fun r => r.sealed)) * 2 ^ 20 + ((l.head?.map (fun r => r.level)).getD 0) * 65536 + s.ringPos * 256 + i.val, e.blocks % (2 ^ 32 - 1) + 1, unitsOf l, e.stageFill * 256 + e.ringFill] ++
    le 8 e.bytes ++ words [e.missed, e.gapRecords]

/-- The response ring of the engine's arm takes another block. [DEDUCED, log 76] -/
def State.streamFits (s : State) (h : Hdr) : Bool :=
  let r := s.ctxs[h.mb].rings[h.ring]
  s.ctxs[h.mb].isOpen && r.isOpen && r.fits (r.queue.foldl (fun n e => n + e.units) 0 + 35)

/-- The engine that the next HOSTOUT access drains: the next in rotation with data and room in its ring (R284). [DEDUCED, log 67] -/
def State.capTurn (s : State) : Option (Fin 8 × Hdr) :=
  ((List.finRange 8).map (fun n => s.capNext + n)).findSome? (fun i =>
    match s.caps[i].hdr with
    | none => none
    | some h => if (s.caps[i].segment.head?.any (fun r => r.kept)) && s.streamFits h then some (i, h) else none)

/-- One access drains up to 32 units of an engine as a STREAM_DATA notice (R284, R285). [DEDUCED, log 76] [DEDUCED, log 77] -/
def State.capDrain (s0 : State) (i : Fin 8) (h : Hdr) (errs : List DrainErr) : State :=
  let raw := takeUnits 32 (s0.caps[i].segment.takeWhile (fun r => r.kept))
  let l := if s0.ctxs[h.mb].session.isOpen then raw else s0.unsealed i raw
  let sealed := l.any (fun r => r.sealed)
  let f := drainBad errs (32 * unitsOf l)
  let s := s0.storeErrs 2 (f.1.map (fun x => x.err))
  let e : Entry := { hdr := { mb := h.mb, opcode := 0x7F0, flags := if sealed then 8 else 0, context := h.context, ring := h.ring, sess := s.ctxs[h.mb].session.session }, unsol := true, status := if f.2.isEmpty then 0 else 0x060, detail := if f.2.isEmpty then 0 else lineDetail f.2.eraseDups, ts := s.nowGHz, payload := s.blockHead i l ++ spoiled f.1 (l.flatMap (fun r => r.bytes)), wrap := sealed }
  let s1 := (s.pushEntry h.mb h.ring e).modCap i (fun x => { x with segment := x.segment.drop raw.length, blocks := x.blocks + 1, bytes := x.bytes + 32 * unitsOf l })
  ({ s1 with capNext := i + 1 }).capSettle i

/-- HOSTOUT_SLOT: one access for a FAILLOG_DRAIN or for a capture segment, in turn (R251, R284). The errors that the
access meets are a free value (R76, R346). [DEDUCED, log 67] [DESIGN CHOICE, log 163] -/
def execHostoutSlot (s : State) : Out :=
  let errs := Config.freeDrainErrs s.free
  if s.slotFree && (s.slot ∈ [8, 24, 40, 56]) then
    let flog (q : Fin 4) : State :=
      match s.flogs[q].drains with
      | [] => s
      | d :: _ => { s.drawn.useSlot.drainAccess q d errs with outFlog := false }
    let cap (x : Fin 8 × Hdr) : State := { s.drawn.useSlot.capDrain x.1 x.2 errs with outFlog := true }
    .next (match s.drainTurn, s.capTurn with
      | none, none => s
      | some q, none => flog q
      | none, some x => cap x
      | some q, some x => if s.outFlog then flog q else cap x)
  else .next s

end Sys2Proof.Machine
end

