-- ==== Sys2Proof/Machine/Taps.lean ====
section
/-! DEFINITION. The Tap Matrix: TAP_ROUTE, TAP_STATUS, the way of a tap from its producer through the hub, and event pins
(R305 to R326). What a consumer does with an activation stands in Activation.lean. -/

namespace Sys2Proof.Machine

open Sys2Proof

/-- Assigned producer codes (R306). -/
def prodOk (k : Nat) : Bool :=
  k == 0 || (8 ≤ k && k < 0x28) || (0x30 ≤ k && k < 0x4C) || (0x50 ≤ k && k < 0x58) || (0x60 ≤ k && k < 0x71)

/-- Assigned consumer codes (R307). -/
def consOk (k : Nat) : Bool :=
  k == 0 || (8 ≤ k && k < 0x0C) || (0x20 ≤ k && k < 0x88) || (0x90 ≤ k && k < 0xA1)

/-- The owner of the block that a producer code names; none where any context may use it (R310). -/
def State.prodOwner (s : State) (k : Nat) : Option Owner :=
  if 8 ≤ k ∧ k < 0x10 then some s.seqs[fin 4 (k % 4)].owner
  else if 0x10 ≤ k ∧ k < 0x20 then some s.grps[fin 8 (k % 8)].owner
  else if 0x20 ≤ k ∧ k < 0x28 then some s.caps[fin 8 (k % 8)].owner
  else if 0x30 ≤ k ∧ k < 0x40 then some s.tmus[fin 16 (k % 16)].owner
  else if 0x40 ≤ k ∧ k < 0x48 then some s.alarms[fin 8 (k % 8)].owner
  else none

/-- The owner of the block that a consumer code names (R310). -/
def State.consOwner (s : State) (k : Nat) : Option Owner :=
  if 8 ≤ k ∧ k < 0x0C then some s.seqs[fin 4 (k % 4)].owner
  else if 0x20 ≤ k ∧ k < 0x40 then some s.caps[fin 8 (k % 8)].owner
  else if 0x40 ≤ k ∧ k < 0x70 then some s.tmus[fin 16 (k % 16)].owner
  else if 0x70 ≤ k ∧ k < 0x78 then some s.mcs[fin 8 (k % 8)].owner
  else if 0x78 ≤ k ∧ k < 0x80 then some s.grps[fin 8 (k % 8)].owner
  else none

/-- The block of a producer code runs (R312). [DEDUCED, log 141] -/
def State.prodRuns (s : State) (k : Nat) : Bool :=
  if 8 ≤ k ∧ k < 0x10 then s.seqs[fin 4 (k % 4)].st != .idle
  else if 0x10 ≤ k ∧ k < 0x18 then s.grpRuns (fin 8 (k % 8))
  else if 0x20 ≤ k ∧ k < 0x28 then s.caps[fin 8 (k % 8)].armed
  else if 0x30 ≤ k ∧ k < 0x40 then s.tmus[fin 16 (k % 16)].st != .idle
  else if 0x40 ≤ k ∧ k < 0x48 then s.alarms[fin 8 (k % 8)].enabled
  else false

/-- The block of a consumer code runs (R312). [DEDUCED, log 141] -/
def State.consRuns (s : State) (k : Nat) : Bool :=
  if 8 ≤ k ∧ k < 0x0C then s.seqs[fin 4 (k % 4)].st != .idle
  else if 0x20 ≤ k ∧ k < 0x40 then s.caps[fin 8 (k % 8)].armed
  else if 0x40 ≤ k ∧ k < 0x70 then s.tmus[fin 16 (k % 16)].st != .idle
  else if 0x70 ≤ k ∧ k < 0x78 then s.mcs[fin 8 (k % 8)].enabled
  else false

/-- A channel runs while its producer or a consumer belongs to a running block (R312). -/
def State.chanRuns (s : State) (t : TapChan) : Bool := s.prodRuns t.prod || t.consCodes.any s.consRuns

/-- The channel entry that a TAP_ROUTE writes (R312). -/
def routeOf (h : Hdr) (p : Pkt) (old : TapChan) : TapChan :=
  let ent (i : Nat) : Nat × Bool × Nat := (bits (rdw p.body (2 * i)) 7 0, bit (rdw p.body (2 * i)) 8, bits (rdw p.body (2 * i + 1)) 12 0)
  { old with owner := h.who, enabled := p.b0 8, secure := p.b0 9, prod := p.a1 7 0, pEdge := p.a2 1 0, cons := vmap (Vector.replicate 8 (0, false, 0)) (fun i _ => ent i.val) }

/-- The consumer entry is well formed (R312). -/
def consEntOk (e : Nat × Bool × Nat) : Bool :=
  consOk e.1 && (if (ioOfCons e.1).isSome then (if e.2.1 then e.2.2 == 0 else 8 ≤ e.2.2 && e.2.2 ≤ 4096) else !e.2.1 && e.2.2 == 0)

/-- Step 3 of R313. -/
def routeForm (p : Pkt) (t : TapChan) : Bool :=
  let cs := t.consCodes.filter (· != 0)
  let edgeProd := (0x48 ≤ t.prod && t.prod < 0x4C) || (0x50 ≤ t.prod && t.prod < 0x58)
  prodOk t.prod && t.cons.toList.all consEntOk && cs.Nodup && (if edgeProd then t.pEdge != 3 else t.pEdge == 0) &&
    (!t.secure || p.context == 15)

/-- Step 5 of R313: the sender may use the producer and the consumers (R310). -/
def State.routeUse (s : State) (h : Hdr) (t : TapChan) : Option Fail :=
  let mine (o : Option Owner) : Bool := match o with | none => true | some w => w == h.who
  let pin (n : Fin 8) (out : Bool) : Bool :=
    let e := s.taps.ios[n]
    e.claim == .none || (e.claim == h.who && e.claimOut == out)
  if !(mine (s.prodOwner t.prod) && t.consCodes.all (fun k => mine (s.consOwner k))) then some (0x040, 0x9004)
  else
    let inOk := match ioOfProd t.prod with | none => true | some n => pin n false && !t.consCodes.any (fun k => ioOfCons k == some n)
    let outOk := t.consCodes.all (fun k => match ioOfCons k with | none => true | some n => pin n true)
    let gtOk := t.consCodes.all (fun k => match gtOfCons k with | none => true | some n => s.taps.gtClaim[n] == .none || s.taps.gtClaim[n] == h.who)
    if inOk && outOk && gtOk then none else some (0x040, 0x9005)

/-- Step 6 of R313 (R311). -/
def State.routeSec (s : State) (t : TapChan) : Bool :=
  (!t.secure || t.prod == 0 || s.prodOwner t.prod == some .secure) &&
    (t.secure || t.consCodes.all (fun k => s.consOwner k != some .secure))

/-- The producer that a consumer input re-emits (R319). -/
def reEmits (k : Nat) : Option Nat :=
  if 0x28 ≤ k ∧ k < 0x30 then some (k - 8)
  else if 0x40 ≤ k ∧ k < 0x70 then some (0x30 + k % 16)
  else if 0x90 ≤ k ∧ k < 0xA0 then some (k - 0x30)
  else if k = 0xA0 then some 0x70
  else none

/-- Channel `b` carries what a consumer of channel `a` re-emits (R320). -/
def tapEdge (a b : TapChan) : Bool :=
  a.enabled && b.enabled && a.consCodes.any (fun k => match reEmits k with | none => false | some p => p == b.prod)

/-- Channels reachable from a set in at most `n` steps. -/
def tapReach (cs : Vector TapChan 64) : Nat → List (Fin 64) → List (Fin 64)
  | 0, l => l
  | n + 1, l =>
    let new := (List.finRange 64).filter (fun b => !l.contains b && l.any (fun a => tapEdge cs[a] cs[b]))
    if new.isEmpty then l else tapReach cs n (l ++ new)

/-- The channels one step behind a channel. -/
def tapNext (cs : Vector TapChan 64) (n : Fin 64) : List (Fin 64) := (List.finRange 64).filter (fun b => tapEdge cs[n] cs[b])

/-- A channel on a static cycle through channel `n`, another one if there is one (R313, R320). [DEDUCED, log 106] -/
def tapCycle (cs : Vector TapChan 64) (n : Fin 64) : Option (Fin 64) :=
  let fwd := tapReach cs 64 (tapNext cs n)
  if fwd.contains n then
    some ((((List.finRange 64).filter (fun m => m != n && fwd.contains m && (tapReach cs 64 (tapNext cs m)).contains n)).head?).getD n)
  else none

/-- Claims that a route takes (R310, R324): a TAP_IO output idles low from then on. -/
def State.takeClaims (s : State) (t : TapChan) : State :=
  let s1 := match ioOfProd t.prod with
    | none => s
    | some n => s.modIo n (fun e => { e with claim := t.owner, claimOut := false })
  t.consCodes.foldl (fun u k =>
    let u1 := match ioOfCons k with
      | none => u
      | some n => u.modIo n (fun e => if e.claim == t.owner && e.isOut then (if t.enabled then { e with releaseBy := none } else e) else { e with claim := t.owner, claimOut := true, isOut := true, driving := true, out := false, pulseTo := none, releaseBy := none })
    match gtOfCons k with
      | none => u1
      | some n => u1.modTaps (fun m => { m with gtClaim := vmod m.gtClaim n (fun _ => t.owner) })) s1

/-- Ownership of the channel (R309, R313 step 1). -/
def tapOwns (h : Hdr) (p : Pkt) (s : State) : Option Fail :=
  failIf (takenFrom s.taps.chans[fin 64 (p.a0 5 0)].owner h) 0x040 0x9003

/-- The channel runs, before or after the write (R312, R313 step 2). -/
def tapBusy (h : Hdr) (p : Pkt) (s : State) : Option Fail :=
  let old := s.taps.chans[fin 64 (p.a0 5 0)]
  failIf (s.chanRuns old || (!p.b0 15 && s.chanRuns (routeOf h p old))) 0x010 0x0030

/-- The route is in force. -/
def State.routeCommit (s : State) (h : Hdr) (n : Fin 64) (t : TapChan) : State :=
  let fresh := s.taps.chans[n].owner == .none
  let t1 := if fresh then { t with raised := 0, lastTs := {}, lastHop := 0, loopDrops := 0, merged := 0 } else t
  (((s.modChan n (fun _ => t1)).takeClaims t1).dropClaims).ok h

/-- TAP_ROUTE without RELEASE, steps 3 to 8 of R313 and the write. -/
def State.routeWrite (s : State) (h : Hdr) (p : Pkt) : State :=
  let n := fin 64 (p.a0 5 0)
  let old := s.taps.chans[n]
  let t := routeOf h p old
  let cyc := tapCycle (vmod s.taps.chans n (fun _ => t)) n
  let cycleOk := p.isE && p.a3 0 0 == 1
  let ringUse := (0x60 ≤ t.prod && t.prod < 0x70) || t.consCodes.any (fun k => (gtOfCons k).isSome)
  match firstFail [lenFail p 8, failIf (!routeForm p t) 0x030 0x9001, failIf (cycleOk && !s.ctxs[h.mb].allowCycle) 0x042 0x9007, s.routeUse h t, failIf (!s.routeSec t) 0x041 0x9006, failIf (ringUse && !s.ring.trained) 0x071 0] with
  | some f => s.refuse h f
  | none =>
    match cyc with
    | some m => if cycleOk then s.routeCommit h n t else s.reply h 0x030 0x9002 m.val []
    | none => s.routeCommit h n t
/-- TAP_ROUTE after intake. [DEDUCED, log 106] -/
def tapRouteBody (h : Hdr) (p : Pkt) (s : State) : State :=
  if p.b0 15 then s.unlessFail h (lenFail p 8) (fun s => (s.releaseChan (fin 64 (p.a0 5 0))).ok h) else s.routeWrite h p

/-- TAP_ROUTE is taken. -/
def takeTapRoute (c : Fin 8) (p : Pkt) (s : State) : State := s.deliver c 0x901 p tapOwns tapBusy tapRouteBody

/-- TAP_ROUTE without RELEASE. -/
def execTapRoute (c : Fin 8) (p : Pkt) (s : State) : Out := hostCmd s c 0x901 (p.withA0 15 15 0) (takeTapRoute c)
/-- TAP_ROUTE with RELEASE. -/
def execTapRelease (c : Fin 8) (p : Pkt) (s : State) : Out := hostCmd s c 0x901 (p.withA0 15 15 1) (takeTapRoute c)

/-! ### TAP_STATUS (R326) -/

/-- The channel entry (R326). -/
def chanEntry (n : Nat) (t : TapChan) : List Byte :=
  let ts := t.lastTs.val
  words [b2n t.enabled * 2 ^ 31 + b2n t.secure * 2 ^ 30 + (if t.owner == .none then 0 else t.owner.code) * 2 ^ 24 + t.prod * 256 + n, t.raised, cut 32 ts, cut 32 (ts / 2 ^ 32), t.lastHop * 65536 + cut 16 (ts / 2 ^ 64), t.loopDrops, t.merged, 0]

/-- A consumer entry (R326). -/
def inEntry (k : Nat) (x : TapIn) : List Byte :=
  words [b2n x.coalesced * 2 ^ 15 + b2n x.overrun * 2 ^ 14 + k, x.acts, x.coalesce, x.overrunCnt, x.idle, 0, 0, 0]

/-- The counters and flags of an input cleared. -/
def TapIn.cleared (x : TapIn) : TapIn := { x with coalesced := false, overrun := false, acts := 0, coalesce := 0, overrunCnt := 0, idle := 0 }

/-- The entry of an input of a channel; an unused place has none. -/
def State.inEntryOf (s : State) (k : Nat) : List Byte := if k = 0 then zeros 32 else inEntry k s.taps.ins[fin 161 k]

/-- TAP_STATUS after intake. -/
def tapStatusBody (h : Hdr) (p : Pkt) (s : State) : State :=
  s.unlessFail h (lenFail p 0) (fun s =>
    let n := fin 64 (p.a0 5 0)
    let t := s.taps.chans[n]
    let data := chanEntry n.val t ++ t.consCodes.flatMap s.inEntryOf
    let s1 := if p.b0 8 then
        t.consCodes.foldl (fun u k => if k = 0 then u else u.modIn (fin 161 k) TapIn.cleared)
          (s.modChan n (fun x => { x with raised := 0, lastTs := {}, lastHop := 0, loopDrops := 0, merged := 0 }))
      else s
    s1.replyAt h 0 0 0 data s.nowSI)

/-- Only the owner reads a channel (R309). -/
def tapReadOwns (h : Hdr) (p : Pkt) (s : State) : Option Fail :=
  failIf (notMine s.taps.chans[fin 64 (p.a0 5 0)].owner h) 0x040 0x9003

/-- TAP_STATUS is taken. -/
def takeTapStatus (c : Fin 8) (p : Pkt) (s : State) : State := s.deliver c 0x902 p tapReadOwns noFail tapStatusBody

/-- TAP_STATUS. -/
def execTapStatus (c : Fin 8) (p : Pkt) (s : State) : Out := hostCmd s c 0x902 p (takeTapStatus c)

/-! ### From the producer to the consumers (R305, R314, R315) -/

/-- An entry into an island, resynchronized: one cycle after the first edge of the island, so 1 to 2 cycles after the arrival (R314). [DEDUCED, log 105] -/
def State.resync (s : State) (n t : Nat) : Nat := s.edgeFrom n t + n

/-- Time at which a raise is in the hub, fine LSB (R314). [DEDUCED, log 105] -/
def State.hubTime (s : State) (r : Raise) : Nat :=
  if r.prod = 0x70 then r.fine else s.resync 1280 (r.fine + (if 0x10 ≤ r.prod ∧ r.prod < 0x20 then nsF 4 else nsF 2))

/-- Period of the island clock of a consumer input, fine LSB (R307). -/
def inPeriod (k : Nat) : Nat :=
  if k = 0xA0 ∨ (0x78 ≤ k ∧ k < 0x80) then 1280
  else if (0x70 ≤ k ∧ k < 0x78) ∨ (0x80 ≤ k ∧ k < 0xA0) then 512
  else 2048

/-- Time at which a tap that was in the hub at time `t` is usable at a consumer, fine LSB (R314). [DEDUCED, log 105] -/
def State.consTime (s : State) (k t : Nat) : Nat :=
  if inPeriod k = 1280 then t + 2560 else s.resync (inPeriod k) (t + 2560 + nsF 2)

/-- A raise enters every enabled channel that it feeds, under the route that holds as it enters the hub (R305, R313). -/
def State.enterHub (s : State) (r : Raise) : State :=
  let s1 := s.modTaps (fun m => { m with raises := m.raises.erase r })
  (s1.chansOf r.prod r.only r.edge).foldl (fun t n =>
    let x := t.taps.chans[n]
    let tap : Tap := { ts := r.ts, hop := r.hop, chan := n, usable := t.hubTime r, consumers := x.cons.toList.filter (fun e => e.1 != 0) }
    (t.modChan n (fun y => { y with raised := sat 32 (y.raised + 1), lastTs := r.ts, lastHop := r.hop })).modTaps (fun m => { m with hub := m.hub ++ [tap] })) s1

/-- TAP_RAISE: the oldest raise that has come to the hub enters it (R305). [DEDUCED, log 105] -/
def execTapRaise (s : State) : Out :=
  match s.taps.raises.find? (fun r => decide (s.hubTime r ≤ s.metro)) with
  | none => .next s
  | some r => .next (s.enterHub r)

/-- Every raise that has come to the hub enters it. -/
def State.enterAll (s : State) : State := (s.taps.raises.filter (fun r => decide (s.hubTime r ≤ s.metro))).foldl (fun t r => t.enterHub r) s

/-- The island cycle, of `n` fine LSB, in which a time falls. -/
def State.cycleOf (s : State) (n t : Nat) : Int := ((t : Int) - s.ring.phi + (n - 1)) / n

/-- The earliest of a list of timestamps by R155, with the default for an empty list. -/
def earliestTs (d : Ts) (ts : List Ts) : Ts := ts.foldl (fun a b => if b.fine < a.fine then b else a) d

/-- The tap of the hub leaves it, two SI cycles after it entered, as one with those of its channel that entered in the same SI
cycle (R314, R315). -/
def State.leaveHub (s : State) (t0 : Tap) : State :=
  let same (t : Tap) : Bool := t.chan == t0.chan && s.cycleOf 1280 t.usable == s.cycleOf 1280 t0.usable
  let group := s.taps.hub.filter same
  let ts := earliestTs t0.ts (group.map (fun t => t.ts))
  let hop := group.foldl (fun m t => max m t.hop) 0
  let out := t0.consumers.map (fun e => ({ ts := ts, hop := hop, chan := t0.chan, usable := s.consTime e.1 t0.usable, consumers := [e] } : Tap))
  (s.modTaps (fun m => { m with hub := m.hub.filter (fun t => !same t), deliver := m.deliver ++ out })).modChan t0.chan
    (fun x => { x with merged := sat 32 (x.merged + (group.length - 1)) })

/-- A tap of the hub whose two SI cycles have passed (R314). -/
def State.hubDue (s : State) (f : Tap → Bool) : Option Tap := s.taps.hub.find? (fun t => f t && decide (t.usable + 2560 ≤ s.metro))

/-- TAP_HUB_ROUTE: taps of a channel that entered the hub in one SI cycle leave it as one (R315). -/
def execTapHubRoute (ch : Fin 64) (s : State) : Out :=
  let s1 := s.enterAll
  match s1.hubDue (fun t => t.chan == ch) with
  | none => .next s
  | some t0 => .next (s1.leaveHub t0)

/-- Every tap moves on as far as it has come by now: into the hub and out of it (R314). -/
def State.moveTaps (s : State) : State :=
  let s1 := s.enterAll
  s1.taps.hub.foldl (fun t _ => match t.hubDue (fun _ => true) with | none => t | some x => t.leaveHub x) s1

/-- CONSUMER_BUSY_END: an input's busy time ends (R318). -/
def execConsumerBusyEnd (i : Fin 161) (s : State) : Out :=
  .next (s.modIn i (fun x => match x.busyTo with
    | some t => if t ≤ s.metro then { x with busyTo := none } else x
    | none => x))

/-! ### Event pins (R323, R324) -/

/-- The raise of an event pin's edge, 2 ticks after its tick (R306); the return of a level that has held for less than 2 ticks takes its raise back (R323); before ready the pins are ignored (R323, R452). [DEDUCED, log 107] -/
def State.pinRaise (s : State) (prod : Nat) (level : Bool) : State :=
  let short (r : Raise) : Bool := r.prod == prod && decide (s.tick * 512 < r.ts.fine + 1024)
  if s.power.stepDone < 7 then s
  else if s.taps.raises.any short then s.modTaps (fun m => { m with raises := m.raises.filter (fun r => !short r) })
  else
    let r : Raise := { prod := prod, ts := s.nowTick, fine := (s.tick + 2) * 512, edge := some level }
    s.modTaps (fun m => { m with raises := m.raises ++ [r] })

/-- EVENT_PIN_EDGE: an input is sampled at a new level; the edge is raised with the tick as its origin, and a GATE edge comes to
the interval units (R293, R323). -/
def execEventPinEdge (pin : EvSel) (level : Bool) (s : State) : Out :=
  match pin with
  | .gate n =>
    if s.taps.gates[n].level == level then .next s
    else
      let s1 := { s with tmus := vmap s.tmus (fun _ x => x.gateEdge n level s.tick) }
      .next ((s1.modTaps (fun m => { m with gates := vmod m.gates n (fun e => { e with level := level }) })).pinRaise (0x48 + n.val) level)
  | .io n =>
    if s.taps.ios[n].level == level || s.taps.ios[n].isOut then .next s
    else .next ((s.modIo n (fun e => { e with level := level })).pinRaise (0x50 + n.val) level)

/-- TAP_IO_PULSE_END: an output pulse ends and the pin returns low (R324). -/
def execTapIoPulseEnd (n : Fin 8) (s : State) : Out :=
  .next (s.modIo n (fun e => match e.pulseTo with
    | some t => if t ≤ s.tick then { e with out := false, pulseTo := none } else e
    | none => e))

/-- TAP_IO_RETURN_INPUT: a released output pin returns to input (R324). -/
def execTapIoReturnInput (n : Fin 8) (s : State) : Out :=
  .next (s.modIo n (fun e => match e.releaseBy with
    | some _ => { e with isOut := false, driving := false, out := false, pulseTo := none, releaseBy := none }
    | none => e))

end Sys2Proof.Machine
end

