-- ==== Sys2Proof/Machine/Tmu.lean ====
section
/-! DEFINITION. Interval measurement: TMU_CONFIG, TMU_ARM, TMU_RESULT, and the cycle of an armed unit (R289 to R304). -/

namespace Sys2Proof.Machine

open Sys2Proof

/-! ### TMU_CONFIG (R298) -/

/-- An endpoint of the payload. -/
def endOf (w : Nat) : TmuEnd := { kind := bits w 26 24, edge := bits w 21 20, vol := bit w 16, pin := fin 128 (bits w 14 8), gate := fin 4 (bits w 1 0) }

/-- The unit that TMU_CONFIG names. -/
def cfgUnit (p : Pkt) : Fin 16 := fin 16 (p.a1 3 0)
/-- The unit that TMU_ARM and TMU_RESULT name. -/
def armUnit (p : Pkt) : Fin 16 := fin 16 (p.a0 3 0)

/-- The configuration that the packet spells. -/
def tmuCfgOf (p : Pkt) : TmuCfg :=
  { nM1 := p.a0 23 0, gateTap := p.a1 19 18 == 1, gatePin := fin 4 (p.a1 17 16), gateLow := p.a1 15 15 == 1, perRepeat := p.a1 14 14 == 1, afterStart := p.a1 13 13 == 1, ball := p.a1 12 12 == 1, stopSkip := p.a1 11 4, windowNs := p.arg2.toNat, start := endOf (rdw p.body 0), stop := endOf (rdw p.body 2) }

/-- An endpoint word is well formed (R298). -/
def endOk (w : Nat) : Bool :=
  let k := bits w 26 24
  decide (k < 4) && bits w 21 20 != 3 && (k != 3 || bits w 21 20 == 0) && (k == 0 || !bit w 16) && (decide (k < 2) || bits w 14 8 == 0) && (k == 2 || bits w 1 0 == 0)

/-- The form of TMU_CONFIG (R298). [DEDUCED, log 101] -/
def tmuForm (p : Pkt) : Option Fail :=
  let tap := p.a1 19 18 == 1
  firstFail [lenFail p 2, failIf (!(decide (p.a1 19 18 < 2) && (p.a1 13 13 == 1 || p.a1 11 4 == 0) && (p.isE || p.a1 12 12 == 0) &&
    (if tap then decide (20 ≤ p.arg2.toNat) else p.arg2 == 0) && endOk (rdw p.body 0) && endOk (rdw p.body 2))) 0x030 0x8001]

/-- The pins of a configuration lie in groups of the sender (R298, R299). -/
def State.tmuPins (s : State) (h : Hdr) (k : TmuCfg) : Option Fail := failIf (k.pinsUsed.any (fun p => notMine s.grps[grpOf p].owner h)) 0x040 0x3001

/-- Ownership of the unit and of its pins' groups (R298). -/
def tmuCfgOwns (h : Hdr) (p : Pkt) (s : State) : Option Fail :=
  firstFail [failIf (takenFrom s.tmus[cfgUnit p].owner h) 0x040 0x8003, s.tmuPins h (tmuCfgOf p)]
/-- An armed unit counts as running (R298). -/
def tmuCfgBusy (_ : Hdr) (p : Pkt) (s : State) : Option Fail := failIf (s.tmus[cfgUnit p].st != .idle) 0x010 0x0030
/-- TMU_CONFIG after intake. -/
def tmuConfigBody (h : Hdr) (p : Pkt) (s : State) : State :=
  s.unlessFail h (tmuForm p) (fun s => (s.modTmu (cfgUnit p) (fun x => { x with owner := h.who, cfg := tmuCfgOf p, configured := true })).ok h)
/-- TMU_CONFIG is taken. -/
def takeTmuConfig (c : Fin 8) (p : Pkt) (s : State) : State := s.deliver c 0x801 p tmuCfgOwns tmuCfgBusy tmuConfigBody
/-- TMU_CONFIG. -/
def execTmuConfig (c : Fin 8) (p : Pkt) (s : State) : Out := hostCmd s c 0x801 p (takeTmuConfig c)

/-! ### TMU_ARM (R299, R300) -/

/-- The lanes that a configuration needs: pin and comparator (R290). -/
def TmuCfg.lanes (k : TmuCfg) : List (Fin 128 × Bool) :=
  (([k.start, k.stop].filter (fun e => e.kind == 0)).map (fun e => (e.pin, e.vol))).eraseDups

/-- The lanes held on a pin die (R290). -/
def State.lanesHeld (s : State) (d : Fin 4) : List (Fin 128 × Bool) :=
  ((((List.finRange 16).filter (fun u => s.tmus[u].st != .idle)).flatMap (fun u => (s.tmus[u]).cfg.lanes)).filter (fun l => dieOf (grpOf l.1) == d)).eraseDups

/-- The pin die that lacks lanes for a configuration, with the lanes free on it (R299). -/
def State.lanesLack (s : State) (k : TmuCfg) : Option (Fin 4 × Nat) :=
  ((List.finRange 4).map (fun d => (d, s.lanesHeld d, k.lanes.filter (fun l => dieOf (grpOf l.1) == d && !(s.lanesHeld d).contains l)))).findSome?
    (fun x => if 8 < x.2.1.length + x.2.2.length then some (x.1, 8 - x.2.1.length) else none)

/-- The unit is the sender's (R299). -/
def tmuArmOwns (h : Hdr) (p : Pkt) (s : State) : Option Fail := failIf (notMine s.tmus[armUnit p].owner h) 0x040 0x8003
/-- Arming needs a unit that is not armed (R299). -/
def tmuArmBusy (_ : Hdr) (p : Pkt) (s : State) : Option Fail := failIf (p.a0 9 8 == 0 && s.tmus[armUnit p].st != .idle) 0x010 0x0030

/-- The gate pin of a unit is active (R293). -/
def State.gateActive (s : State) (k : TmuCfg) : Bool := s.taps.gates[k.gatePin].level != k.gateLow

/-- The unit enters SETTING with its counters clear, and the admission entry is formed (R299, R303). -/
def State.tmuStart (s : State) (h : Hdr) (u : Fin 16) : State :=
  let t := s.nowGHz
  let s1 := s.modTmu u (fun x => { owner := x.owner, cfg := x.cfg, configured := x.configured, c1s := x.c1s, c2s := x.c2s, c1p := x.c1p, c2p := x.c2p, st := .setting, hdr := some h, enterAt := t.fine, endCause := x.endCause, gateAtArm := !x.cfg.gateTap && s.gateActive x.cfg })
  s1.pushEntry h.mb h.ring { hdr := h, more := true, ts := s1.nowSI, payload := le 8 t.tick ++ zeros 24 }

/-! ### TMU_RESULT (R303) -/

/-- The 32 bytes of a result. -/
def TmuRes.bytes (r : TmuRes) (u : Fin 16) : List Byte :=
  let t := r.ts.val
  words [cut 32 t, cut 32 (t / 2 ^ 32), r.flags % 64 * 2 ^ 24 + u.val * 2 ^ 20 + cut 16 (t / 2 ^ 64), r.index] ++ leI 8 r.delta ++ zeros 8

/-- TMU_RESULT after intake. -/
def tmuResultBody (h : Hdr) (p : Pkt) (s : State) : State :=
  s.unlessFail h (firstFail [lenFail p 0, failIf (decide (256 < p.a1 8 0)) 0x030 0x8001]) (fun s =>
    let x := s.tmus[armUnit p]
    s.reply h 0 0 0 (x.block (armUnit p) ++ ((x.recent.take (p.a1 8 0)).reverse.flatMap (fun r => r.bytes (armUnit p)))))
/-- TMU_RESULT is taken. -/
def takeTmuResult (c : Fin 8) (p : Pkt) (s : State) : State := s.deliver c 0x803 p tmuArmOwns noFail tmuResultBody
/-- TMU_RESULT. -/
def execTmuResult (c : Fin 8) (p : Pkt) (s : State) : Out := hostCmd s c 0x803 p (takeTmuResult c)

/-! ### The cycle of a unit (R293 to R297) -/

/-- A span differs from the one of the last full Tuning pass by more than 3 % (R295). -/
def State.spanBad (s : State) (u : Fin 16) (side : Nat) (span : Nat) : Bool :=
  let r := Config.tmuSpan s.tune.passes (2 * u.val + side)
  decide (3 * r < 100 * ((span : Int) - r).natAbs)

/-- The measurement in the window that opened at `o` is complete at a time: its result is latched 4 ns later (R294). [DEDUCED, log 98] -/
def Tmu.toLatch (x : Tmu) (o t : Nat) (byTap : Option Nat) : Tmu :=
  { x with st := .latch, doneAt := t, wins := x.wins.map (fun w => if w.from_ = o then { w with used := true } else w), byTap := byTap }

/-- A window opens at a time (R293). -/
def Tmu.winStart (x : Tmu) (t : Nat) : Tmu :=
  { x with gateAtArm := false, wins := { from_ := t, to_ := if x.cfg.gateTap then some (t + nsF x.cfg.windowNs) else none } :: x.wins }

/-- The window that is open, once what has come so far has been taken. -/
def Tmu.win (x : Tmu) : Option TmuWin := (x.wins.head?).filter (fun w => !w.ended)

/-- The open window closes at a time: a measurement in it ends, and one of PER_WINDOW ONE that has taken nothing yields its
result (R293, R294, R297); without one, a gate that was active at the arm no longer is. [DEDUCED, log 98] -/
def Tmu.winEnd (x : Tmu) (t : Nat) : Tmu :=
  match x.win with
  | none => { x with gateAtArm := false }
  | some w =>
    let y := { x with wins := { w with to_ := some t, ended := true } :: x.wins.drop 1 }
    if x.st = .measuring ∨ (x.st = .ready ∧ !x.cfg.perRepeat ∧ !w.used) then y.toLatch w.from_ t none else y

/-- What comes at a time waits for the latch or the setting in progress, which end before it (R294). -/
def Tmu.waits (x : Tmu) (t : Nat) : Bool :=
  (x.st == .latch && decide (x.doneAt + nsF 4 ≤ t)) || (x.st == .setting && decide (x.enterAt + nsF 16 ≤ t))

/-- The next thing on its way to a unit, if it has come and the unit is ready to judge it. -/
def State.tmuNext (s : State) (u : Fin 16) : Option TmuIn :=
  match s.tmus[u].inq with
  | [] => none
  | i :: _ => if s.due i.due && !s.tmus[u].waits i.t && s.tmus[u].st != .idle then some i else none

/-- The next thing is taken off the queue of a unit. -/
def Tmu.pop (x : Tmu) : Tmu := { x with inq := x.inq.drop 1 }

/-- A window edge on its way takes effect (R293). -/
def Tmu.winEdge (x : Tmu) (i : TmuIn) : Tmu := if i.sig = .opens then x.pop.winStart i.t else x.pop.winEnd i.t

/-- TMU_WINDOW_OPEN: an active edge of the gate pin, or a tap at GATE, in tick `t` opens a window (R293). -/
def execTmuWindowOpen (u : Fin 16) (t : Nat) (s : State) : Out :=
  match s.tmuNext u with
  | some i => .next (if i.sig = .opens ∧ i.t / 512 = t then s.modTmu u (fun x => x.winEdge i) else s)
  | none => .next s

/-- TMU_WINDOW_CLOSE: the gate pin's inactive edge, or the end of WINDOW_NS, in tick `t` closes the window (R293). -/
def execTmuWindowClose (u : Fin 16) (t : Nat) (s : State) : Out :=
  match s.tmuNext u with
  | some i => .next (if i.sig = .closes ∧ i.t / 512 = t then s.modTmu u (fun x => x.winEdge i) else s)
  | none => .next s

/-- TMU_SETTING_DONE: 16 ns after entry the unit is READY with fresh codes; a gate active since the arm opens the first window
(R293 to R295). [DEDUCED, log 138] -/
def execTmuSettingDone (u : Fin 16) (c1s c2s c1p c2p : Nat) (s : State) : Out :=
  let x := s.tmus[u]
  if x.st != .setting || decide (s.metro < x.enterAt + nsF 16) then .next s
  else
    let badS := s.spanBad u 0 (c2s - c1s)
    let badP := s.spanBad u 1 (c2p - c1p)
    let y : Tmu := { x with st := .ready, enterAt := x.enterAt + nsF 16, c1s := c1s, c2s := c2s, c1p := c1p, c2p := c2p, calBad := badS || badP, timebase := false }
    let z := if y.gateAtArm then y.winStart y.enterAt else y
    let s1 := s.modTmu u (fun _ => z)
    let s2 := if badS then s1.report 0x1C u.val false s1.nowGHz (c2s - c1s) 0 else s1
    .next (if badP then s2.report 0x1C u.val false s2.nowGHz (c2p - c1p) 1 else s2)

/-- An event's time in 1/16 fine LSB from its interpolator code (R295). -/
def Tmu.codeTime (x : Tmu) (stop : Bool) (t code : Nat) : Int :=
  let c1 := if stop then x.c1p else x.c1s
  let c2 := if stop then x.c2p else x.c2s
  let span : Int := (c2 : Int) - c1
  ((t / 512 + 2) * 8192 : Nat) - (8192 + (((code : Int) - c1) * 16384 + span) / (2 * span))

/-- The window in which an event lies, by its own time (R293, R301). -/
def Tmu.winOf (x : Tmu) (t : Nat) : Option TmuWin :=
  x.wins.find? (fun w => decide (w.from_ ≤ t) && (match w.to_ with | some e => decide (t < e) | none => true))

/-- An event is ignored (R294). [DEDUCED, log 99] -/
def Tmu.ignore (x : Tmu) : Tmu := { x with ignored := sat 32 (x.ignored + 1) }

/-- The later of two events. -/
def laterOf (a b : Option TmuTake) : Nat := max ((a.map (fun e => e.raw)).getD 0) ((b.map (fun e => e.raw)).getD 0)

/-- A taken endpoint: the unit measures, or its measurement is complete; if the window has closed since, that ends it
(R294, R301). [DEDUCED, log 99] -/
def Tmu.took (x : Tmu) (w : TmuWin) (byTap : Option Nat) : Tmu :=
  if x.start.isSome && x.stop.isSome then x.toLatch w.from_ (laterOf x.start x.stop) byTap
  else if w.ended then x.toLatch w.from_ (w.to_.getD 0) none
  else { x with st := .measuring }

/-- An endpoint event of one side (R293, R294, R296, R301). [DEDUCED, log 98] -/
def Tmu.event (x : Tmu) (stop : Bool) (e : TmuTake) (byTap : Option Nat) : Tmu :=
  match x.winOf e.raw with
  | none => x
  | some w =>
    if !(x.st == .ready || x.st == .measuring) || decide (e.raw < x.enterAt) || (w.ended && x.st == .measuring) then x.ignore
    else if w.used && !x.cfg.perRepeat && x.st == .ready then x.ignore
    else if stop then
      if x.stop.isSome then x.ignore
      else if x.cfg.afterStart then
        match x.start with
        | none => x
        | some a => if e.t16 ≤ a.t16 then x
          else if x.skipped < x.cfg.stopSkip then { x with skipped := x.skipped + 1 }
          else ({ x with stop := some e } : Tmu).took w byTap
      else ({ x with stop := some e } : Tmu).took w byTap
    else if x.start.isSome then x.ignore
    else ({ x with start := some e } : Tmu).took w byTap

/-- The event of an endpoint as it counts, after referral: a drive event has its placed time, a crossing and a gate edge the one
that the interpolator gives (R291, R292, R295). -/
def State.tmuTake (s : State) (u : Fin 16) (i : TmuIn) (code : Nat) : TmuTake :=
  let x := s.tmus[u]
  let stop := i.sig == .stop
  let e := if stop then x.cfg.stop else x.cfg.start
  let refl (k : Fin 128) : Option Nat := s.pins[k].reflFix
  let raw := if e.kind = 1 then (i.t * 16 : Int) else x.codeTime stop i.t code
  let off := if x.cfg.ball then 0 else if e.kind = 0 then offS refl s.cfg e.pin else if e.kind = 1 then offD refl s.cfg e.pin else 0
  let flags := if e.kind = 0 then (s.tsPin (grpOf e.pin) i.t 2 false).flags else if e.kind = 1 then (s.tsPin (grpOf e.pin) i.t 1 i.clash).flags else s.tsFlags 2 false false false
  { t16 := raw - off * 16, flags := flags, raw := (raw / 16).toNat }

/-- TMU_ENDPOINT_EVENT: the next event of a COMP, DRIVE or GATE endpoint is judged, with the code that its interpolator gives
(R291 to R296). [PRESUMED, log 100] -/
def execTmuEndpointEvent (u : Fin 16) (code : Nat) (s : State) : Out :=
  match s.tmuNext u with
  | some i => .next (if i.sig.rank = 2 then s.modTmu u (fun x => x.pop.event (i.sig == .stop) (s.tmuTake u i code) none) else s)
  | none => .next s

/-- TMU_RANGE_EXPIRE: 2^40 ticks pass after the endpoint taken (R297). -/
def execTmuRangeExpire (u : Fin 16) (s : State) : Out :=
  let x := s.tmus[u]
  let end_ := laterOf x.start x.stop + 2 ^ 49
  if x.st = .measuring ∧ s.due end_ then .next (s.modTmu u (fun y => y.toLatch ((y.win.map (fun w => w.from_)).getD 0) end_ none)) else .next s

/-- FLAGS of the measurement of a unit whose endpoints lie `d` apart (R297). [DEDUCED, log 99] -/
def Tmu.resFlags (x : Tmu) (d : Int) : Nat :=
  let both := x.start.isSome && x.stop.isSome
  b2n (both && decide (d.natAbs < 64)) + b2n (both && decide (d < 0)) * 2 + b2n x.start.isNone * 4 + b2n x.stop.isNone * 8 + b2n x.calBad * 16 + b2n x.timebase * 32

/-- t_stop − t_start of a complete measurement (R297). -/
def Tmu.diff (x : Tmu) : Int :=
  match x.start, x.stop with
  | some a, some b => b.t16 - a.t16
  | _, _ => 0

/-- The timestamp of the result (R303). [DEDUCED, log 98] -/
def Tmu.resTs (x : Tmu) (closeFlags : Nat) : Ts :=
  match x.start, x.stop with
  | some a, _ => { fine := (a.t16 / 16).toNat, flags := a.flags }
  | none, some b => { fine := (b.t16 / 16).toNat, flags := b.flags }
  | none, none => { fine := x.doneAt, flags := closeFlags }

/-- The result formed, with the counters and statistics that take it (R297, R302, R303). -/
def Tmu.formed (x : Tmu) (closeFlags : Nat) : Tmu :=
  let f := x.resFlags x.diff
  let counts := decide (f < 4)
  let d := if counts then x.diff else 0
  let ts := x.resTs closeFlags
  let n := x.results + 1
  let c (k : Nat) : Nat := b2n (f.testBit k)
  { x with results := n, flagged := x.flagged + b2n (f != 0), subres := x.subres + c 0, order := x.order + c 1, noStart := x.noStart + c 2, noStop := x.noStop + c 3, calCnt := x.calCnt + c 4, tbCnt := x.tbCnt + c 5, count := x.count + b2n counts, sum := x.sum + d, sumSq := x.sumSq + d.natAbs * d.natAbs, minD := if counts then (if x.count = 0 then d else min x.minD d) else x.minD, maxD := if counts then (if x.count = 0 then d else max x.maxD d) else x.maxD, firstTick := if x.results = 0 then ts.tick else x.firstTick, lastTick := ts.tick, recent := { ts := ts, flags := f, index := n, delta := d } :: x.recent.take 255 }

/-- The result of a unit is formed; the N-th disarms the unit and raises TMUn_DONE, else the next cycle begins (R294, R300,
R301). -/
def State.tmuLatched (s : State) (u : Fin 16) : State :=
  let x := s.tmus[u]
  let at_ := x.doneAt + nsF 4
  let y := x.formed (s.tsFlags 0 false false false)
  if y.results = y.cfg.nM1 + 1 then
    let s1 := (s.modTmu u (fun _ => y)).tmuOff u 0
    let ts : Ts := { fine := at_ / 512 * 512, flags := s.tsFlags 0 false false false }
    match x.byTap with
    | none => s1.raise (0x30 + u.val) ts 0 none none
    | some hop => s1.reRaise (0x30 + u.val) ts (hop + 1)
  else s.modTmu u (fun _ => { y with st := .setting, enterAt := at_, start := none, stop := none, skipped := 0, byTap := none })

/-- TMU_LATCH: 4 ns after the later event or the close, the result is formed (R294). -/
def execTmuLatch (u : Fin 16) (s : State) : Out :=
  if s.tmus[u].st != .latch || !s.due (s.tmus[u].doneAt + nsF 4) then .next s else .next (s.tmuLatched u)

/-! ### TMU_ARM and TMU_DISARM (R299, R300) -/

/-- The N-th result of a unit that falls in the capture-island cycle of a disarm request is counted first (R300). -/
def State.latchTie (s : State) (u : Fin 16) : State :=
  let x := s.tmus[u]
  if x.st = .latch ∧ x.results = x.cfg.nM1 ∧ s.edge 2048 ≤ x.doneAt + nsF 4 ∧ x.doneAt + nsF 4 < s.edge 2048 + 2048 then s.tmuLatched u else s

/-- TMU_ARM after intake. -/
def tmuArmBody (h : Hdr) (p : Pkt) (s : State) : State :=
  let u := armUnit p
  let x := s.tmus[u]
  s.unlessFail h (lenFail p 0) (fun s =>
    if p.a0 9 8 = 0 then
      match firstFail [failIf (!x.configured) 0x030 0x8002, s.tmuPins h x.cfg], s.lanesLack x.cfg with
      | some f, _ => s.refuse h f
      | none, some (d, n) => s.reply h 0x020 0x8010 (d.val * 256 + n) []
      | none, none => s.tmuStart h u
    else
      let s1 := (s.latchTie u).tmuOff u 1
      let s2 := if p.b0 9 then (s1.modTmu u Tmu.released).forgetGong (fun src inst => src == 0x1C && inst == u.val) else s1
      s2.reply h 0 0 (b2n (x.st != .idle)) [])

/-- TMU_ARM is taken. -/
def takeTmuArm (c : Fin 8) (p : Pkt) (s : State) : State := s.deliver c 0x802 p tmuArmOwns tmuArmBusy tmuArmBody
/-- TMU_ARM. -/
def execTmuArm (c : Fin 8) (p : Pkt) (s : State) : Out := hostCmd s c 0x802 (p.withA0 9 8 0) (takeTmuArm c)
/-- TMU_ARM with DISARM. -/
def execTmuDisarm (c : Fin 8) (p : Pkt) (s : State) : Out := hostCmd s c 0x802 (p.withA0 9 8 1) (takeTmuArm c)
/-- TMU_ARM with RELEASE. -/
def execTmuRelease (c : Fin 8) (p : Pkt) (s : State) : Out := hostCmd s c 0x802 (p.withA0 9 9 1) (takeTmuArm c)

end Sys2Proof.Machine
end

