-- ==== Sys2Proof/Machine/Activation.lean ====
section
/-! DEFINITION. TAP_ACTIVATION: what a consumer input does with the taps that become usable at it (R307, R308, R316 to R321). -/

namespace Sys2Proof.Machine

open Sys2Proof

/-- The block of a consumer input is inactive for a channel (R308). [DEDUCED, log 103] -/
def State.inactive (s : State) (k : Nat) (ch : Fin 64) : Bool :=
  if k < 0x0C then s.seqs[fin 4 (k % 4)].st == .idle
  else if k < 0x40 then s.caps[fin 8 (k % 8)].st == .idle
  else if k < 0x70 then s.tmus[fin 16 (k % 16)].st == .idle
  else if k < 0x78 then !s.mcs[fin 8 (k % 8)].enabled
  else if k < 0x80 then false
  else if k < 0x88 then
    let e := s.taps.ios[fin 8 (k % 8)]
    !(e.isOut && e.claim != .none && e.claimOut && e.claim == s.taps.chans[ch].owner)
  else if k < 0xA0 then !s.ring.trained
  else false

/-- A TAPW on the channel waits (R128). -/
def Seq.awaits (x : Seq) (ch : Fin 64) : Bool := x.wait == .tapw && x.tapwChan == ch.val

/-- A tap at the GATE input opens a window that runs for WINDOW_NS (R293). -/
def Tmu.gateTap (x : Tmu) (t : Nat) : Tmu :=
  (x.push { sig := .opens, t := t, due := t }).push { sig := .closes, t := t + nsF x.cfg.windowNs, due := t + nsF x.cfg.windowNs }

/-- A tap-gated window is open at a time (R301). -/
def Tmu.gateHeld (x : Tmu) (t : Nat) : Bool :=
  (x.winOf t).isSome || x.inq.any (fun i => i.sig == .opens && decide (i.t ≤ t) && decide (t < i.t + nsF x.cfg.windowNs))

/-- Window edges in front of a unit's queue that have come by a time take effect (R293). -/
def Tmu.catchUp (x : Tmu) (now : Nat) : Tmu :=
  (x.inq.foldl (fun (a : Tmu × Bool) i =>
    if a.2 && decide (i.sig.rank < 2) && decide (i.due ≤ now) && !a.1.waits i.t then (a.1.winEdge i, true) else (a.1, false)) (x, true)).1

/-- The input is busy for a tap usable at time `u` (R274, R301, R307, R318). -/
def State.inBusy (s : State) (k : Nat) (ch : Fin 64) (u : Nat) : Bool :=
  if k < 0x0C then
    let x := s.seqs[fin 4 (k % 4)]
    x.tapPend.testBit ch.val && !x.awaits ch
  else if 0x20 ≤ k ∧ k < 0x28 then s.caps[fin 8 (k % 8)].st != .waitTap
  else if 0x30 ≤ k ∧ k < 0x38 then s.caps[fin 8 (k % 8)].st == .draining
  else if 0x40 ≤ k ∧ k < 0x50 then
    let x := s.tmus[fin 16 (k % 16)]
    x.cfg.gateTap && x.gateHeld u
  else if 0x50 ≤ k ∧ k < 0x60 then s.tmus[fin 16 (k % 16)].start.isSome
  else if 0x60 ≤ k ∧ k < 0x70 then s.tmus[fin 16 (k % 16)].stop.isSome
  else if 0x78 ≤ k ∧ k < 0x80 then s.grps[fin 8 (k % 8)].take.tapBusy
  else match s.taps.ins[fin 161 k].busyTo with
    | some t => decide (s.cycleOf (inPeriod k) u < s.cycleOf (inPeriod k) t)
    | none => false

/-- The input is busy until a time. -/
def State.busyUntil (s : State) (k t : Nat) : State := s.modIn (fin 161 k) (fun x => { x with busyTo := some t })

/-- A tap as the event of a TAP endpoint (R291, R301). [DEDUCED, log 102] -/
def tapTake (ts : Ts) : TmuTake := { t16 := (ts.fine * 16 : Nat), flags := ts.flags / 2 * 2, raw := ts.fine }


/-- A TAP endpoint of a unit takes the activation, if it is configured so (R291, R319). [DEDUCED, log 101] -/
def Tmu.tapEvent (x : Tmu) (stop : Bool) (ts : Ts) (hop now : Nat) : Tmu :=
  if (if stop then x.cfg.stop else x.cfg.start).kind = 3 ∧ x.st ≠ .idle then (x.catchUp now).event stop (tapTake ts) (some hop) else x

/-- A raise of a global tap waits for a slot; two of one GT merge (R325, R409). [DEDUCED, log 102] -/
def addGt (n : Fin 16) (ts : Ts) (hop : Nat) (l : List GtWait) : List GtWait :=
  match l.find? (fun x => x.gt == n) with
  | none => l ++ [{ gt := n, origin := ts, hop := hop }]
  | some _ => l.map (fun x => if x.gt = n then { x with origin := if ts.fine < x.origin.fine then ts else x.origin, hop := max x.hop hop } else x)

/-- RING_GTn passes an activation on to the ring; a hop count above 7 drops it (R319, R321, R325). -/
def State.ringGt (s : State) (n : Fin 16) (ts : Ts) (hop : Nat) : State :=
  if hop + 1 ≤ 7 then s.modBeat (fun b => { b with gtWait := addGt n ts (hop + 1) b.gtWait }) else s.reRaise (0x60 + n.val) ts (hop + 1)

/-- A TAP_IO output answers an activation: a pulse, or a toggle (R307, R324). -/
def State.ioActivate (s : State) (n : Fin 8) (e : Nat × Bool × Nat) (u : Nat) : State :=
  if e.2.1 then (s.modIo n (fun x => { x with out := !x.out })).busyUntil e.1 (u + 1024)
  else (s.modIo n (fun x => { x with out := true, pulseTo := some (u / 512 + e.2.2) })).busyUntil e.1 (u + e.2.2 * 512)

/-- What an accepted activation does (R307). [DEDUCED, log 103] -/
def State.activate (s : State) (e : Nat × Bool × Nat) (t : Tap) : State :=
  let k := e.1
  if k < 0x0C then s.modSeq (fin 4 (k % 4)) (fun x =>
    if x.awaits t.chan then { x with tapSeen := some (x.tapSeen.getD t.usable) } else { x with tapPend := x.tapPend ||| 2 ^ t.chan.val })
  else if k < 0x28 then s.capArmTap (fin 8 (k % 8))
  else if k < 0x30 then s.forced (fin 8 (k % 8)) t.ts true false t.hop t.usable
  else if k < 0x38 then s.capDisarm (fin 8 (k % 8)) 1 false
  else if k < 0x40 then s.capQualTap (fin 8 (k % 8)) t.ts.fine
  else if k < 0x50 then s.modTmu (fin 16 (k % 16)) (fun x => if x.cfg.gateTap && x.st != .idle then x.gateTap (t.usable / 512 * 512) else x)
  else if k < 0x60 then s.modTmu (fin 16 (k % 16)) (fun x => x.tapEvent false t.ts t.hop t.usable)
  else if k < 0x70 then s.modTmu (fin 16 (k % 16)) (fun x => x.tapEvent true t.ts t.hop t.usable)
  else if k < 0x78 then (s.mcAccept (fin 8 (k % 8)) t.ts t.chan).busyUntil k (t.usable + nsF 20)
  else if k < 0x80 then s.modGrp (fin 8 (k % 8)) (fun x => if x.take.live then { x with take := { x.take with tapBusy := true } } else x)
  else if k < 0x88 then s.ioActivate (fin 8 (k % 8)) e t.usable
  else if k < 0xA0 then (s.ringGt (fin 16 (k % 16)) t.ts t.hop).busyUntil k (t.usable + nsF 4)
  else s.reportC 0x1B t.chan.val (gongDefault 0x1B) false t.ts 0 0 (t.hop + 1)

/-- What a busy input's block counts of a tap of its own: LOST of a capture unit, IGNORED of an interval unit (R294, R317). -/
def State.overrun (s : State) (k : Nat) (t : Tap) : State :=
  let s1 := s.modIn (fin 161 k) (fun x => { x with overrun := true, overrunCnt := sat 32 (x.overrunCnt + 1) })
  if 0x70 ≤ k ∧ k < 0x78 then s1.modMc (fin 8 (k % 8)) (fun m => { m with lost := sat 32 (m.lost + 1) })
  else if 0x50 ≤ k ∧ k < 0x60 then s1.modTmu (fin 16 (k % 16)) (fun x => x.tapEvent false t.ts t.hop t.usable)
  else if 0x60 ≤ k ∧ k < 0x70 then s1.modTmu (fin 16 (k % 16)) (fun x => x.tapEvent true t.ts t.hop t.usable)
  else s1

/-- The taps that act as one: the earliest origin, of the lowest channel among equals, with the largest hop count (R316). [DEDUCED, log 102] -/
def mergedTap (t0 : Tap) (l : List Tap) : Tap :=
  let best := l.foldl (fun a b => if b.ts.fine < a.ts.fine ∨ (b.ts.fine = a.ts.fine ∧ b.chan < a.chan) then b else a) t0
  { best with hop := l.foldl (fun m t => max m t.hop) t0.hop }

/-- TAP_ACTIVATION: taps that became usable at an input in one cycle of its island are ignored, refused or accepted as one
(R308, R316 to R318). The GONG input takes each by itself, and a TAPW input those of one channel. [DEDUCED, log 102] -/
def execTapActivation (i : Fin 161) (s0 : State) : Out :=
  let k := i.val
  let s := s0.moveTaps
  let mine (t : Tap) : Bool := (t.consumers.any (fun e => e.1 == k)) && decide (t.usable ≤ s.metro)
  match s.taps.deliver.find? mine with
  | none => .next s0
  | some t0 =>
    let same (t : Tap) : Bool := if k = 0xA0 then t == t0 else mine t && s.cycleOf (inPeriod k) t.usable == s.cycleOf (inPeriod k) t0.usable && (decide (0x0C ≤ k) || t.chan == t0.chan)
    let l := if k = 0xA0 then [t0] else s.taps.deliver.filter same
    let rest := if k = 0xA0 then s.taps.deliver.erase t0 else s.taps.deliver.filter (fun t => !same t)
    let s1 := s.modTaps (fun m => { m with deliver := rest })
    let live := l.filter (fun t => !s.inactive k t.chan)
    let s2 := s1.modIn i (fun x => { x with idle := sat 32 (x.idle + (l.length - live.length)) })
    match live with
    | [] => .next s2
    | t1 :: ts =>
      if s.inBusy k t1.chan t1.usable then .next (live.foldl (fun u t => u.overrun k t) s2)
      else
        let t := mergedTap t1 ts
        let n := live.length
        let s3 := s2.modIn i (fun x => { x with acts := sat 32 (x.acts + 1), coalesced := x.coalesced || decide (1 < n), coalesce := if 1 < n then sat 32 (x.coalesce + n) else x.coalesce })
        let e := (t.consumers.find? (fun e => e.1 == k)).getD (k, false, 8)
        .next (s3.activate e t)

end Sys2Proof.Machine
end

