-- ==== Sys2Proof/Machine/Commit.lean ====
section
/-! DEFINITION. Staging and committing: the staged writes, the checks of a commit, its strobe and how its fields take effect
(R60 to R66), with the command of each staged write and FIXTURE_DELAY (R367). -/

namespace Sys2Proof.Machine

open Sys2Proof

/-! ### FIXTURE_DELAY (R367) -/

/-- FIX_TABLE of an entry of the payload, fine LSB (R367). -/
def fixTableOf (p : Pkt) (e : Nat) : Nat := let v := rdw p.body (2 * e + 1); if p.isE then v else (fsToFine v).toNat

/-- Form of FIXTURE_DELAY (R367). -/
def fixtureForm (p : Pkt) : Option Fail :=
  firstFail [lenFail p 16, failIf ((List.range 16).any (fun e => decide (6143 < fixTableOf p e))) 0x030 0xB003]

/-- FIXTURE_DELAY as committed. -/
def Cfg.fixtureSet (k : Cfg) (p : Pkt) : Cfg :=
  k.modPins (pktGroup p) (pktMask p) (fun e x => { x with fixReflect := bit (rdw p.body (2 * e.val)) 0, fixTable := fixTableOf p e.val })

/-! ### What a staged write writes -/

/-- A configuration with one staged write in it (R60). -/
def Cfg.put (k : Cfg) (w : Staged) : Cfg :=
  if w.opcode = 0x302 then k.seqConfig w.pkt
  else if w.opcode = 0x401 then k.tsetWrite w.pkt
  else if w.opcode = 0x402 then k.periodSet w.pkt
  else if w.opcode = 0x403 then k.deskewWrite w.pkt
  else if w.opcode = 0x501 then k.formatSet w.pkt
  else if w.opcode = 0x502 then k.reflexSet w.pkt
  else if w.opcode = 0x503 then k.loadSet w.pkt
  else if w.opcode = 0x504 then k.levelsSet w.pkt
  else if w.opcode = 0x601 then k.maskSet w.pkt
  else if w.opcode = 0x701 then k.capSet w.pkt
  else if w.opcode = 0xB04 then k.fixtureSet w.pkt
  else k

/-- The sequencer that a staged write names (R62). -/
def Staged.seq (w : Staged) : Option (Fin 4) :=
  if w.opcode = 0x302 ∨ w.opcode = 0x402 ∨ (w.opcode = 0x601 ∧ maskTable w.pkt = 2) then some (pktSeq w.pkt) else none

/-- The engine that a staged write names. -/
def Staged.eng (w : Staged) : Option (Fin 8) := if w.opcode = 0x701 then some (pktEng w.pkt) else none

/-- The group that a staged write names. -/
def Staged.grp (w : Staged) : Option (Fin 8) := if w.seq.isSome ∨ w.eng.isSome then none else some (pktGroup w.pkt)

/-- The sequencer that owns the fields of a write (R57, R160). -/
def State.ownerOf (s : State) (w : Staged) : Option (Fin 4) :=
  match w.seq with
  | some q => some q
  | none => match w.grp with
    | some g => s.grps[g].seq
    | none => none

/-! ### Scope (R62) -/

/-- Groups in scope: those named and those of a named sequencer. -/
def State.scopeGrps (s : State) (ws : List Staged) : List (Fin 8) :=
  (List.finRange 8).filter (fun g => ws.any (fun w => w.grp == some g || (w.seq.isSome && w.seq == s.grps[g].seq)))

/-- Sequencers in scope: those named and the owners of the groups in scope. -/
def State.scopeSeqs (s : State) (ws : List Staged) : List (Fin 4) :=
  (List.finRange 4).filter (fun q => ws.any (fun w => s.ownerOf w == some q))

/-- Engines in scope: those written and the context's engines whose SEQ is in scope. -/
def State.scopeEngs (s : State) (k : Cfg) (o : Owner) (ws : List Staged) : List (Fin 8) :=
  (List.finRange 8).filter (fun e => ws.any (fun w => w.eng == some e) || (s.caps[e].owner == o && o != .none && (s.scopeSeqs ws).contains (k.caps[e]).seq))

/-- The groups in scope as the checks take them: by sequencer, then by group; groups of no sequencer last. -/
def State.scopeItems (s : State) (ws : List Staged) : List GItem :=
  let gs := s.scopeGrps ws
  (List.finRange 4).flatMap (fun q => (gs.filter (fun g => s.grps[g].seq == some q)).map (fun g => (g, some q))) ++
    (gs.filter (fun g => s.grps[g].seq == none)).map (fun g => (g, none))

/-! ### Checks (R62) -/

/-- A check of every period-file entry of the sequencers in scope. -/
def chkPf (k : Cfg) (qs : List (Fin 4)) (sub : Nat) (ok : Fin 4 → Nat → Bool) : Option CheckFail :=
  firstOf qs (fun q => firstOf (List.finRange 4) (fun i => if ok q (k.seqs[q]).pf[i] then none else some (sub, i.val * 16 + q.val)))

/-- Period against grade (R4, R156). -/
def chkGrade (k : Cfg) (qs : List (Fin 4)) : Option CheckFail :=
  chkPf k qs 0x0010 (fun _ T => !(Config.gradeM && T != 0 && decide (T < 4096)))

/-- Line format of a running sequencer (R113). -/
def State.chkFormat (s : State) (k0 k : Cfg) (qs : List (Fin 4)) : Option CheckFail :=
  firstOf qs (fun q =>
    let a := k0.seqs[q]
    let b := k.seqs[q]
    if s.seqs[q].st != .idle && !(a.beatsLog2 == b.beatsLog2 && a.compact == b.compact && a.global == b.global) then some (0x3006, q.val) else none)

/-- PF0 is not 0 (R158). -/
def chkPf0 (k : Cfg) (qs : List (Fin 4)) : Option CheckFail :=
  firstOf qs (fun q => if (k.seqs[q]).pf[(0 : Fin 4)] = 0 then some (0x4017, q.val) else none)

/-- No entry in use of a running sequencer is shorter than the shortest at admission (R158). [DEDUCED, log 39] -/
def State.chkShorter (s : State) (k : Cfg) (qs : List (Fin 4)) : Option CheckFail :=
  chkPf k qs 0x4015 (fun q T => s.seqs[q].st == .idle || T == 0 || decide (s.seqs[q].admPeriod ≤ T))

/-- The checks of a commit of the writes `ws` that would turn the configuration `k0` into `k`, in the order of R62. [DEDUCED, log 38] -/
def State.commitChecks (s : State) (o : Owner) (ws : List Staged) (k0 k : Cfg) : Option CheckFail :=
  let qs := s.scopeSeqs ws
  let gs := s.scopeItems ws
  firstOf [chkGrade k qs, s.chkFormat k0 k qs, chkPf0 k qs, s.chkShorter k qs, checks164 k gs,
    firstOf gs (chkOffsets (fun p => s.pins[p].reflFix) k), checks190 k gs, firstOf gs (chkLevels k), s.checks236 k0 k qs,
    s.checks260 k (s.scopeEngs k o ws)] id

/-- The configuration with every write that is committed and not yet in effect. [DEDUCED, log 38] -/
def State.planned (s : State) : Cfg :=
  (s.commits.flatMap (fun c => c.all ++ c.parts.flatMap (fun x => x.writes))).foldl Cfg.put s.cfg

/-! ### Taking effect (R61, R63) -/

/-- The comparators of a pin whose thresholds a commit changed are enabled anew (R204). -/
def Pin.reEnable (p : Pin) (a b : PinCfg) (t : Nat) : Pin :=
  let h := a.voh != b.voh || a.hyst != b.hyst
  let l := a.vol != b.vol || a.hyst != b.hyst
  { p with voh := if h then p.voh.enable t else p.voh, vol := if l then p.vol.enable t else p.vol }

/-- The comparators of group `g` after a commit of its levels. -/
def State.reEnableGrp (s : State) (g : Fin 8) (old : Cfg) (t : Nat) : State :=
  forFin 16 (fun e u => u.modPin (pinOf g e) (fun x => x.reEnable ((old.grps[g]).pins[e]) ((s.cfg.grps[g]).pins[e]) t)) s

/-- Writes take effect at a time: tables, edge rates, comparators, Fail Map and triggers (R61, R186, R204, R244, R261). [DEDUCED, log 43] -/
def State.applyWrites (s0 : State) (ws : List Staged) (t : Nat) : State :=
  let hit (e : Fin 8) : Bool := ws.any (fun w => w.eng == some e)
  let s := forFin 8 (fun e u => if hit e then u.trigEval e else u) s0
  let k := (s.scopeItems ws).foldl Cfg.resolveEdges (ws.foldl Cfg.put s.cfg)
  let s1 := { s with cfg := k }
  let s2 := (s.scopeGrps (ws.filter (fun w => w.opcode == 0x504))).foldl (fun u g => u.reEnableGrp g s.cfg t) s1
  let s3 := forFin 4 (fun q u => if (s.cfg.seqs[q]).sameMap k.seqs[q] then u else u.clearMap q) s2
  forFin 8 (fun e u => if hit e then u.capStrobed e else u) s3

/-- A COMMIT entry (R61). -/
def CommitRep.bytes (r : CommitRep) : List Byte := words [b2n r.atBoundary * 256 + r.seq.val] ++ le 8 r.vector ++ le 4 0

/-- Commits whose every field is in effect are answered, with the timestamp of their strobe (R61). -/
def State.settleCommits (s : State) : State :=
  let isDone (c : PendCommit) : Bool := !c.waiting && c.parts.isEmpty
  (s.commits.filter isDone).foldl
    (fun u c => u.replyAt c.hdr 0 0 0 (c.payload ++ (sortBy (fun r => r.seq.val) c.reps).flatMap CommitRep.bytes) c.ts)
    { s with commits := s.commits.filter (fun c => !isDone c) }

/-- The strobe of a commit is out: fields of running sequencers wait for their vector, all others take effect (R61). -/
def State.strobe (s : State) (c : PendCommit) : State :=
  let waits (q : Fin 4) : Bool := s.seqs[q].st == .admitted || s.seqs[q].st == .running
  let owned (q : Fin 4) : List Staged := c.all.filter (fun w => s.ownerOf w == some q)
  let qs := (List.finRange 4).filter (fun q => !(owned q).isEmpty)
  let ps : List CommitPart := (qs.filter waits).map (fun q => { seq := q, writes := owned q })
  let rs : List CommitRep := (qs.filter (fun q => !waits q)).map (fun q => { seq := q })
  let now := c.all.filter (fun w => match s.ownerOf w with | none => true | some q => !waits q)
  let c1 := { c with waiting := false, all := [], parts := ps, reps := rs }
  let s1 := (s.applyWrites now s.metro)
  ({ s1 with commits := s1.commits ++ [c1] }).settleCommits

/-- Time at which the strobe of a commit reaches the islands (R14). [DEDUCED, log 44] -/
def PendCommit.arrival (c : PendCommit) : Nat := c.ts.fine + nsF 16

/-- The parts of sequencer `q` whose strobe has arrived by time `upTo` take effect at time `t`, at vector `v` or, with no
vector, at the halt (R61). [DEDUCED, log 43] [DEDUCED, log 44] -/
def State.applyParts (s : State) (q : Fin 4) (upTo t : Nat) (v : Option Nat) : State :=
  let mine (c : PendCommit) : Bool := !c.waiting && decide (c.arrival ≤ upTo) && c.parts.any (fun x => x.seq == q)
  let ws := (s.commits.filter mine).flatMap (fun c => (c.parts.filter (fun x => x.seq == q)).flatMap (fun x => x.writes))
  if ws.isEmpty then s
  else
    let r : CommitRep := { seq := q, atBoundary := v.isSome, vector := v.getD 0 }
    let s1 := s.applyWrites ws t
    ({ s1 with commits := s1.commits.map (fun c => if mine c then { c with parts := c.parts.filter (fun x => x.seq != q), reps := c.reps ++ [r] } else c) }).settleCommits

/-- A context's staging set is committed; `pay` goes before the entries in the response (R61, R62, R65, R66). -/
def State.commitSet (s : State) (h : Hdr) (pay : List Byte) (atTick : Option Nat) : State :=
  let ws := s.ctxs[h.mb].stage
  let s1 := s.modCtx h.mb (fun x => { x with stage := [] })
  let past := match atTick with | none => false | some t => decide (t ≤ s.tick)
  match (if ws.isEmpty then none else s.commitChecks h.who ws s.planned (ws.foldl Cfg.put s.planned)) with
  | some (sub, detail) => s1.reply h 0x011 sub detail []
  | none =>
    if past then s1.reply h 0x011 0x0011 0 []
    else match atTick with
      | some t =>
        let c : PendCommit := { hdr := h, ctx := h.mb, atTick := t, waiting := true, all := ws, payload := pay, ts := { fine := t * 512 } }
        { s1 with commits := s1.commits ++ [c] }
      | none => s1.strobe { hdr := h, ctx := h.mb, all := ws, payload := pay, ts := s1.nowSI }

/-! ### Staging (R60, R66) -/

/-- Bytes that the staged writes of a set count for (R66). -/
def stageBytes (ws : List Staged) : Nat := (ws.map (fun w => 8 * w.pkt.units)).sum

/-- A staged write is accepted into the set, or refused where the set is full; with C the set is committed (R60, R61, R66). [DEDUCED, log 40] -/
def State.stage (s : State) (h : Hdr) (op : Nat) (p : Pkt) (echo : List Byte) : State :=
  let ws := s.ctxs[h.mb].stage
  if 1024 ≤ ws.length || decide (2 ^ 20 < stageBytes ws + 8 * p.units) then s.refuse h (0x021, 0x0022)
  else
    let s1 := s.modCtx h.mb (fun x => { x with stage := x.stage ++ [{ opcode := op, pkt := p }] })
    if h.isC then s1.commitSet h echo none else s1.reply h 1 0 0 echo

/-- The body of a staged write with a form check and a STAGED payload. [DEDUCED, log 16] -/
def stageBody (op : Nat) (form : Pkt → Option Fail) (echo : State → Hdr → Pkt → List Byte) (h : Hdr) (p : Pkt) (s : State) : State :=
  s.unlessFail h (form p) (fun s => s.stage h op p (echo s h p))

/-- No STAGED payload. -/
def noEcho (_ : State) (_ : Hdr) (_ : Pkt) : List Byte := []

/-! ### The staged commands -/

/-- SEQ_CONFIG is taken (R112). -/
def takeSeqConfig (c : Fin 8) (p : Pkt) (s : State) : State := s.deliver c 0x302 p ownSeq noFail (stageBody 0x302 seqConfigForm noEcho)
/-- SEQ_CONFIG. -/
def execSeqConfig (c : Fin 8) (p : Pkt) (s : State) : Out := hostCmd s c 0x302 p (takeSeqConfig c)

/-- TSET_WRITE is taken (R162). -/
def takeTsetWrite (c : Fin 8) (p : Pkt) (s : State) : State := s.deliver c 0x401 p ownGrp noFail (stageBody 0x401 tsetForm noEcho)
/-- TSET_WRITE. -/
def execTsetWrite (c : Fin 8) (p : Pkt) (s : State) : Out := hostCmd s c 0x401 p (takeTsetWrite c)

/-- The STAGED payload of PERIOD_SET: the period file as the set leaves it (R157). -/
def periodEcho (s : State) (h : Hdr) (p : Pkt) : List Byte :=
  let k := (s.ctxs[h.mb].stage.foldl Cfg.put s.planned).periodSet p
  ((k.seqs[pktSeq p]).pf.toList).flatMap (le 8)
/-- PERIOD_SET is taken (R157). -/
def takePeriodSet (c : Fin 8) (p : Pkt) (s : State) : State := s.deliver c 0x402 p ownSeq noFail (stageBody 0x402 periodForm periodEcho)
/-- PERIOD_SET. -/
def execPeriodSet (c : Fin 8) (p : Pkt) (s : State) : Out := hostCmd s c 0x402 p (takePeriodSet c)

/-- DESKEW_WRITE is taken (R169). -/
def takeDeskewWrite (c : Fin 8) (p : Pkt) (s : State) : State := s.deliver c 0x403 p ownGrp noFail (stageBody 0x403 deskewForm noEcho)
/-- DESKEW_WRITE. -/
def execDeskewWrite (c : Fin 8) (p : Pkt) (s : State) : Out := hostCmd s c 0x403 p (takeDeskewWrite c)

/-- FORMAT_SET is taken (R186). -/
def takeFormatSet (c : Fin 8) (p : Pkt) (s : State) : State := s.deliver c 0x501 p ownGrp noFail (stageBody 0x501 formatForm noEcho)
/-- FORMAT_SET. -/
def execFormatSet (c : Fin 8) (p : Pkt) (s : State) : Out := hostCmd s c 0x501 p (takeFormatSet c)

/-- REFLEX_SET after intake: QUERY, or a staged write (R192). -/
def reflexBody (h : Hdr) (p : Pkt) (s : State) : State :=
  if p.b0 15 then reflexQueryBody h p s else stageBody 0x502 reflexForm noEcho h p s
/-- REFLEX_SET is taken (R192). -/
def takeReflexSet (c : Fin 8) (p : Pkt) (s : State) : State := s.deliver c 0x502 p ownGrp noFail reflexBody
/-- REFLEX_SET. -/
def execReflexSet (c : Fin 8) (p : Pkt) (s : State) : Out := hostCmd s c 0x502 (p.withA0 15 15 0) (takeReflexSet c)
/-- REFLEX_SET with QUERY. -/
def execReflexQuery (c : Fin 8) (p : Pkt) (s : State) : Out := hostCmd s c 0x502 (p.withA0 15 15 1) (takeReflexSet c)

/-- LOAD_SET is taken (R187). -/
def takeLoadSet (c : Fin 8) (p : Pkt) (s : State) : State := s.deliver c 0x503 p ownGrp noFail (stageBody 0x503 loadForm (fun _ _ p => loadEcho p))
/-- LOAD_SET. -/
def execLoadSet (c : Fin 8) (p : Pkt) (s : State) : Out := hostCmd s c 0x503 p (takeLoadSet c)

/-- LEVELS_SET is taken (R199). -/
def takeLevelsSet (c : Fin 8) (p : Pkt) (s : State) : State :=
  s.deliver c 0x504 p ownGrp noFail (stageBody 0x504 levelsForm (fun _ _ p => if p.isE then [] else levelsEcho p))
/-- LEVELS_SET. -/
def execLevelsSet (c : Fin 8) (p : Pkt) (s : State) : Out := hostCmd s c 0x504 p (takeLevelsSet c)

/-- MASK_SET is taken (R235). -/
def takeMaskSet (c : Fin 8) (p : Pkt) (s : State) : State := s.deliver c 0x601 p maskOwns noFail (stageBody 0x601 maskForm noEcho)
/-- MASK_SET TABLE 0. -/
def execMaskSetPinMask (c : Fin 8) (p : Pkt) (s : State) : Out := hostCmd s c 0x601 (p.withA0 13 12 0) (takeMaskSet c)
/-- MASK_SET TABLE 1. -/
def execMaskSetRanges (c : Fin 8) (p : Pkt) (s : State) : Out := hostCmd s c 0x601 (p.withA0 13 12 1) (takeMaskSet c)
/-- MASK_SET TABLE 2. -/
def execMaskSetFailproc (c : Fin 8) (p : Pkt) (s : State) : Out := hostCmd s c 0x601 (p.withA0 13 12 2) (takeMaskSet c)

/-- CAP_CONFIG after intake: the engine goes to the sender (R257, R259). -/
def capConfigBody (h : Hdr) (p : Pkt) (s : State) : State :=
  s.unlessFail h (capForm p) (fun s => (s.modCap (pktEng p) (fun e => { e with owner := h.who })).stage h 0x701 p [])
/-- CAP_CONFIG is taken. -/
def takeCapConfig (c : Fin 8) (p : Pkt) (s : State) : State := s.deliver c 0x701 p capCfgOwns noFail capConfigBody
/-- CAP_CONFIG. -/
def execCapConfig (c : Fin 8) (p : Pkt) (s : State) : Out := hostCmd s c 0x701 p (takeCapConfig c)

/-- FIXTURE_DELAY is taken (R367). -/
def takeFixtureDelay (c : Fin 8) (p : Pkt) (s : State) : State := s.deliver c 0xB04 p ownGrp noFail (stageBody 0xB04 fixtureForm noEcho)
/-- FIXTURE_DELAY. -/
def execFixtureDelay (c : Fin 8) (p : Pkt) (s : State) : Out := hostCmd s c 0xB04 p (takeFixtureDelay c)

/-! ### COMMIT and DISCARD -/

/-- COMMIT after intake (R61, R65). [DEDUCED, log 40] -/
def commitBody (h : Hdr) (p : Pkt) (s : State) : State :=
  s.unlessFail h (lenFail p 0) (fun s =>
    s.commitSet h [] (if p.b0 0 then some (p.arg1.toNat + 2 ^ 32 * p.arg2.toNat) else none))
/-- COMMIT is taken. -/
def takeCommit (c : Fin 8) (p : Pkt) (s : State) : State := s.deliver c 0x003 p noFail noFail commitBody
/-- COMMIT without AT. -/
def execCommit (c : Fin 8) (p : Pkt) (s : State) : Out := hostCmd s c 0x003 (p.withA0 0 0 0) (takeCommit c)
/-- COMMIT with AT. -/
def execCommitAt (c : Fin 8) (p : Pkt) (s : State) : Out := hostCmd s c 0x003 (p.withA0 0 0 1) (takeCommit c)

/-- COMMIT_STROBE_RELEASE: the clock unit releases the strobes of a context whose named tick has come (R65). -/
def execCommitStrobeRelease (c : Fin 8) (s : State) : Out :=
  let out (x : PendCommit) : Bool := x.waiting && x.ctx == c && decide (x.atTick ≤ s.tick)
  let cs := sortBy (fun x => x.atTick) (s.commits.filter out)
  .next (cs.foldl (fun u x => u.strobe { x with ts := { x.ts with flags := s.tsFlags 0 false false false } }) { s with commits := s.commits.filter (fun x => !out x) })

/-- DISCARD after intake (R66). -/
def discardBody (h : Hdr) (p : Pkt) (s : State) : State :=
  s.unlessFail h (lenFail p 0) (fun s => (s.modCtx h.mb (fun x => { x with stage := [] })).ok h)
/-- DISCARD is taken. -/
def takeDiscard (c : Fin 8) (p : Pkt) (s : State) : State := s.deliver c 0x004 p noFail noFail discardBody
/-- DISCARD. -/
def execDiscard (c : Fin 8) (p : Pkt) (s : State) : Out := hostCmd s c 0x004 p (takeDiscard c)

end Sys2Proof.Machine
end

