-- ==== Sys2Proof/Machine/Ring.lean ====
section
/-! DEFINITION. The Beat Ring: RING_SETUP, RING_TRAIN and RING_STATUS, the training, the ring stream, alignment and ring loss
(R394 to R417). -/

namespace Sys2Proof.Machine

open Sys2Proof

/-! ### RING_STATUS (R417) -/

/-- STATE (R417). -/
def RingSt.code : RingSt → Nat
  | .down => 0
  | .linking => 1
  | .training => 2
  | .ready => 3
  | .lost => 4

/-- DB_LOG2 in force (R401, R412). -/
def BRing.db (b : BRing) : Nat := if b.trained || b.loaded then b.dbTrained else b.dbLog2

/-- A sequencer of the device runs a burst. -/
def State.anyRuns (s : State) : Bool := s.seqs.toList.any (fun q => q.st != .idle)
/-- A sequencer of the device runs a burst with GLOBAL. -/
def State.globalRuns (s : State) : Bool := (List.finRange 4).any (fun q => s.seqs[q].st != .idle && s.seqs[q].globalB)

/-- A position entry (R417). -/
def RingPos.bytes (e : RingPos) : List Byte :=
  words [b2n e.present * 2 ^ 31 + b2n e.running * 2 ^ 30 + b2n e.global * 2 ^ 29 + b2n e.hold * 2 ^ 28 + e.grade % 256 * 65536 + e.pass % 65536, e.flight]

/-- The status that the device has of itself (R410, R417). -/
def State.ownPos (s : State) (e : RingPos) : RingPos :=
  { e with present := true, running := s.anyRuns, global := s.globalRuns, hold := s.ring.hold, grade := devId / 256 % 256 }

/-- The position entries; zero unless the ring is trained (R417). -/
def State.posEntries (s : State) : List Byte :=
  if s.ring.trained then
    (List.finRange 32).flatMap (fun k => (if k.val = s.ring.pos then s.ownPos s.ring.table[k] else s.ring.table[k]).bytes)
  else zeros 256

/-- The RING_STATUS payload (R417). -/
def State.ringBlock (s : State) : List Byte :=
  let b := s.ring
  words [b2n b.trained * 2 ^ 31 + b2n b.master * 2 ^ 30 + b2n b.hold * 2 ^ 29 + b2n b.conflict * 2 ^ 28 + b2n b.enable * 2 ^ 27 + b.st.code * 2 ^ 24 + b.countM1 % 32 * 65536 + b.pos % 32,
    b.trainings, b.loop, b.frames % 256 * 2 ^ 24 + b.tfUi % 65536, b.gdl, b.gdlPTrained, b.db, enc 32 b.alignErr] ++
  le 8 b.trainTick ++ words [b.missedDb, b.linkErrs, b.invalidWin, b.gtSent, b.gtQueued, b.gtClamped] ++ s.posEntries

/-- RING_STATUS after intake. -/
def ringStatusBody (h : Hdr) (p : Pkt) (s : State) : State := s.unlessFail h (lenFail p 0) (fun s => s.reply h 0 0 0 s.ringBlock)
/-- RING_STATUS is taken. -/
def takeRingStatus (c : Fin 8) (p : Pkt) (s : State) : State := s.deliver c 0x103 p noFail noFail ringStatusBody
/-- RING_STATUS. -/
def execRingStatus (c : Fin 8) (p : Pkt) (s : State) : Out := hostCmd s c 0x103 p (takeRingStatus c)

/-! ### RING_SETUP (R401) -/

/-- Declared flight time of link `k` in the payload, fs. [DEDUCED, log 88] -/
def flightOf (p : Pkt) (k : Nat) : Nat := if p.isE then rdw p.body (2 * k) else 0

/-- Form of RING_SETUP (R401). -/
def ringSetupForm (p : Pkt) : Option Fail :=
  let db := p.a0 4 0
  let per := p.arg1.toNat
  firstFail [lenFail p (if p.isE then 32 else 0),
    failIf (decide (db < 16) || decide (30 < db) || decide (per < 2048) || decide (134217728 < per) || (List.range 32).any (fun k => decide (1800000 < flightOf p k))) 0x030 0x1001]

/-- RING_SETUP after intake; a change of ENABLE acts at once (R396, R401). -/
def ringSetupBody (h : Hdr) (p : Pkt) (s : State) : State :=
  s.unlessFail h (ringSetupForm p) (fun s =>
    let s1 := s.modBeat (fun b => { b with enable := p.b0 8, dbLog2 := p.a0 4 0, gdlPeriod := p.arg1.toNat, flights := vmap b.flights (fun k _ => flightOf p k.val) })
    (s.devEvents s1.syncBypass).ok h)
/-- RING_SETUP is taken. -/
def takeRingSetup (c : Fin 8) (p : Pkt) (s : State) : State :=
  s.deliver c 0x101 p (fun h _ t => failIf (!t.sole h) 0x041 0x2003) (fun _ _ t => failIf (t.ring.inTraining || t.globalRuns) 0x010 0x0030) ringSetupBody
/-- RING_SETUP. -/
def execRingSetup (c : Fin 8) (p : Pkt) (s : State) : Out := hostCmd s c 0x101 p (takeRingSetup c)

/-! ### RING_TRAIN and the training (R402 to R406) -/

/-- RING_READY clears where a training begins (R403). -/
def BRing.begin (b : BRing) (st : RingSt) (now start : Nat) : BRing :=
  { b with st := st, trained := false, lostAt := if b.trained then some now else b.lostAt, inTraining := true, trainStart := start, loaded := false, goodDbs := 0, gtWait := [] }

/-- RING_TRAIN after intake: the master starts a training, any other device waits for one (R402). -/
def ringTrainBody (h : Hdr) (p : Pkt) (s : State) : State :=
  if !s.ring.master then s.unlessFail h (lenFail p 0) (fun s => s.modBeat (fun b => { b with trainHdrs := b.trainHdrs ++ [(h, s.tick, false)] }))
  else
    s.unlessFail h (firstFail [lenFail p 0, failIf (!s.ring.enable) 0x071 0x1002, failIf s.ring.conflict 0x070 0, failIf (s.ring.inTraining || s.anyRuns) 0x010 0x0030]) (fun s =>
      s.devEvents (s.modBeat (fun b => { b.begin .linking s.metro s.tick with trainHdrs := b.trainHdrs ++ [(h, s.tick, true)] })))
/-- RING_TRAIN is taken. -/
def takeRingTrain (c : Fin 8) (p : Pkt) (s : State) : State := s.deliver c 0x102 p noFail noFail ringTrainBody
/-- RING_TRAIN. -/
def execRingTrain (c : Fin 8) (p : Pkt) (s : State) : Out := hostCmd s c 0x102 p (takeRingTrain c)

/-- Every RING_TRAIN that `f` selects fails. -/
def State.failTrains (s : State) (f : Hdr × Nat × Bool → Bool) (st sub detail : Nat) : State :=
  (s.ring.trainHdrs.filter f).foldl (fun t x => t.reply x.1 st sub detail [])
    (s.modBeat (fun b => { b with trainHdrs := b.trainHdrs.filter (fun x => !f x) }))

/-- The training fails; the ring is left not ready (R403). [DEDUCED, log 90] -/
def State.failTraining (s : State) (st sub detail : Nat) : State :=
  (s.failTrains (fun _ => true) st sub detail).modBeat (fun b => { b with inTraining := false, loaded := false, st := if b.lostAt.isSome then .lost else .down })

/-- ENUMERATION: a device takes its position, or the master finds N or another master (R398 to R400). [DEDUCED, log 94] [DESIGN CHOICE, log 136] -/
def execEnumeration (count : Nat) (own : Bool) (s : State) : Out :=
  if s.ring.bypass then .next s
  else if s.ring.master then
    if own then
      if !s.ring.inTraining || count = 0 then .next s
      else if 32 < count then .next (s.failTraining 0x071 0x1003 0)
      else .next (s.modBeat (fun b => { b with st := .training, posNew := 0, countNew := count - 1 }))
    else if s.ring.conflict then .next s
    else
      let s1 := (s.modBeat (fun b => { b with conflict := true, idleOnly := true })).report 0x09 0 false s.nowSI 0 0
      .next (if s1.ring.inTraining then s1.failTraining 0x070 0 0 else s1)
  else .next (s.devEvents (s.modBeat (fun b => { b.begin .training s.metro (s.tick - msT 2) with posNew := count % 32 })))

/-- A number rounded to the nearest multiple of a divisor, as a quotient, halves up. -/
def roundDiv (a : Int) (d : Nat) : Int := (2 * a + d) / (2 * d : Nat)

/-- Flight times as used, in fine LSB: the remainder of the loop is shared by the undeclared links, or by all where every link
is declared; the last of them takes what rounding leaves (R404). [DEDUCED, log 88] -/
def shareFlights (decl : List Nat) (rem : Int) : List Nat :=
  let all := decl.all (fun f => f != 0)
  let open_ (f : Nat) : Bool := all || f == 0
  let u := (decl.filter open_).length
  let share := roundDiv rem u
  let last := (decl.zipIdx.filter (fun e => open_ e.1)).map (fun e => e.2) |>.foldl max 0
  decl.zipIdx.map (fun (f, i) => if open_ f then (f + (if i = last then rem - share * (u - 1 : Nat) else share)).toNat else f)

/-- LOOP_MEASURED: the master pads the loop and computes flight times, frame length and GDL (R404, R405, R408). [DEDUCED, log 89] -/
def execLoopMeasured (raw : Nat) (passes : List Nat) (s : State) : Out :=
  let b := s.ring
  if !(b.master && b.inTraining && b.st == .training) then .next s
  else
    let n := b.countNew + 1
    let ps := (List.range n).map (fun k => passes.getD k 0)
    let decl := (List.range n).map (fun k => (fsToFine b.flights[fin 32 k]).toNat)
    let rem : Int := (raw : Int) - (ps.sum : Nat) - (decl.sum : Nat)
    let fs := shareFlights decl rem
    let frames := max 1 (raw / (1024 * n))
    let ui := ceilDiv (raw * 25) (4096 * frames)
    let loop := (2 * frames * ui * 4096 + 25) / 50
    let hops := (List.range n).map (fun k => ps.getD k 0 + fs.getD k 0)
    if 18432 * n < loop || hops.any (fun x => decide (18432 < x)) then .next (s.failTraining 0x071 0x1004 0)
    else
      let s1 := s.modBeat (fun b => { b with loop := loop, frames := frames, tfUi := ui, pad := loop - raw, gdl := ceilDiv (40960 + 18432 * n) b.gdlPeriod * b.gdlPeriod, gdlPTrained := b.gdlPeriod, dbTrained := b.dbLog2, table := vmap b.table (fun k e => if k.val < n then { e with present := true, pass := ps.getD k.val 0, flight := fs.getD k.val 0 } else {}) })
      .next (if decl.all (fun f => f != 0) && decide (8 * n < rem.natAbs) then s1.report 0x0A 0 false s.nowSI 4 0 else s1)

/-- CONTROL_BLOCK: the status of a position, the results of the training or a link of it arrives; other control blocks have
commands of their own (R403, R410). -/
def execControlBlock (cb : CtlBlock) (s : State) : Out :=
  let b := s.ring
  if b.bypass then .next s
  else if cb.kind = 0 then
    if b.master && b.inTraining && cb.running then .next (s.failTraining 0x010 0x0030 cb.pos)
    else .next (s.modBeat (fun b => { b with table := vmod b.table (fin 32 cb.pos) (fun e => { e with present := true, running := cb.running, global := cb.global, hold := cb.hold, grade := cb.grade }) }))
  else if b.master || !b.inTraining then .next s
  else if cb.kind = 1 then
    .next (s.modBeat (fun b => { b with loop := cb.loop, countNew := (cb.count - 1) % 32, frames := cb.frames, tfUi := cb.tfUi, pad := cb.pad, gdl := cb.gdl, gdlPTrained := cb.gdlPeriod, dbTrained := cb.dbLog2 }))
  else if cb.kind = 2 then
    .next (s.modBeat (fun b => { b with table := vmod b.table (fin 32 cb.pos) (fun e => { e with present := true, pass := cb.pass, flight := cb.flight }) }))
  else .next s

/-- COUNT_LOAD: a non-master sets its Metronome to the master's count plus its delay, and alarms whose due ticks are passed fire (R174; R151, R152, R297, R406). [DEDUCED, log 95] -/
def execCountLoad (masterFine dk : Nat) (s : State) : Out :=
  let b := s.ring
  if !b.inTraining || b.loaded then .next s
  else if b.master then .next (s.modBeat (fun b => { b with loaded := true, ringBit := true, trainTick := masterFine / 512 }))
  else
    let diff : Int := ((masterFine + dk : Nat) : Int) - s.metro
    let s1 := s.modBeat (fun b => { b with loaded := true, ringBit := true, trainTick := masterFine / 512, delay := dk, phi := b.phi + diff, trainStart := ((b.trainStart : Int) + diff / 512).toNat, goodDbs := 0, missedRow := 0, corr := 0 })
    let s2 := { s1 with metro := masterFine + dk, tmus := vmap s1.tmus (fun _ u => if u.st == .measuring then { u with timebase := true } else u) }
    .next (forFin 8 (fun n t => t.fireAlarm n) s2)

/-- TRAINING_END: alignment has converged and the ring is ready (R403, R412). [DEDUCED, log 95] -/
def execTrainingEnd (s : State) : Out :=
  let b := s.ring
  if b.inTraining && b.loaded && (b.master || decide (3 ≤ b.goodDbs)) then
    let s1 := s.modBeat (fun b => { b with trained := true, st := .ready, inTraining := false, loaded := false, pos := b.posNew, countM1 := b.countNew, trainings := sat 32 (b.trainings + 1), hold := false, lostAt := none, missedRow := 0, words := [], gtSeen := [], gtBad := [], gtWait := [], trainHdrs := [] })
    .next (s.devEvents (b.trainHdrs.foldl (fun t x => t.reply x.1 0 0 0 t.ringBlock) s1))
  else .next s

/-- TRAIN_TIMEOUT: a training, or the wait for one, has taken too long (R400, R402, R403). -/
def execTrainTimeout (s : State) : Out :=
  let b := s.ring
  let late := b.inTraining && decide (b.trainStart + msT 4 + 8 * 2 ^ (if b.master then b.dbLog2 else b.db) ≤ s.tick)
  let s1 := if late then s.failTraining 0x071 0x1005 0 else s
  .next (s1.failTrains (fun x => !x.2.2 && decide (x.2.1 + msT 1000 ≤ s.tick)) 0x071 0x1005 0)

/-! ### Decision words (R407, R408, R137) -/

/-- The fail flag of a burst with GLOBAL was set at some time from `a` up to `z` (R407). [DEDUCED, log 55] -/
def Seq.flagIn (x : Seq) (a z : Nat) : Bool :=
  x.flagHist.any (fun e => e.2 && decide (a ≤ e.1) && decide (e.1 < z)) ||
    (match x.flagHist.find? (fun e => decide (e.1 ≤ a)) with | none => false | some e => e.2)

/-- The device's fail contribution to window `w` (R407). [DEDUCED, log 55] -/
def State.contribution (s : State) (w : Nat) : Bool := (List.finRange 4).any (fun q => s.seqs[q].globalB && s.seqs[q].flagIn (4096 * w) (4096 * (w + 1)))

/-- Time that a word takes from leaving position `j` to leaving this device, fine LSB (R404, R406, R408). -/
def BRing.since (b : BRing) (j : Nat) : Nat :=
  let n := b.countM1 + 1
  let m := (b.pos + n - j) % n
  let ks := (List.range m).map (fun i => (j + i) % n)
  (ks.map (fun k => b.table[fin 32 k].flight + b.table[fin 32 ((k + 1) % n)].pass + (if k + 1 = n then b.pad else 0))).sum

/-- The latest window that ended at least 1 ns before a time (R408). [DEDUCED, log 96] -/
def windowAt (t : Nat) : Option Nat := if t < nsF 1 + 4096 then none else some ((t - nsF 1) / 4096 - 1)

/-- DECISION_WORD: a decision word leaves the device, which has put in its own bit and kept the others (R408, R415). [DEDUCED, log 92] -/
def execDecisionWord (w : Word) (valid : Bool) (s : State) : Out :=
  let b := s.ring
  if !b.trained then .next s
  else
    let now := s.metro
    let s1 := (List.finRange 4).foldl (fun t q => if t.seqs[q].globalB && t.seqs[q].st != .idle then t.absorb q now else t) s
    let mine := match windowAt now with | none => false | some x => s1.contribution x
    let seen := ((List.range (b.countM1 + 1)).filter (fun j => j != b.pos)).filterMap (fun j =>
      (windowAt (now - b.since j)).map (fun x => (x, j, w.toNat.testBit j, valid)))
    let out := w.toNat - b2n (w.toNat.testBit b.pos) * 2 ^ b.pos + b2n mine * 2 ^ b.pos
    .next (s1.modBeat (fun b => { b with words := seen ++ b.words, wordOut := out }))

/-- The value of a global decision of sequencer `q` at time `T`; none if data for it is missing or invalid, or the ring was
lost before its sample tick (R137, R407, R415, R416). [DEDUCED, log 96] -/
def State.globalDecision (s : State) (q : Fin 4) (T : Nat) (gt : Option (Fin 16)) : Option Bool :=
  let b := s.ring
  let ts := T - b.gdl
  let gone := match b.lostAt with | none => !b.trained | some l => decide (l < ts)
  if gone then none
  else match gt with
    | none =>
      let w := ts / 4096
      let others := ((List.range (b.countM1 + 1)).filter (fun j => j != b.pos)).map (fun j => b.words.find? (fun e => e.1 == w && e.2.1 == j))
      if others.any (fun o => match o with | none => true | some e => !e.2.2.2) then none
      else some (s.contribution w || others.any (fun o => match o with | none => false | some e => e.2.2.1))
    | some g =>
      let prev := s.seqs[q].jmpgLast[g].getD s.seqs[q].startFine
      if b.gtBad.any (fun e => decide (prev < e.2) && decide (e.1 ≤ ts)) then none
      else some (b.gtSeen.any (fun e => e.1 == g && decide (prev < e.2) && decide (e.2 ≤ ts)))

/-! ### Global taps on the ring (R325, R408, R409) -/

/-- A tick-aligned origin with the flags in force. -/
def State.gtTs (s : State) (tick : Nat) : Ts := { fine := tick * 512, flags := s.tsFlags 0 false false false }

/-- GTn is raised on this device at a time, with the origin that its slot carries (R306, R409). -/
def State.gtRaise (s : State) (g : Fin 16) (origin hop fine : Nat) : State :=
  let r : Raise := { prod := 0x60 + g.val, ts := s.gtTs origin, hop := hop, fine := fine }
  (s.modTaps (fun m => { m with raises := m.raises ++ [r] })).modBeat (fun b => { b with gtSeen := (g, origin * 512) :: b.gtSeen })

/-- The device's own slot leaves: the waiting raise of the earliest origin goes with it (R409). [DEDUCED, log 92] -/
def State.gtSend (s : State) : State :=
  match sortBy (fun (x : GtWait) => x.origin.fine) s.ring.gtWait with
  | [] => s.modBeat (fun b => { b with slotOut := 0 })
  | x :: rest =>
    let leave := (s.metro + 256) / 512
    let off := leave - x.origin.fine / 512
    let old := decide (76 < off)
    let o := min off 76
    let missed := (rest.filter (fun y => !y.missed)).length
    let s1 := s.modBeat (fun b => { b with gtWait := rest.map (fun y => { y with missed := true }), gtSent := sat 32 (b.gtSent + 1), gtQueued := sat 32 (b.gtQueued + missed), gtClamped := if old then sat 32 (b.gtClamped + 1) else b.gtClamped, slotOut := 2 ^ 15 + b2n old * 2 ^ 14 + x.gt.val * 1024 + x.hop % 8 * 128 + o })
    s1.gtRaise x.gt (leave - o) x.hop s1.metro

/-- GT_SLOT: the slot of a position passes; the device writes its own, and raises what another carries 1 ns after its arrival
(R408, R409, R411, R415). [DEDUCED, log 92] [DESIGN CHOICE, log 136] -/
def execGtSlot (pos : Fin 32) (slot : BitVec 16) (valid : Bool) (s : State) : Out :=
  let b := s.ring
  if !b.trained || b.countM1 < pos.val then .next s
  else if pos.val = b.pos then .next s.gtSend
  else
    let own := b.table[fin 32 b.pos].pass
    let leave := (s.metro + own - b.since pos.val + 256) / 512
    let w := slot.toNat
    if !valid then .next (s.modBeat (fun b => { b with gtBad := ((leave - 76) * 512, leave * 512) :: b.gtBad }))
    else if !bit w 15 then .next s
    else .next (s.gtRaise (fin 16 (bits w 13 10)) (leave - bits w 6 0) (bits w 9 7) (s.metro + nsF 1))

/-! ### Downbeat and alignment (R411 to R414) -/

/-- A Downbeat is missed (R414, R416). [DEDUCED, log 91] -/
def State.missDb (s : State) : State :=
  let s1 := s.modBeat (fun b => { b with missedDb := sat 32 (b.missedDb + 1), missedRow := b.missedRow + 1, hold := b.hold || !b.master, goodDbs := 0 })
  if 16 ≤ s1.ring.missedRow then s.devEvents s1.ringDrop else s1

/-- The device follows the Downbeats of a master: its ring is trained, or its training has loaded the count. -/
def BRing.follows (b : BRing) : Bool := b.trained || (b.inTraining && b.loaded)

/-- DOWNBEAT: the block of a Downbeat arrives and its alignment error is measured (R412, R414). [DEDUCED, log 94] -/
def execDownbeat (tick carried measured : Nat) (s : State) : Out :=
  let b := s.ring
  if !b.follows || tick % 2 ^ b.db ≠ 0 then .next s
  else if b.master then .next (s.modBeat (fun b => { b with missedRow := 0 }))
  else
    let e : Int := (measured : Int) - (((tick + carried) * 512 + b.delay : Nat) : Int)
    let s1 := s.modBeat (fun b => { b with alignErr := e })
    if 64 < e.natAbs then .next s1.missDb
    else .next (s1.modBeat (fun b => { b with corr := -e, corrDone := 0, missedRow := 0, hold := b.hold && decide (16 < e.natAbs), goodDbs := if e.natAbs ≤ 16 then min 3 (b.goodDbs + 1) else 0 }))

/-- ALIGN_STEP: one correction step of 1 fine LSB, at most one in a Bar and eight in a Downbeat period (R412). -/
def execAlignStep (s : State) : Out :=
  let b := s.ring
  if b.corr = 0 || 8 ≤ b.corrDone || b.corrBar = s.tick / 256 then .next s
  else
    let d : Int := if 0 < b.corr then 1 else -1
    let s1 := s.modBeat (fun b => { b with corr := b.corr - d, corrDone := b.corrDone + 1, corrBar := s.tick / 256, phi := b.phi + d })
    .next { s1 with metro := ((s.metro : Int) + d).toNat }

/-- DOWNBEAT_MISSED: no Downbeat has come within its time (R414). -/
def execDownbeatMissed (s : State) : Out := .next (if s.ring.follows then s.missDb else s)

/-! ### Ring failures (R415, R416) -/

/-- RING_ERROR_BLOCK: a block with a sync-header or framing error is received (R415). -/
def execRingErrorBlock (lane : Fin 4) (s : State) : Out :=
  if s.ring.bypass then .next s
  else .next ((s.modBeat (fun b => { b with linkErrs := sat 32 (b.linkErrs + 1), invalidWin := sat 32 (b.invalidWin + 1) })).report 0x0A lane.val false s.nowSI 1 0)

/-- RING_LOSS: a cause of R416 comes about. -/
def execRingLoss (cause : RingLossCause) (s : State) : Out :=
  let s1 := match cause with
    | .laneUnlock lane => (s.modBeat (fun b => { b with laneLock := vmod b.laneLock lane (fun _ => false) })).report 0x0A lane.val false s.nowSI 2 0
    | .loopChange => s.report 0x0A 0 false s.nowSI 3 0
    | _ => s
  .next (s.devEvents s1.ringDrop.syncBypass)

/-- A RING_LINK report of a lane is active or on its way. [DEDUCED, log 86] -/
def State.laneReported (s : State) (lane : Fin 4) : Bool :=
  (s.gongInst 0x0A lane.val).active || s.gong.inbox.any (fun r => r.src == 0x0A && r.inst == lane.val && !r.cleared)

/-- RING_LANE_LOCK: a RING_IN lane is locked again and its condition ends (R415). [DEDUCED, log 86] -/
def execRingLaneLock (lane : Fin 4) (s : State) : Out :=
  let s1 := s.modBeat (fun b => { b with laneLock := vmod b.laneLock lane (fun _ => true) })
  .next (if s.laneReported lane && !s.ring.laneLock[lane] then s1.report 0x0A lane.val true s.nowSI 0 0 else s1)

end Sys2Proof.Machine
end

