-- ==== Sys2Proof/Machine/Place.lean ====
section
/-! DEFINITION. Vector lines and their codes, and how a vector places its drive events, strobes and reflex arm windows
(R103 to R111, R165 to R168, R181 to R185, R193, R227). -/

namespace Sys2Proof.Machine

open Sys2Proof

/-! ### Vector lines (R105 to R111) -/

/-- Bytes of pin data of one group (R105). -/
def SeqCfg.groupBytes (k : SeqCfg) : Nat := (if k.compact then 4 else 6) * 2 ^ k.beatsLog2

/-- The line length L of the committed format and group set (R105). -/
def State.lineBytes (s : State) (q : Fin 4) : Nat := (8 + (s.grpsOf q).length * (s.cfg.seqs[q]).groupBytes + 7) / 8 * 8

/-- A vector line: its header as a number, and all its bytes (R107). -/
structure VLine where
  /-- header. -/
  head : Nat
  /-- bytes of the line. -/
  bytes : List Byte
  deriving DecidableEq, Repr

/-- The line that bytes spell. -/
def lineOf (bs : List Byte) : VLine := { head := rd bs 0 8, bytes := bs }
/-- OPCODE. -/
def VLine.op (l : VLine) : Nat := bits l.head 63 58
/-- TSI. -/
def VLine.tsi (l : VLine) : Nat := bits l.head 57 52
/-- Beats of the vector (R108). -/
def VLine.beats (l : VLine) : Nat := 2 ^ bits l.head 51 50
/-- SQ. -/
def VLine.sq (l : VLine) : Bool := bit l.head 45
/-- NOHANDOFF. -/
def VLine.noHand (l : VLine) : Bool := bit l.head 44
/-- NOFLAG. -/
def VLine.noflag (l : VLine) : Bool := bit l.head 43
/-- RESTART. -/
def VLine.restart (l : VLine) : Bool := bit l.head 42
/-- MARK. -/
def VLine.mark (l : VLine) : Nat := bits l.head 41 32
/-- OPERAND. -/
def VLine.operand (l : VLine) : Nat := bits l.head 31 0

/-- A full code (R110). -/
def fullCode (n : Nat) : Code :=
  match n with
  | 0 => .k
  | 1 => .d0
  | 2 => .d1
  | 3 => .dz
  | 4 => .el
  | 5 => .eh
  | 6 => .em
  | _ => .cp

/-- A compact code of a compare or drive role (R111). -/
def compactCode (compare : Bool) (n : Nat) : Code :=
  match n with
  | 0 => .k
  | 1 => if compare then .el else .d0
  | 2 => if compare then .eh else .d1
  | _ => if compare then .em else .dz

/-- The codes of a pin in the beats of a vector; its group is the `gi`-th of the line (R109 to R111). -/
def SeqCfg.codes (k : SeqCfg) (l : VLine) (gi : Nat) (p : Fin 128) : List Code :=
  let d := unle ((l.bytes.drop (8 + gi * k.groupBytes)).take k.groupBytes)
  (List.range l.beats).map (fun j =>
    let i := 16 * j + (entOf p).val
    if k.compact then compactCode (k.roles.testBit p.val) (bits d (2 * i + 1) (2 * i)) else fullCode (bits d (3 * i + 2) (3 * i)))

/-- The timing set that a vector selects (R107). -/
def State.setOf (s : State) (q : Fin 4) (g : Fin 8) (l : VLine) : TSet := (s.cfg.grps[g]).sets[fin 64 (l.tsi + s.seqs[q].base)]

/-! ### Drive events (R181 to R185) -/

/-- The level of a drive code. -/
def Code.level (c : Code) : Level := if c = .d1 then .vih else .vil
/-- The other level. -/
def Level.flip (l : Level) : Level := if l = .vil then .vih else .vil

/-- Drive events of a ONE_BEAT vector, in the order of their times (R182, R185). -/
def TSet.oneDrive (t : TSet) (e : Fin 16) (format : Nat) (c : Code) : List (Nat × DrvAct) :=
  let data := (t.tm e 1).getD 0
  if c = .k then []
  else if c = .d0 ∨ c = .d1 then
    let l := c.level
    let first : DrvAct := if format = 2 then .turnOn (some .vil) else if format = 3 then .turnOn (some .vih) else if format = 4 then .assign l.flip else .turnOn none
    let last : Level := if format = 2 then .vil else if format = 3 then .vih else l.flip
    let a := match t.tm e 0 with
      | some x => [(x, first)]
      | none => []
    let b := match t.tm e 2 with
      | some x => if 2 ≤ format then [(x, DrvAct.assign last)] else []
      | none => []
    a ++ [(data, .assign l)] ++ b
  else [((t.tm e 3).getD data, .release c)]

/-- Drive events of the beats of a MULTI_BEAT vector, from beat `j` on (R183, R185). -/
def TSet.multiDrive (t : TSet) (e : Fin 16) (format : Nat) : Nat → List Code → List (Nat × DrvAct)
  | _, [] => []
  | j, c :: cs =>
    let x := (t.tm e j).getD 0
    let r := t.multiDrive e format (j + 1) cs
    if c = .k then r
    else if c = .d0 ∨ c = .d1 then
      let rest := match t.tm e 16 with
        | some w => if format = 2 ∨ format = 3 then [(x + w, DrvAct.assign (if format = 2 then .vil else .vih))] else []
        | none => []
      (x, .assign c.level) :: (rest ++ r)
    else (x, .release c) :: r

/-- Drive events of a vector for one pin. -/
def TSet.drive (t : TSet) (e : Fin 16) (format : Nat) (cs : List Code) : List (Nat × DrvAct) :=
  if t.kind = 1 then t.oneDrive e format (cs.headD .k) else t.multiDrive e format 0 cs

/-! ### Strobes (R227) -/

/-- Strobes of a vector for one pin: opening, width if a window, code and beat. -/
def TSet.strobes (t : TSet) (e : Fin 16) (cs : List Code) : List (Nat × Option Nat × Code × Nat) :=
  (cs.zipIdx.filter (fun c => c.1.reads != (false, false))).map (fun (c, j) =>
    if t.kind = 1 then
      let o := (t.tm e 4).getD 0
      (o, (t.tm e 5).map (fun x => x - o), c, j)
    else ((t.tm e (8 + j)).getD 0, t.tm e 17, c, j))

/-! ### The spacing rule (R167) -/

/-- Times of successive events of a pin with the spacing rule applied: placed time, amount moved, and the event. [DEDUCED, log 49] -/
def spread {α : Type} : Option Nat → List (Nat × α) → List (Nat × Nat × α)
  | _, [] => []
  | last, (t, a) :: l =>
    let u := match last with
      | none => t
      | some x => max t (x + minSpace)
    (u, u - t, a) :: spread (some u) l

/-- The last placed time, or the one before where nothing is placed. [DEDUCED, log 49] -/
def lastPlaced {α : Type} (old : Option Nat) (l : List (Nat × Nat × α)) : Option Nat :=
  match l.getLast? with
  | none => old
  | some e => some e.1

/-! ### Reflex arm windows (R193) -/

/-- The arm windows of a pin before a vector that begins for it at `a`: one opens at a vector of K alone unless one is open, and
another vector closes it; closes by drive events are found from the events placed (R193). -/
def Pin.armVector (x : Pin) (allK : Bool) (a : Nat) : Pin :=
  let ws := x.reflex.wins
  let isOpen := ws.any (fun w => (x.winClose w).isNone)
  let new := if allK then (if isOpen then ws else ws ++ [(a, none, false)]) else ws.map (fun w => if w.2.1.isNone then (w.1, some a, w.2.2) else w)
  { x with reflex := { x.reflex with wins := new } }

/-! ### One vector -/

/-- What an issued vector gives to every strobe it places, and its start. -/
structure VecCtx where
  /-- start. -/
  tv : Nat
  /-- template of its strobes. -/
  tmpl : StrobeEv
  deriving DecidableEq, Repr

/-- A pin with the events of a vector placed (R166, R167, R184, R227). [DEDUCED, log 56] -/
def Pin.placeVec (x : Pin) (v : VecCtx) (t : TSet) (e : Fin 16) (format : Nat) (cs : List Code) (od os : Int) (masked : Bool) : Pin :=
  let ball (o : Int) (E : Nat) : Nat := (((v.tv + E : Nat) : Int) + o).toNat
  let n := v.tmpl.vec
  let evs := t.drive e format cs
  let late := decide (format = 1)
  let first : List DrvEv := if n = 0 then [{ want := ball od 0, act := .start, prog := v.tv }] else []
  let now : List (Nat × DrvAct × Nat) := (if n = 0 then [] else x.carry.map (fun c => (c.1, c.2, n - 1))) ++ (if late then [] else evs.map (fun c => (c.1, c.2, n)))
  let dq := now.map (fun c => ({ want := ball od c.1, act := c.2.1, vec := c.2.2, prog := v.tv + c.1 } : DrvEv))
  let ss := spread x.lastStrobe ((t.strobes e cs).map (fun c => (ball os c.1, c.2)))
  let sq := ss.map (fun d => { v.tmpl with opens := d.1, closes := d.1 + d.2.2.1.getD 0, window := d.2.2.1.isSome, code := d.2.2.2.1, beat := d.2.2.2.2, masked := masked, clash := decide (d.2.1 ≠ 0) })
  let allK := cs.all (fun c => c == .k)
  let y := x.armVector allK (ball od 0)
  ({ y with driveQ := y.driveQ ++ first ++ dq, carry := if late then evs else [], strobeQ := y.strobeQ ++ sq, lastStrobe := lastPlaced x.lastStrobe ss, prevKeep := allK, keep2 := x.prevKeep, stale := x.stale || n == 0, sealNext := x.sealNext && n != 0, logged := if n = 0 then 0 else x.logged }).replan

/-- The moved events among those that a vector added to a pin: placed time, vector and amount (R167). [DEDUCED, log 48] -/
def Pin.movedSince (x old : Pin) (os : Int) (w : List (Nat × Option Nat)) : List (Nat × Nat × Nat) :=
  let ss := ((x.strobeQ.drop old.strobeQ.length).zip w).filter (fun d => d.1.clash)
  x.moves ++ ss.map (fun d => (d.1.opens, d.1.vec, (((d.1.opens : Nat) : Int) - (d.1.vstart + d.2.1 + os)).toNat))

/-- What the placing of a vector leaves to its record: strobes with an expectation, all strobes, latest close of each pin, and
the events moved, by placed time, pin, vector and amount. -/
structure PlaceAcc where
  /-- strobes on unmasked pins with an expectation. -/
  expects : Nat := 0
  /-- strobes placed. -/
  strobes : Nat := 0
  /-- latest close of each pin with a strobe. -/
  closes : List (Fin 128 × Nat) := []
  /-- moved events. -/
  moved : List (Nat × Fin 128 × Nat × Nat) := []
  deriving DecidableEq, Repr

/-- One pin of an issued vector. [DEDUCED, log 56] -/
def State.placePin (s : State) (q : Fin 4) (v : VecCtx) (l : VLine) (gi : Nat) (p : Fin 128) (a : PlaceAcc) : State × PlaceAcc :=
  let g := grpOf p
  let e := entOf p
  let cs := (s.cfg.seqs[q]).codes l gi p
  let t := s.setOf q g l
  let refl (x : Fin 128) : Option Nat := s.pins[x].reflFix
  let od := offD refl s.cfg p
  let os := offS refl s.cfg p
  let old := s.pins[p]
  let new := old.placeVec v t e (s.pinCfg p).format cs od os ((s.cfg.grps[g]).masked e v.tmpl.addr)
  let added := new.strobeQ.drop old.strobeQ.length
  let mv := (new.movedSince old os ((t.strobes e cs).map (fun c => (c.1, c.2.1)))).map (fun m => (m.1, p, m.2))
  (s.modPin p (fun _ => new),
    { expects := a.expects + (added.filter (fun x => x.code != .cp && !x.masked)).length, strobes := a.strobes + added.length, closes := if added.isEmpty then a.closes else a.closes ++ [(p, (added.map (fun x => x.closes)).foldl max 0)], moved := a.moved ++ mv })

/-- Every owned pin of an issued vector, groups ascending. -/
def State.placeVector (s : State) (q : Fin 4) (v : VecCtx) (l : VLine) : State × PlaceAcc :=
  (s.grpsOf q).zipIdx.foldl (fun r gi => (List.finRange 16).foldl (fun r e => r.1.placePin q v l gi.2 (pinOf gi.1 e) r.2) r) (s, {})

end Sys2Proof.Machine
end

