-- ==== Sys2Proof/Machine/Flow.lean ====
section
/-! DEFINITION. The flow of a burst: decisions, the line of the vector due, vector faults, the issue of a vector, and the end of
a burst (R24, R79, R98, R99, R114 to R138, R144, R145). -/

namespace Sys2Proof.Machine

open Sys2Proof

/-- Issue time of the vector due. -/
def Seq.due (x : Seq) : Nat := issueAt x.nextStart

/-- A relative target; one below 0 lies past the last vector address (R115, R132). -/
def relTarget (a : Nat) (bitsN off : Nat) : Nat :=
  let t : Int := (a : Int) + sext bitsN off
  if t < 0 then (2 ^ 32 + (t + 2 ^ 32)).toNat else t.toNat

/-- The island cycle of 1 ns that holds a time (R152). -/
def State.cycle (s : State) (t : Nat) : Int := ((t : Int) - s.ring.phi) / 2048

/-! ### Decisions (R124 to R128, R137) -/

/-- The vector due is the one after the repeated vector. -/
def Seq.goOn (x : Seq) (target : Nat) : Seq := { x with dec := .none, wait := .none, addr := target, reps := 0, passAt := none, tapSeen := none }

/-- A branch is decided at issue time `T`. -/
def Seq.decided (x : Seq) (T alt : Nat) : Seq := { x with decAt := T, decTarget := alt, decAny := true }

/-- A wait runs out: the fail flag sets at the decision (R126, R128, R135). [DEDUCED, log 50] -/
def State.timeout (s : State) (q : Fin 4) (tc : Nat) : State := s.setFlag q (s.seqs[q].vecs - 1) tc s.nowGHz

/-- The decision that the last vector left is taken at issue time `T`, from the state of 4 ns before; true if it is a JMPG with no
data to decide on (R124, R415). [DEDUCED, log 47] [DEDUCED, log 50] -/
def State.resolve (s : State) (q : Fin 4) (T : Nat) : State × Bool :=
  let x := s.seqs[q]
  let tc := T - nsF 4
  match x.dec with
  | .none => (s, false)
  | .jmpf target =>
    let taken := x.flag && decide (x.flagAt ≤ tc)
    (s.modSeq q (fun y => (y.goOn (if taken then target else y.addr)).decided T target), false)
  | .jmpg glob gt target =>
    match s.globalDecision q (T / 512 * 512) (if glob then none else some gt) with
    | none => (s, true)
    | some b =>
      (s.modSeq q (fun y =>
        let z := (y.goOn (if b then target else y.addr)).decided T target
        if glob then z else { z with jmpgLast := vmod z.jmpgLast gt (fun _ => some (T / 512 * 512 - s.ring.gdl)) }), false)
  | .matching n target =>
    let passed := match x.passAt with | none => false | some t => decide (t ≤ tc)
    if passed then (s.modSeq q (fun y => (y.goOn (y.addr + 1)).decided T target), false)
    else if n ≠ 0 ∧ n ≤ x.reps then
      ((s.modSeq q (fun y => { (y.goOn target).decided T target with matchTo := sat 16 (y.matchTo + 1) })).timeout q tc, false)
    else (s.modSeq q (fun y => y.decided T target), false)
  | .tapw _ n =>
    let seen := match x.tapSeen with | none => false | some t => decide (t ≤ tc)
    if seen then (s.modSeq q (fun y => y.goOn (y.addr + 1)), false)
    else if n ≠ 0 ∧ n ≤ x.reps then
      ((s.modSeq q (fun y => { y.goOn (y.addr + 1) with tapwTo := sat 16 (y.tapwTo + 1) })).timeout q tc, false)
    else (s, false)

/-! ### The line of the vector due (R79, R94, R97 to R99) -/

/-- Start of the first slot of the reservation in which a line of the page can be fetched: in a Bar that begins after the page
became Resident, and after admission, fine LSB (R80, R94). -/
def Seq.firstFetch (x : Seq) (p : Page) : Nat :=
  let b := max (256 * (p.since / 256 + 1)) x.admTick
  let at_ (i : Nat) : Nat := let t := b / 256 * 256 + 4 * i; if b ≤ t then t else t + 256
  512 * ((x.slots.map at_).foldl min (at_ (x.slots.headD 0)))

/-- A line as the sequencer has it at issue time: from a buffer, or read on time from a page that is fetchable; else the REASON
why it is missing. [DEDUCED, log 34] [DEDUCED, log 35] -/
def State.lineAt (s : State) (q : Fin 4) (la T : Nat) : Except Nat BufLine :=
  let x := s.seqs[q]
  match (x.buf ++ x.alt).find? (fun l => l.addr == la && decide (l.usable ≤ T)) with
  | some l => .ok l
  | none =>
    match s.store.page (pageOf la) with
    | none => .error 1
    | some p =>
      if p.owner != (if x.secure then .secure else .ctx x.ctx) then .error 3
      else if !p.resident then .error 2
      else if T < x.firstFetch p + nsF 8 then .error 1
      else .ok (s.store.bufLine la T)

/-- A line of a vector is in no buffer and comes from its page on time. -/
def Seq.fetchesLate (x : Seq) (la T : Nat) : Bool := !(x.buf ++ x.alt).any (fun l => l.addr == la && decide (l.usable ≤ T))

/-- The store lines of a vector, lowest first. -/
def vecLines (a len : Nat) : List Nat := (List.range ((a + len - 1) / 64 + 1 - a / 64)).map (fun i => 64 * (a / 64 + i))

/-- Lines of the vector due that came from their page rather than from a buffer were fetched: their page is used and their
memory errors count (R76, R84). [DEDUCED, log 34] -/
def State.movedOn (s : State) (q : Fin 4) (T : Nat) : State :=
  let x := s.seqs[q]
  (vecLines (x.lineOfVec x.addr) x.lineLen).foldl (fun t la =>
    if x.fetchesLate la T && (match s.lineAt q la T with | .ok _ => true | .error _ => false) then (t.meetErrs la 64).modStore (fun y => y.touch (pageOf la)) else t) s

/-- What a sequencer does at the issue time of the vector due. -/
inductive Due where
  /-- The burst ends: END_REASON, fault subcode, and address and REASON of a store end record. -/
  | ends (reason sub : Nat) (store : Option (Nat × Nat))
  /-- The vector is issued: its line, its first unwritten store line, and whether a page of it is sealed. -/
  | issue (l : VLine) (unwritten : Option Nat) (sealed : Bool)
  deriving DecidableEq, Repr

/-- The line of a vector, or the end that its lines bring (R79, R98, R99). [DEDUCED, log 35] -/
def State.fetchVec (s : State) (q : Fin 4) (a len T : Nat) : Due :=
  let ls := (vecLines a len).map (fun la => (la, s.lineAt q la T))
  let bad := ls.find? (fun e => match e.2 with | .ok l => l.ue | .error _ => false)
  let gone := ls.find? (fun e => match e.2 with | .ok _ => false | .error _ => true)
  match bad with
  | some e => .ends 4 0 (some (e.1, 8))
  | none =>
    match gone with
    | some e => .ends 3 0 (some (e.1, match e.2 with | .ok _ => 0 | .error r => r))
    | none =>
      let got := ls.filterMap (fun e => match e.2 with | .ok l => some l | .error _ => none)
      let bs := got.flatMap (fun l => l.data)
      .issue (lineOf ((bs.drop (a % 64)).take len)) ((got.find? (fun l => !l.written)).map (fun l => l.addr)) (got.any (fun l => l.sealed))

/-! ### Vector faults (R132) -/

/-- Reserved operand bits are zero, and the opcode is assigned (R114, R115). -/
def VLine.opOk (l : VLine) : Bool :=
  let o := l.operand
  let op := l.op
  if op ∈ [0x00, 0x03, 0x05, 0x0E, 0x3F] then o == 0
  else if op ∈ [0x01, 0x02, 0x04, 0x06, 0x07, 0x09, 0x0D] then true
  else if op = 0x08 then decide (bits o 31 28 ≤ 1)
  else if op = 0x0A then bits o 31 30 == 0
  else if op = 0x0B then o == bits o 29 24 * 2 ^ 24
  else if op = 0x0C then bits o 29 10 == 0 && bits o 7 6 == 0
  else if op = 0x0F then bits o 31 16 == 0
  else false

/-- Every owned group's set fits the vector (R108, R120, R161, R168). -/
def State.setsOk (s : State) (q : Fin 4) (l : VLine) : Bool :=
  let x := s.seqs[q]
  (s.grpsOf q).zipIdx.all (fun gi =>
    let t := s.setOf q gi.1 l
    let kindOk := if l.beats = 1 then t.kind == 1 else t.kind == 2 && decide (l.beats ≤ t.beats)
    kindOk && t.pfMask.testBit x.pf.val &&
      (List.finRange 16).all (fun e => t.uses e || ((s.cfg.seqs[q]).codes l gi.2 (pinOf gi.1 e)).all (fun c => c == .k)))

/-- The alternate target of a conditional branch (R126, R127, R135). -/
def VLine.altOf (l : VLine) (a : Nat) : Option Nat :=
  if l.op = 0x07 then some l.operand
  else if l.op = 0x08 then some (relTarget a 24 (bits l.operand 23 0))
  else if l.op = 0x09 then some (relTarget a 16 (bits l.operand 15 0))
  else none

/-- The decision of a conditional that is due comes too soon after the one before (R135). -/
def Seq.tooClose (x : Seq) (l : VLine) (T per : Nat) : Bool :=
  match l.altOf x.addr with
  | none => false
  | some t => x.reps == 0 && x.decAny && decide (T + per < x.decAt + nsF 32) && t != x.decTarget

/-- The vector fault of the vector due, if it has one; the order of R132 where it has several. [DEDUCED, log 45] -/
def State.faultOf (s : State) (q : Fin 4) (l : VLine) (T : Nat) : Option Nat :=
  let x := s.seqs[q]
  let k := s.cfg.seqs[q]
  if !l.opOk then some 0x3010
  else if bits l.head 49 46 ≠ 0 then some 0x3011
  else if k.beatsLog2 < bits l.head 51 50 then some 0x3012
  else if !s.setsOk q l then some 0x3013
  else if (l.op = 0x02 ∧ !x.lpbPlain ∧ 16 ≤ x.loops.length) ∨ (l.op = 0x04 ∧ 16 ≤ x.calls.length) then some 0x3014
  else if (l.op = 0x03 ∧ x.loops = []) ∨ (l.op = 0x05 ∧ x.calls = []) then some 0x3015
  else if l.op = 0x05 ∧ ((match x.calls with | [] => false | f :: _ => f.depth != x.loops.length) = true) then some 0x3016
  else if l.op = 0x08 ∧ !k.global then some 0x3017
  else if x.tooClose l T k.pf[x.pf] then some 0x3019
  else if x.vecs = 0 ∧ x.startVa ≠ 0 ∧ !l.restart then some 0x301A
  else none

/-! ### What is due (R144) -/

/-- A request has reached the sequencer in a cycle before that of the issue (R144). [DEDUCED, log 46] -/
def State.reached (s : State) (o : Option Nat) (T : Nat) : Bool := match o with | none => false | some a => decide (s.cycle a < s.cycle T)

/-- A stop takes the vector due (R147). [DEDUCED, log 46] -/
def State.stops (s : State) (q : Fin 4) (l : VLine) (T : Nat) : Bool :=
  let x := s.seqs[q]
  s.reached x.stopReq T || (s.reached x.restartReq T && l.restart && x.loops.isEmpty && x.calls.isEmpty)

/-- What happens at the issue time of the vector due, decisions taken and commits in effect; `lost` where its decision has no data. [DEDUCED, log 47] -/
def State.dueVec (s : State) (q : Fin 4) (T : Nat) (lost : Bool) : Due :=
  let x := s.seqs[q]
  let a := x.lineOfVec x.addr
  if s.reached x.abortReq T then .ends 6 0 none
  else if s.reached x.closeReq T then .ends 7 0 none
  else if lost then .ends 5 0x1010 none
  else if 2 ^ 32 ≤ x.addr ∨ 2 ^ 42 < a + x.lineLen then .ends 5 0x3018 none
  else match s.fetchVec q a x.lineLen T with
    | .ends r b st => .ends r b st
    | .issue l unw sl =>
      match s.faultOf q l T with
      | some f => .ends 5 f none
      | none => if s.stops q l T then .ends 2 0 none else .issue l unw sl

/-- The state at the issue time of the vector due without and with the commits that reach it, and what is due (R61, R64). -/
def State.prepare (s : State) (q : Fin 4) : State × State × Due :=
  let T := s.seqs[q].due
  let r := (s.absorb q (T - nsF 4)).resolve q T
  let s1 := r.1.absorb q T
  let u := s1.applyParts q T s1.seqs[q].nextStart (some s1.seqs[q].vecs)
  (s1, u, u.dueVec q T r.2)

/-! ### The end of a burst (R96, R144, R145) -/

/-- A pin at the end of its burst: strobes already placed stay, nothing more is placed, and the halt state comes (R145, R184, R193). [DEDUCED, log 52] -/
def Pin.burstEnd (x : Pin) (t mode vec : Nat) : Pin :=
  let ws := x.reflex.wins.map (fun w => if w.2.1.isNone then (w.1, some t, w.2.2) else w)
  Pin.replan { x with driveQ := x.driveQ ++ [{ want := t, act := .halt mode, vec := vec, prog := t }], carry := [], reflex := { x.reflex with wins := ws } }

/-- A burst that ends for a missing page has demanded it: the fetch pointer reached the page no later than its vector fell due
(R92, R98). [DEDUCED, log 34] -/
def State.demandMissing (s : State) (q : Fin 4) (reason : Nat) (store : Option (Nat × Nat)) : State :=
  match store with
  | none => s
  | some (la, _) =>
    let n := pageOf la
    if reason = 3 ∧ !s.residentFor q n ∧ !s.seqs[q].demanded.contains n then s.demand q n true s.nowGHz.tick else s

/-- A burst ends: slots and streaming budget are released, pins take the halt state, commits on their way take effect (R61, R96,
R144, R145, R365). [DEDUCED, log 156] -/
def State.endBurst (s : State) (q : Fin 4) (reason sub fine addr : Nat) (store : Option (Nat × Nat)) : State :=
  let mode := (s.cfg.seqs[q]).haltMode
  let v := s.seqs[q].vecs
  let s1 := s.modSeq q (fun x => { x with st := .ending, wait := .none, dec := .none, endReason := reason, endSub := sub, endFine := fine, endAddr := addr, storeEnd := store, slots := [], kSeq := 0, streamNum := 0, streamDen := 1, streamMbps := 0, buf := [], alt := [] })
  let s2 := (s1.pinsOf q).foldl (fun t p => t.modPin p (fun x => x.burstEnd fine mode v)) s1
  let s3 := (s2.grpsOf q).foldl (fun t g => t.modGrp g (fun x => if x.take.carried.isSome then { x with take := { x.take with endAt := some fine } } else x)) s2
  s3.applyParts q (fine + 2 ^ 80) fine none

/-! ### The issue of a vector (R115 to R131) -/

/-- The start to which a SYNC aligns: the (SKIP + 1)-th Downbeat plus 64 ns at least one period after the first start (R130). -/
def syncStart (db start per skip : Nat) : Nat :=
  let P := 2 ^ db * 512
  (ceilDiv (start + per - nsF 64) P + skip) * P + nsF 64

/-- The sequencer after it has issued the vector at `addr` from `start` to `fin`: stacks, waits, decision and successor. -/
def Seq.advance (x : Seq) (l : VLine) (start fin_ per db : Nat) : Seq :=
  let o := l.operand
  let a := x.addr
  let y := { x with vecs := x.vecs + 1, lastAddr := a, nextStart := fin_, lpbPlain := false, noHand := l.noHand }
  let next : Seq := { y with addr := a + 1, reps := 0 }
  let again : Seq := { y with reps := y.reps + 1 }
  if l.op = 0x01 then (if x.reps + 1 < max 1 o then again else next)
  else if l.op = 0x02 then (if x.lpbPlain then next else { next with loops := { addr := a, count := max 1 o } :: x.loops })
  else if l.op = 0x03 then
    match x.loops with
    | [] => next
    | f :: fs => if 1 < f.count then { next with loops := { f with count := f.count - 1 } :: fs, addr := f.addr, lpbPlain := true } else { next with loops := fs }
  else if l.op = 0x04 then { next with calls := { ret := a + 1, depth := x.loops.length } :: x.calls, addr := o }
  else if l.op = 0x05 then
    match x.calls with
    | [] => next
    | f :: fs => { next with calls := fs, addr := f.ret }
  else if l.op = 0x06 then { next with addr := o }
  else if l.op = 0x07 then { next with dec := .jmpf o }
  else if l.op = 0x08 then { next with dec := .jmpg (bits o 31 28 == 0) (fin 16 (bits o 27 24)) (relTarget a 24 (bits o 23 0)) }
  else if l.op = 0x09 then
    { again with wait := .matching, dec := .matching (bits o 27 16 * 2 ^ bits o 31 28) (relTarget a 16 (bits o 15 0)), passAt := if x.reps = 0 then none else x.passAt }
  else if l.op = 0x0A then
    let ch := bits o 29 24
    if x.wait = .tapw then again
    else if x.tapPend.testBit ch then { next with tapPend := x.tapPend - 2 ^ ch }
    else { again with wait := .tapw, tapwChan := ch, tapSeen := none, dec := .tapw (fin 64 ch) (bits o 23 0) }
  else if l.op = 0x0C then { next with base := if bit o 31 then bits o 5 0 else x.base, pf := if bit o 30 then fin 4 (bits o 9 8) else x.pf }
  else if l.op = 0x0F then
    let aim := if x.wait = .sync then x.syncTo else syncStart db start per (bits o 15 0)
    if fin_ + per ≤ aim then { again with wait := .sync, syncTo := aim } else { next with wait := .none, syncTo := aim, nextStart := max fin_ aim }
  else next

/-- The channel of a TAPR enters the Tap Matrix, or the raise has no route and is reported (R129, R306, R322). -/
def State.tapr (s : State) (q : Fin 4) (ch start : Nat) : State :=
  let c := s.taps.chans[fin 64 ch]
  let ts : Ts := { fine := start, flags := s.tsFlags 1 false false false }
  if c.enabled && c.prod == 8 + q.val then
    let r : Raise := { prod := 8 + q.val, ts := ts, only := some (fin 64 ch), fine := start }
    s.modTaps (fun m => { m with raises := m.raises ++ [r] })
  else s.report 0x19 q.val false s.nowGHz ch 0

/-- CLRF clears the fail flag as its vector is issued (R119). -/
def Seq.clearFlag (x : Seq) (v T : Nat) : Seq :=
  { x with flag := false, clrfVec := v, flagHist := if x.flag then (T, false) :: x.flagHist else x.flagHist }

/-- What an issued vector gives to the strobes it places (R227). -/
def Seq.template (x : Seq) (l : VLine) (sl : Bool) : StrobeEv :=
  { vec := x.vecs, addr := x.addr, mark := l.mark, beatLog2 := bits l.head 51 50, isMatch := l.op == 0x09, noflag := l.noflag, sealed := x.sealedVec.isSome || sl, vstart := x.nextStart }

/-- The record of an issued vector (R115, R263). -/
def Seq.record (x : Seq) (l : VLine) (sl : Bool) (per : Nat) (a : PlaceAcc) : VecRec :=
  let rep := l.op = 0x09 ∨ l.op = 0x0F ∨ (l.op = 0x0A ∧ (x.wait = .tapw ∨ !x.tapPend.testBit (bits l.operand 29 24)))
  { vec := x.vecs, addr := x.addr, start := x.nextStart, fin := x.nextStart + per, sq := l.sq, waitRep := decide rep, flagSet := x.flag, sealed := x.sealedVec.isSome || sl, strobes := a.expects, lastClose := (a.closes.map (fun c => c.2)).foldl max 0, closes := a.closes }

/-- The sequencer `y` after the issue of a vector: its flow, its record, and the flag that CLRF clears. -/
def Seq.issued (y : Seq) (x : Seq) (l : VLine) (unw : Option Nat) (sl : Bool) (per db : Nat) (a : PlaceAcc) : Seq :=
  let z := y.advance l x.nextStart (x.nextStart + per) per db
  let z1 := { z with hist := x.record l sl per a :: z.hist, strobesOut := z.strobesOut + a.strobes, unwritten := z.unwritten || unw.isSome, sealedVec := if x.sealedVec.isNone && sl then some x.vecs else x.sealedVec, passAt := if l.op = 0x09 ∧ a.expects = 0 ∧ z.passAt = none then some 0 else z.passAt }
  if l.op = 0x0E then z1.clearFlag x.vecs x.due else z1

/-- What the issue of a vector of sequencer `x` reports and does beside its flow: an unwritten line, a sealed vector, and the
act of TAPR, MARK or HALT (R79, R118, R129, R131). -/
def State.issueActs (s : State) (q : Fin 4) (x : Seq) (l : VLine) (unw : Option Nat) (sl : Bool) (per : Nat) : State :=
  let s4 := match unw with
    | some la => if x.unwritten then s else s.report 0x1F 0 false s.nowGHz la (la / 2 ^ 32)
    | none => s
  let s5 := if x.sealedVec.isSome || sl then (s4.pinsOf q).foldl (fun t p => t.modPin p Pin.sealFails) (s4.modFmap q (fun m => { m with sealed := true })) else s4
  if l.op = 0x0B then s5.tapr q (bits l.operand 29 24) x.nextStart
  else if l.op = 0x0D then s5.capUser q x.vecs x.addr l.mark l.operand x.nextStart
  else if l.op = 0x3F then s5.endBurst q 1 0 (x.nextStart + per) (x.addr + 1) none
  else s5

/-- Vector 0 is issued: the START record and the BURST marks of its beginning are written (R239, R247, R279). -/
def State.vectorZero (s : State) (q : Fin 4) (sl : Bool) : State := (s.logStart q sl).capBurstStart q

/-- A vector is issued: its events are placed, its record is kept, and its opcode acts (R115 to R131). -/
def State.issueVec (s : State) (q : Fin 4) (l : VLine) (unw : Option Nat) (sl : Bool) : State :=
  let x := s.seqs[q]
  let per := (s.cfg.seqs[q]).pf[x.pf]
  let r := (if x.vecs = 0 then s.vectorZero q sl else s).placeVector q { tv := x.nextStart, tmpl := x.template l sl } l
  ((r.1.modSeq q (fun y => y.issued x l unw sl per r.1.ring.db r.2)).reportClash q r.2.moved).issueActs q x l unw sl per

/-- The next repetition of a SYNC would end after the time to which it aligns: it is not issued (R130). -/
def State.syncLate (s : State) (q : Fin 4) : Bool :=
  let x := s.seqs[q]
  x.wait == .sync && decide (x.syncTo < x.nextStart + (s.cfg.seqs[q]).pf[x.pf])

/-- A SYNC has ended: the next vector begins where it aligns (R130). -/
def Seq.syncLeave (x : Seq) : Seq := { x with wait := .none, addr := x.addr + 1, reps := 0, nextStart := x.syncTo }

/-- At the issue time of the vector due, a vector with opcode `want` is issued; a burst that ends there ends under any opcode. -/
def State.issue (s : State) (q : Fin 4) (want : Nat) : State :=
  let x := s.seqs[q]
  if x.st != .running || decide (s.metro < x.due) then s
  else
    let (s1, u, d) := s.prepare q
    if u.syncLate q then s1.modSeq q Seq.syncLeave
    else match d with
    | .ends r sub st => ((if r = 4 then s1.movedOn q x.due else s1).demandMissing q r st).endBurst q r sub s1.seqs[q].nextStart s1.seqs[q].addr st
    | .issue l unw sl => if l.op = want then (u.movedOn q x.due).issueVec q l unw sl else s

/-- NOP: the vector due is issued once (R116). -/
def execNop (q : Fin 4) (s : State) : Out := .next (s.issue q 0x00)
/-- RPT (R117). -/
def execRpt (q : Fin 4) (s : State) : Out := .next (s.issue q 0x01)
/-- LPB (R122). -/
def execLpb (q : Fin 4) (s : State) : Out := .next (s.issue q 0x02)
/-- LPE (R122). -/
def execLpe (q : Fin 4) (s : State) : Out := .next (s.issue q 0x03)
/-- CALL (R122). -/
def execCall (q : Fin 4) (s : State) : Out := .next (s.issue q 0x04)
/-- RET (R122). -/
def execRet (q : Fin 4) (s : State) : Out := .next (s.issue q 0x05)
/-- JMP (R123). -/
def execJmp (q : Fin 4) (s : State) : Out := .next (s.issue q 0x06)
/-- JMPF (R125). -/
def execJmpf (q : Fin 4) (s : State) : Out := .next (s.issue q 0x07)
/-- JMPG (R127, R137). -/
def execJmpg (q : Fin 4) (s : State) : Out := .next (s.issue q 0x08)
/-- MATCH (R126). -/
def execMatch (q : Fin 4) (s : State) : Out := .next (s.issue q 0x09)
/-- TAPW (R128). -/
def execTapw (q : Fin 4) (s : State) : Out := .next (s.issue q 0x0A)
/-- TAPR (R129). -/
def execTapr (q : Fin 4) (s : State) : Out := .next (s.issue q 0x0B)
/-- TSET (R120). -/
def execTset (q : Fin 4) (s : State) : Out := .next (s.issue q 0x0C)
/-- MARK (R118). -/
def execMark (q : Fin 4) (s : State) : Out := .next (s.issue q 0x0D)
/-- CLRF (R119). -/
def execClrf (q : Fin 4) (s : State) : Out := .next (s.issue q 0x0E)
/-- SYNC (R130). -/
def execSync (q : Fin 4) (s : State) : Out := .next (s.issue q 0x0F)
/-- HALT (R131). -/
def execHalt (q : Fin 4) (s : State) : Out := .next (s.issue q 0x3F)

/-- COMMIT_APPLY_AT_VECTOR: commits whose strobe has reached the sequencer take effect at the vector due, if it is issued (R61). -/
def execCommitApplyAtVector (q : Fin 4) (s : State) : Out :=
  let x := s.seqs[q]
  if x.st != .running || decide (s.metro < x.due) then .next s
  else match (s.prepare q).2.2 with
    | .ends _ _ _ => .next s
    | .issue _ _ _ => .next (s.applyParts q x.due x.nextStart (some x.vecs))

end Sys2Proof.Machine
end

