-- ==== Sys2Proof/Machine/Burst.lean ====
section
/-! DEFINITION. Bursts: BURST_START and its admission, vector 0, the final entry, BURST_STOP and SEQ_STATUS
(R90, R91, R95, R96, R139 to R148). -/

namespace Sys2Proof.Machine

open Sys2Proof

/-! ### Descriptors (R90, R91, R139) -/

/-- Plan entry `i` of a descriptor image. -/
def planEnt (d : List Byte) (i : Nat) : PlanEnt := { page := rdw d (8 + 4 * i), firstUse := rd d (32 + 16 * i + 8) 8 }

/-- FIRST_USE does not fall from one entry to the next (R91). -/
def planSorted : List PlanEnt → Bool
  | a :: b :: l => decide (a.firstUse ≤ b.firstUse) && planSorted (b :: l)
  | _ => true

/-- START of a descriptor image. -/
def descStart (d : List Byte) : Nat := rdw d 4 + 2 ^ 32 * bits (rdw d 5) 9 0
/-- PAGE_COUNT of a descriptor image. -/
def descCount (d : List Byte) : Nat := rdw d 3
/-- The page plan of a descriptor image. -/
def descPlan (d : List Byte) : List PlanEnt := (List.range (descCount d)).map (planEnt d)

/-- Version, reserved fields, START and order of a descriptor image (R90, R91, R103). -/
def descOk (d : List Byte) : Bool :=
  rdw d 0 == 0x00010000 && rdw d 5 / 1024 == 0 && rdw d 6 == 0 && rdw d 7 == 0 && descStart d % 8 == 0 &&
  (List.range (descCount d)).all (fun i => decide (rdw d (8 + 4 * i) < 2 ^ 21) && rdw d (9 + 4 * i) == 0) && planSorted (descPlan d)

/-- Address of the descriptor of a basic BURST_START (R139). -/
def descAddr (p : Pkt) : Nat := p.arg1.toNat + 2 ^ 32 * p.arg2.toNat

/-- The descriptor image of a BURST_START; none if it lies in no Resident page of the sender or does not fit (R91, R139). -/
def State.descImage (s : State) (h : Hdr) (p : Pkt) : Option (List Byte) :=
  if p.isE then
    let d := p.body.drop 32
    if 8 ≤ p.units && decide (descCount d ≤ 32763) && p.units == 8 + 2 * descCount d then some d else none
  else
    let a := descAddr p
    match s.store.page (pageOf a) with
    | none => none
    | some g =>
      let n := rdw (s.store.line a) 3
      if g.resident && g.owner == h.who && decide (n ≤ 131070) && decide (a % 2 ^ 21 + 32 + 16 * n ≤ 2 ^ 21) then some ((s.store.lines a ((32 + 16 * n + 63) / 64)).take (32 + 16 * n)) else none

/-! ### Admission (R95, R96, R140) -/

/-- k_seq (R95). -/
def kSeqOf (bpv T : Nat) : Nat := max 4 (ceilDiv (bpv * 128) T + 1)

/-- Sum of two fractions. -/
def addFrac (a b : Nat × Nat) : Nat × Nat := (a.1 * b.2 + b.1 * a.2, a.2 * b.2)

/-- Streaming budget held by bursts, GB/s, as a fraction (R96). -/
def State.streamHeld (s : State) : Nat × Nat := s.seqs.toList.foldl (fun a q => addFrac a (q.streamNum, q.streamDen)) (0, 1)

/-- The admission checks of R96; status, subcode and DETAIL of the first that fails. -/
def State.admitFail (s : State) (d : List Byte) (T : Nat) : Option (Nat × Nat × Nat) :=
  let k := kSeqOf (rdw d 1) T
  let avail := min (28 - s.seqHeld) s.placeable
  let held := s.streamHeld
  let need : Nat × Nat := (rdw d 2 * 8, T)
  let total := addFrac held need
  if avail < k then some (0x020, 0x2010, min 255 k * 256 + min 255 avail)
  else if s.store.streamBudget * total.2 < total.1 then
    some (0x020, 0x2011, min 255 (ceilDiv need.1 need.2) * 256 + min 255 ((s.store.streamBudget * held.2 - held.1) / held.2))
  else none

/-- START_TICK of the payload. -/
def startTickOf (p : Pkt) : Nat := rd p.body 0 8

/-- Tick at which vector 0 is to begin: the tick given, or the first Bar start at least 2 µs after the admission (R140). -/
def startOf (p : Pkt) (adm : Nat) : Nat := if p.b0 7 then startTickOf p else ceilDiv (adm + 8000) 256 * 256

/-- The start record (R143). -/
def State.startRecord (s : State) (q : Fin 4) : List Byte :=
  let x := s.seqs[q]
  let pf0 := (s.cfg.seqs[q]).pf[(0 : Fin 4)]
  words [b2n x.globalB * 65536 + x.kSeq * 256 + q.val, x.streamMbps] ++ le 8 (x.startFine / 512) ++
    words [ceilDiv (nsF 32) pf0 % 65536 * 65536 + (if x.globalB then ceilDiv s.ring.gdl pf0 % 65536 else 0), 0, 0]

/-- A burst is admitted: what it holds, its start, and nothing of the burst before it (R95, R96, R140, R142, R244). -/
def State.startBurst (s : State) (h : Hdr) (p : Pkt) (q : Fin 4) (d : List Byte) : State :=
  let k := s.cfg.seqs[q]
  let T := k.shortest
  let adm := s.nowSI.tick
  let start := startOf p adm
  let ks := kSeqOf (rdw d 1) T
  let keep (o : Option Nat) : Option Nat := match o with | some t => if s.metro < t then some t else none | none => none
  let s1 := s.modSeq q (fun x => { x with st := .admitted, wait := .none, dec := .none, hdr := h, ctx := h.mb, secure := h.who == .secure, addr := p.arg3.toNat, startVa := p.arg3.toNat, startFine := start * 512, nextStart := start * 512, patStart := descStart d, lineLen := s.lineBytes q, descAddr := descAddr p, descHeld := !p.isE, plan := if p.isE then descPlan d else [], planRest := if p.isE then [] else descPlan d, demanded := [], unplanned := [], kSeq := ks, slots := s.placeSlots ks, streamNum := rdw d 2 * 8, streamDen := T, streamMbps := ceilDiv (rdw d 2 * 8000) T, admTick := adm, admPeriod := T, globalB := k.global, buf := [], alt := [], fetchPtr := descStart d + p.arg3.toNat * s.lineBytes q, altPtr := 0, matchTo := 0, tapwTo := 0, base := 0, pf := 0, flag := false, loops := [], calls := [], vecs := 0, lastAddr := 0xFFFFFFFF, reps := 0, stopReq := keep x.stopReq, closeReq := keep x.closeReq, abortReq := keep x.abortReq, restartReq := keep x.restartReq, endReason := 0, endSub := 0, storeEnd := none })
  let s2 := if k.fmClear then s1.clearMap q else s1
  s2.pushEntry h.mb h.ring { hdr := h, more := true, ts := s2.nowSI, payload := s2.startRecord q }

/-- Reading the descriptor counts the memory errors that it meets (R76, R91). -/
def State.meetDesc (s : State) (p : Pkt) (d : List Byte) : State := if p.isE then s else s.meetErrs (descAddr p) d.length

/-- Steps 3 and 4 of R140. -/
def State.globalFail (s : State) (p : Pkt) (q : Fin 4) : Option Fail :=
  let k := s.cfg.seqs[q]
  if !k.global then none
  else if !s.ring.trained then some (0x071, 0)
  else if k.pf.toList.any (fun T => decide (s.ring.gdlPTrained < T)) then some (0x071, 0x1006)
  else failIf (!p.b0 7) 0x030 0x3004

/-- BURST_START after intake (R140). [DEDUCED, log 12] [DEDUCED, log 54] -/
def burstStartBody (h : Hdr) (p : Pkt) (s : State) : State :=
  let q := pktSeq p
  let form := firstFail [if p.isE then none else lenFail p (if p.b0 7 then 1 else 0), failIf (p.isE && !p.b0 7 && startTickOf p != 0) 0x030 0x0003, s.globalFail p q]
  s.unlessFail h form (fun s =>
    match s.descImage h p with
    | none => s.refuse h (0x020, 0x2012)
    | some d =>
      let s := s.meetDesc p d
      if !descOk d then s.refuse h (0x020, 0x2012)
      else match s.admitFail d (s.cfg.seqs[q]).shortest with
        | some (st, sub, detail) => s.reply h st sub detail []
        | none => if p.b0 7 && decide (startTickOf p < s.nowSI.tick + 8000) then s.refuse h (0x020, 0x3005) else s.startBurst h p q d)

/-- Step 2 of R140, a ring training in progress (R403), and groups in a full Tuning pass (R358). [DEDUCED, log 54] -/
def burstBusy (_ : Hdr) (p : Pkt) (s : State) : Option Fail :=
  firstFail [failIf (s.seqs[pktSeq p].st != .idle) 0x010 0x0030, failIf s.ring.inTraining 0x010 0x1007,
    failIf ((s.grpsOf (pktSeq p)).any s.tuned) 0x010 0xB010]

/-- BURST_START is taken. -/
def takeBurstStart (c : Fin 8) (p : Pkt) (s : State) : State := s.deliver c 0x303 p ownSeq burstBusy burstStartBody
/-- BURST_START. -/
def execBurstStart (c : Fin 8) (p : Pkt) (s : State) : Out := hostCmd s c 0x303 p (takeBurstStart c)

/-! ### Vector 0 (R142, R192, R239) -/

/-- A pin of the sequencer when a burst starts to issue: crossings and edges of the last burst are gone (R220, R258). Its halt state,
records and reflex counters stay until vector 0 begins at the pin (R145, R192, R239). -/
def Pin.burstBegin (x : Pin) : Pin :=
  { x with carry := [], crosses := [], openRise := none, openFall := none, pairs := [], edgesIn := 0, reflex := { x.reflex with wins := [] } }

/-- BURST_VECTOR0: vector 0 of an admitted burst is about to begin at the pins: empty stacks, BASE 0, PF0 and a clear flag (R142). [DEDUCED, log 4] -/
def execBurstVector0 (q : Fin 4) (s : State) : Out :=
  let x := s.seqs[q]
  if x.st != .admitted || decide (s.metro < x.due) then .next s
  else
    let s1 := s.modSeq q (fun x => { x with st := .running, base := 0, pf := 0, flag := false, loops := [], calls := [], lpbPlain := false, flagAt := 0, passAt := none, decAt := 0, decTarget := 0, decAny := false, syncTo := 0, clrfVec := 0, tapPend := 0, tapSeen := none, jmpgLast := Vector.replicate 16 none, results := [], capQ := [], hist := [], strobesOut := 0, unwritten := false, failed := false, firstFlag := 0xFFFFFFFFFFFFFFFF, matchTo := 0, tapwTo := 0, sealedVec := none, clashSeen := false, flogOver := false, flagHist := [] })
    .next ((s1.pinsOf q).foldl (fun t p => t.modPin p Pin.burstBegin) s1)

/-! ### The final entry (R143, R144, R146) -/

/-- The end record, and the store end record after it (R99, R146). -/
def State.endRecord (s : State) (q : Fin 4) : List Byte :=
  let x := s.seqs[q]
  words [q.val * 4096 + b2n x.unwritten * 512 + b2n x.failed * 256 + x.endReason, x.calls.length * 65536 + x.loops.length * 256] ++ le 8 x.vecs ++
    words [cut 32 x.endAddr, x.lastAddr] ++ le 8 (x.startFine / 512) ++ le 8 (x.endFine / 512) ++ le 8 x.firstFlag ++
    words [x.matchTo * 65536 + x.tapwTo, 0, 0, 0] ++
    (match x.storeEnd with
     | none => []
     | some (a, r) => words [cut 32 a, q.val * 2 ^ 24 + r * 65536 + a / 2 ^ 32] ++ le 8 x.vecs ++ le 8 (issueAt x.endFine / 512) ++ zeros 8)

/-- The final status of a burst (R78, R144). -/
def Seq.finalStatus (x : Seq) : Nat × Nat :=
  if x.endReason = 6 then (0x0F0, 0)
  else if x.endReason = 4 then (0x060, 0)
  else if x.endReason = 3 then (0x050, 0)
  else if x.endReason = 5 then (0x032, x.endSub)
  else if (x.endReason = 1 ∨ x.endReason = 2) ∧ x.unwritten then (0x051, 0)
  else (0, 0)

/-- The final entry of a burst waits in its ring. -/
def State.finalQueued (s : State) (q : Fin 4) : Bool :=
  let h := s.seqs[q].hdr
  (s.ctxs[h.mb].rings[h.ring]).queue.any (fun e => e.ends == some q)

/-- Every result of the burst has been taken (R143). -/
def State.resultsIn (s : State) (q : Fin 4) : Bool :=
  let x := s.seqs[q]
  x.strobesOut == 0 && x.results.isEmpty && x.capQ.isEmpty && s.flogs[q].staging.isEmpty

/-- The sequencer stops running (R141): its flag no longer counts on the ring (R407). [DEDUCED, log 53] -/
def State.seqIdle (s : State) (q : Fin 4) : State :=
  s.modSeq q (fun x => { x with st := .idle, flagHist := (s.metro, false) :: x.flagHist, plan := [], planRest := [], hist := [], stopReq := none, closeReq := none, abortReq := none, restartReq := none })

/-- The sequencer stops running; what a session that ended without responses still holds for the burst is given up: its groups
and the pages that the burst pinned (R51, R83). [DEDUCED, log 25] -/
def State.releaseGone (s : State) (q : Fin 4) : State :=
  let t := s.seqIdle q
  match s.seqs[q].hdr.gone, s.seqs[q].owner with
  | true, .ctx c =>
    let ps := s.store.pages.filter (fun g => g.owner == .ctx c && s.pinned g.num && !t.pinned g.num)
    ps.foldl (fun u g => u.evictPage g.num) ((s.grpsOf q).foldl (fun u g => u.releaseGrp g) t)
  | _, _ => t

/-- BURST_FINAL: a burst has ended and all its results are in; its final entry is formed (R143). [DEDUCED, log 53] -/
def execBurstFinal (q : Fin 4) (s : State) : Out :=
  let x := s.seqs[q]
  if x.st != .ending || decide (s.metro < issueAt x.endFine) || !s.resultsIn q || !s.capTaken q || s.finalQueued q then .next s
  else
    let s1 := s.capBurstEnd q
    let h := x.hdr
    let st := x.finalStatus
    let e : Entry := { hdr := h, status := st.1, sub := st.2, ts := s1.nowSI, payload := s1.endRecord q, finishes := true, ends := some q }
    .next (if (s1.ctxs[h.mb].rings[h.ring]).isOpen && !h.gone then s1.pushEntry h.mb h.ring e else s1.releaseGone q)

/-! ### BURST_STOP (R144, R147) -/

/-- BURST_STOP after intake: the request crosses to the sequencer island in 16 ns. Of several AT_RESTART requests the first to
arrive is pending until the next takes its place with the same effect, and a stop at once, when it arrives, takes the vector due
whatever is pending: an earlier request stands until then (R144, R147). -/
def burstStopBody (h : Hdr) (p : Pkt) (s : State) : State :=
  s.unlessFail h (lenFail p 0) (fun s =>
    let t := s.metro + nsF 16
    s.modSeq (pktSeq p) (fun x =>
      let y := { x with stops := x.stops ++ [(h, t, p.b0 8)] }
      if p.b0 8 then { y with restartReq := earlier y.restartReq t } else { y with stopReq := earlier y.stopReq t }))
/-- BURST_STOP is taken. -/
def takeBurstStop (c : Fin 8) (p : Pkt) (s : State) : State := s.deliver c 0x304 p ownSeq noFail burstStopBody
/-- BURST_STOP without AT_RESTART. -/
def execBurstStop (c : Fin 8) (p : Pkt) (s : State) : Out := hostCmd s c 0x304 (p.withA0 8 8 0) (takeBurstStop c)
/-- BURST_STOP with AT_RESTART. -/
def execBurstStopAtRestart (c : Fin 8) (p : Pkt) (s : State) : Out := hostCmd s c 0x304 (p.withA0 8 8 1) (takeBurstStop c)

/-- STOP_REQUEST_ARRIVE: requests that have reached the sequencer island are answered (R144, R147). -/
def execStopRequestArrive (q : Fin 4) (s : State) : Out :=
  let x := s.seqs[q]
  let here (e : Hdr × Nat × Bool) : Bool := decide (e.2.1 ≤ s.metro)
  let run := b2n (x.st != .idle)
  .next ((x.stops.filter here).foldl (fun t e => t.reply e.1 0 0 run []) (s.modSeq q (fun y => { y with stops := y.stops.filter (fun e => !here e) })))

/-! ### SEQ_STATUS (R148) -/

/-- STATE (R148). -/
def SeqSt.code : SeqSt → Nat
  | .idle => 0
  | .admitted => 1
  | .running => 2
  | .ending => 3
/-- WAIT (R148). -/
def Wait.code : Wait → Nat
  | .none => 0
  | .matching => 1
  | .tapw => 2
  | .sync => 3

/-- The snapshot of R148. [DEDUCED, log 51] -/
def State.seqBlock (s : State) (q : Fin 4) : List Byte :=
  let x := s.seqs[q]
  let k := s.cfg.seqs[q]
  let per := k.pf[x.pf]
  let d := if x.st = .idle ∨ per = 0 then 0 else ceilDiv (nsF 32) per
  words [x.wait.code * 2 ^ 28 + x.base % 64 * 2 ^ 22 + x.pf.val * 2 ^ 20 + q.val * 256 + b2n x.flag * 16 + x.st.code,
    s.lineBytes q * 65536 + b2n k.global * 2 ^ 15 + b2n k.compact * 2 ^ 14 + k.beatsLog2 % 4 * 4096 + (if x.owner == .none then 0 else x.owner.code) * 256 + maskOf ((s.grpsOf q).map (fun g => g.val))] ++
  le 8 (x.vecs - 1) ++ words [if x.vecs = 0 then 0 else x.lastAddr, d * 65536 + x.calls.length * 256 + x.loops.length, x.kSeq, x.matchTo * 65536 + x.tapwTo]

/-- SEQ_STATUS after intake. -/
def seqStatusBody (h : Hdr) (p : Pkt) (s : State) : State := s.unlessFail h (lenFail p 0) (fun s => s.reply h 0 0 0 (s.seqBlock (pktSeq p)))
/-- SEQ_STATUS is taken. -/
def takeSeqStatus (c : Fin 8) (p : Pkt) (s : State) : State := s.deliver c 0x305 p noFail noFail seqStatusBody
/-- SEQ_STATUS. -/
def execSeqStatus (c : Fin 8) (p : Pkt) (s : State) : Out := hostCmd s c 0x305 p (takeSeqStatus c)

end Sys2Proof.Machine
end

