-- ==== Sys2Proof/Machine/Post.lean ====
section
/-! DEFINITION. Response entries as bytes, sealed or plain, and their memory writes into a response ring (R28, R40, R41, R430). -/

namespace Sys2Proof.Machine

open Sys2Proof

/-- FLAGS of an entry: what it echoes, S if it is sealed, U and MORE (R40, R430). [DEDUCED, log 31] -/
def Entry.flagBits (e : Entry) : Nat := (e.hdr.flags % 16 ||| b2n e.wrap * 8) + b2n e.unsol * 16 + b2n e.more * 32

/-- Header words 0 to 5 of an entry whose payload as sent has `units` units of 8 bytes (R40). -/
def Entry.head24 (e : Entry) (units : Nat) : List Byte :=
  words [3 * 2 ^ 24 + e.hdr.opcode % 4096 * 2 ^ 12 + e.flagBits, e.hdr.context % 16 * 2 ^ 28 + (if e.unsol then 0 else e.hdr.tag % 4096) * 2 ^ 16 + units % 2 ^ 16,
    e.ts.val % 2 ^ 32, e.ts.val / 2 ^ 32 % 2 ^ 32, e.status % 4096 * 2 ^ 16 + e.ts.val / 2 ^ 64 % 2 ^ 16, e.detail % 2 ^ 16 * 2 ^ 16 + e.sub % 2 ^ 16]

/-- The seal prefix (R430). -/
def sealPrefix (session counter : Nat) : List Byte := le 8 counter ++ le 4 session ++ zeros 4

/-- The sealed payload of an entry: prefix, ciphertext and tag (R430). [DEDUCED, log 119] [PRESUMED, log 120] -/
def Entry.sealedBody (e : Entry) (x : SealSt) : List Byte :=
  let pt := padTo 8 e.payload
  let pre := sealPrefix x.session x.nextD2h
  let n := pt.length + 16
  pre ++ ((Config.gcmSeal x.kD2h (sealIv x.session x.nextD2h) (e.head24 ((16 + n) / 8) ++ pre) pt) ++ zeros n).take n

/-- The payload as sent. -/
def Entry.sent (e : Entry) (x : SealSt) : List Byte := if e.wrap then e.sealedBody x else padTo 8 e.payload

/-- The whole entry with its sequence number, CRC and padding (R40). -/
def Entry.bytes (e : Entry) (x : SealSt) (seq : Nat) : List Byte :=
  let body := e.sent x
  let head := e.head24 (body.length / 8) ++ le 4 seq
  head ++ le 4 (crc32c (head ++ body)) ++ padTo 32 body

/-- Memory writes of bytes into a ring at an offset, wrapping at its end (R41). -/
def ringWrites (base size off : Nat) (bs : List Byte) : List BusWrite :=
  let n := size - off
  if bs.length ≤ n then [{ addr := base + off, bytes := bs }] else [{ addr := base + off, bytes := bs.take n }, { addr := base, bytes := bs.drop n }]

/-- The writes of an entry at a ring offset, in order: all of it but word 6, then word 6 (R41). [DEDUCED, log 26] -/
def entryWrites (base size off : Nat) (bs : List Byte) : List BusWrite :=
  ringWrites base size off (bs.take 24) ++ ringWrites base size (off + 28) (bs.drop 28) ++ ringWrites base size (off + 24) ((bs.drop 24).take 4)

/-- A memory write as requests of at most 512 bytes, none across a 512-byte boundary (R28). -/
def cutWriteAux : Nat → Nat → List Byte → List BusWrite
  | 0, _, _ => []
  | n + 1, a, bs =>
    let k := 512 - a % 512
    if bs.isEmpty then [] else { addr := a, bytes := bs.take k } :: cutWriteAux n (a + k) (bs.drop k)

/-- The requests of a memory write (R28). [DEDUCED, log 26] -/
def BusWrite.requests (w : BusWrite) : List BusWrite := cutWriteAux (w.bytes.length + 1) w.addr w.bytes

/-- Memory writes leave the device as bus master, in order (R28). [DEDUCED, log 26] -/
def State.busOut (s : State) (ws : List BusWrite) : State := s.modLink (fun l => { l with bus := (ws.flatMap BusWrite.requests).reverse ++ l.bus })

/-- The vector of a ring is signaled, if it names one (R43). -/
def State.signalRing (s : State) (vec : Nat) : State := if vec = 0 then s else s.msix (fin 64 vec)

end Sys2Proof.Machine
end

