-- ==== Sys2Proof/Machine/Security.lean ====
section
/-! DEFINITION. The security enclave: officer authentication, sealed sessions, attestation, zeroization, firmware update and
debug unlock (R419 to R437). -/

namespace Sys2Proof.Machine

open Sys2Proof

/-- Ticks in a second. -/
def secT (n : Nat) : Nat := 4000000000 * n

/-- Bytes from the DRBG, with one more draw made (R419). -/
def State.random (s : State) (n : Nat) : List Byte × State :=
  ((Config.drbg s.sec.drbg n).take n ++ zeros (n - (Config.drbg s.sec.drbg n).length), s.modSec (fun x => { x with drbg := x.drbg + 1 }))

/-- A failure of the enclave is recorded under AUTH (R427, R428, R431, R436). [DEDUCED, log 138] -/
def State.authReport (s : State) (inst sub : Nat) : State := s.report 0x0C inst false s.nowSI sub 0

/-! ### Images (R421 to R424) -/

/-- The bytes of a region of an image that FW_UPDATE has written whole. -/
def FwImage.span (m : FwImage) (off n : Nat) : Option (List Byte) := (List.range n).mapM (fun i => m.wrote (off + i))

/-- MAGIC is right and the reserved fields of a header are zero (R421, R422). -/
def imageHeadOk (h : List Byte) : Bool :=
  rd h 0 4 == 0x57464E4B && decide (rd h 8 4 < 2 ^ 10) && (((h.drop 0x30).take 16) ++ h.drop 0xED4).all (fun x => x == 0)

/-- A check of R422 on an image that FW_UPDATE has written into: judged on the bytes written; free where it needs others. [PRESUMED, log 117] -/
def FwImage.check (m : FwImage) (b : Bool) (k : Nat) : Bool :=
  let free := Config.imageCheck b m.writes k
  match m.span 0 4096 with
  | none => free
  | some h =>
    let pk := (h.drop 0x40).take 1312
    if k = 0 then imageHeadOk h
    else if k = 1 then Config.sha3 pk == Config.slotHash (bits (Machine.rd h 8 4) 9 8)
    else if k = 2 then Config.verify pk (h.take 64) ((h.drop 0x560).take 2420)
    else match m.span 4096 (Machine.rd h 12 4) with
      | none => free
      | some body => decide (1 ≤ body.length) && decide (body.length ≤ 16773120) && Config.sha3 body == (h.drop 16).take 32

/-- An image with a chunk written; its judgement is then made anew (R424). [PRESUMED, log 117] -/
def FwImage.write (m : FwImage) (b : Bool) (off : Nat) (data : List Byte) : FwImage :=
  let m1 := { m with writes := (off, data) :: m.writes }
  let w2 := m1.rd 8 4 (m.slot * 256 + m.svn)
  { m1 with slot := bits w2 9 8, svn := bits w2 7 0, magicOk := m1.check b 0, keyOk := m1.check b 1, sigOk := m1.check b 2, digestOk := m1.check b 3 }

/-- A vendor key slot is revoked, or is none (R424). -/
def Otp.slotGone (o : Otp) (slot : Nat) : Bool := if h : slot < 3 then o.revoked[slot] else true

/-- The rules of R422 for one image. -/
def Otp.valid (o : Otp) (m : FwImage) : Bool :=
  m.magicOk && !o.slotGone m.slot && m.keyOk && m.sigOk && decide (o.counter ≤ m.svn) && decide (1 ≤ m.svn) && decide (m.svn ≤ 64) && m.digestOk

/-- Which image the boot ROM runs: some true for B; none if neither is valid (R422, R423). -/
def Sec.bootPick (x : Sec) : Option Bool :=
  let a := x.otp.valid x.imgA
  let b := x.otp.valid x.imgB
  if a && b then
    some (if x.imgA.svn < x.imgB.svn then true else if x.imgB.svn < x.imgA.svn then false else decide (x.imgA.release false < x.imgB.release true))
  else if b then some true else if a then some false else none

/-- The running image. -/
def Sec.running (x : Sec) : FwImage := if x.runB then x.imgB else x.imgA
/-- The image that does not run. -/
def Sec.spare (x : Sec) : FwImage := if x.runB then x.imgA else x.imgB

/-- DIGEST field of the running image (R421). -/
def Sec.fwDigest (x : Sec) : List Byte :=
  (List.range 32).map (fun i => (x.running.wrote (16 + i)).getD (((Config.imageDigest x.runB).drop i).headD 0))

/-- The flash is in use by CAL_STORE or FW_UPDATE (R355, R424). -/
def State.flashBusy (s : State) : Bool := s.tune.storing.isSome || s.sec.fwHdr.isSome

/-- FW_UPDATE after intake (R424). [PRESUMED, log 117] -/
def fwUpdateBody (h : Hdr) (p : Pkt) (s : State) : State :=
  let op := p.a0 1 0
  let off := p.arg1.toNat
  if op = 3 then
    let others := (List.range 3).filter (fun i => i != off && !s.sec.otp.slotGone i)
    s.unlessFail h (firstFail [lenFail p 0, failIf (decide (2 < off) || off == s.sec.running.slot || others.isEmpty) 0x030 0xD001]) (fun s =>
      (s.modSec (fun x => { x with otp := { x.otp with revoked := vmod x.otp.revoked (fin 3 off) (fun _ => true) } })).ok h)
  else
    let len := failIf (if op = 0 then p.payload.isEmpty || decide (32768 < p.units) || decide (2 ^ 24 < off + p.body.length) else p.units ≠ 0) 0x030 0x0001
    s.unlessFail h (firstFail [len, failIf s.flashBusy 0x010 0xB011]) (fun s =>
      s.modSec (fun x =>
        let x1 := { x with fwHdr := some (h, op) }
        if op = 0 then (if x.runB then { x1 with imgA := x.imgA.write false off p.body } else { x1 with imgB := x.imgB.write true off p.body })
        else if op = 2 then { x1 with otp := { x.otp with counter := max x.otp.counter (min 64 x.running.svn) } }
        else x1))

/-- FW_UPDATE is taken. -/
def takeFwUpdate (c : Fin 8) (p : Pkt) (s : State) : State := s.deliver c 0xD05 p noFail noFail fwUpdateBody

/-- FW_UPDATE with OP WRITE. -/
def execFwUpdateWrite (c : Fin 8) (p : Pkt) (s : State) : Out := hostCmd s c 0xD05 (p.withA0 1 0 0) (takeFwUpdate c)
/-- FW_UPDATE with OP VERIFY. -/
def execFwUpdateVerify (c : Fin 8) (p : Pkt) (s : State) : Out := hostCmd s c 0xD05 (p.withA0 1 0 1) (takeFwUpdate c)
/-- FW_UPDATE with OP ADVANCE. -/
def execFwUpdateAdvance (c : Fin 8) (p : Pkt) (s : State) : Out := hostCmd s c 0xD05 (p.withA0 1 0 2) (takeFwUpdate c)
/-- FW_UPDATE with OP REVOKE. -/
def execFwUpdateRevoke (c : Fin 8) (p : Pkt) (s : State) : Out := hostCmd s c 0xD05 (p.withA0 1 0 3) (takeFwUpdate c)

/-- FW_UPDATE_DONE: the flash or OTP operation ends and its response is formed (R424). -/
def execFwUpdateDone (s : State) : Out :=
  match s.sec.fwHdr with
  | none => .next s
  | some (h, op) =>
    let s1 := s.modSec (fun x => { x with fwHdr := none })
    .next (if op = 1 && !s.sec.otp.valid s.sec.spare then s1.refuse h (0x090, 0xD020) else s1.ok h)

/-! ### Officer (R426 to R428) -/

/-- The challenge of a context is still valid (R426). -/
def State.challengeOk (s : State) (c : Fin 8) : Bool :=
  !s.ctxs[c].challenge.isEmpty && decide (s.tick < s.ctxs[c].challengeTick + secT 10)

/-- PROVE (R426, R427). -/
def State.prove (s : State) (h : Hdr) (p : Pkt) : State :=
  let c := h.mb
  let pk := p.body.take 1312
  let sig := (p.body.drop 0x520).take 2420
  let x := s.ctxs[c]
  let locked := match s.sec.lockTick with | none => false | some t => decide (s.tick < t + secT 1)
  let held := (List.finRange 8).any (fun d => d != c && s.officer d)
  let prov := p.b0 8
  match firstFail [lenFail p 467, failIf locked 0x090 0xD023, failIf (prov && s.sec.otp.officerHash.isSome) 0x030 0xD002, failIf held 0x010 0xD010,
      failIf (prov && !(s.sole { h with context := 0 })) 0x041 0x2003] with
  | some f => s.refuse h f
  | none =>
    let sigOk := s.challengeOk c && Config.verify pk (x.challenge ++ le 8 Config.serial ++ le 1 c.val) sig
    let keyOk := if prov then true else s.sec.otp.officerHash == some (Config.sha3 pk)
    let s1 := s.modCtx c (fun y => { y with challenge := [] })
    if sigOk && keyOk then
      let s2 := if prov then s1.modSec (fun z => { z with otp := { z.otp with officerHash := some (Config.sha3 pk) } }) else s1
      (s2.modCtx c (fun y => { y with officer := true })).ok h
    else ((s1.modSec (fun z => { z with lockTick := some s.tick })).authReport c.val 0xD022).refuse h (0x090, 0xD022)

/-- OFFICER_AUTH after intake (R426). -/
def officerBody (h : Hdr) (p : Pkt) (s : State) : State :=
  let op := p.a0 1 0
  if op = 0 then
    s.unlessFail h (lenFail p 0) (fun s =>
      let (n, s1) := s.random 32
      (s1.modCtx h.mb (fun x => { x with challenge := n, challengeTick := s.tick })).reply h 0 0 0 n)
  else if op = 1 then s.prove h p
  else if op = 2 then
    s.unlessFail h (lenFail p 0) (fun s =>
      (s.modSec (fun x => { x with expertOk := p.a1 7 0, cycleOk := p.a1 15 8, policyRec := some (p.a1 7 0, p.a1 15 8), policyValid := true, otp := { x.otp with policySet := true } })).ok h)
  else s.unlessFail h (lenFail p 0) (fun s => (s.modCtx h.mb (fun x => { x with officer := false })).ok h)

/-- OFFICER_AUTH is taken. -/
def takeOfficer (c : Fin 8) (p : Pkt) (s : State) : State := s.deliver c 0xD01 p noFail noFail officerBody

/-- OFFICER_AUTH with OP CHALLENGE. -/
def execOfficerAuthChallenge (c : Fin 8) (p : Pkt) (s : State) : Out := hostCmd s c 0xD01 (p.withA0 1 0 0) (takeOfficer c)
/-- OFFICER_AUTH with OP PROVE. -/
def execOfficerAuthProve (c : Fin 8) (p : Pkt) (s : State) : Out := hostCmd s c 0xD01 (p.withA0 1 0 1) (takeOfficer c)
/-- OFFICER_AUTH with OP POLICY. -/
def execOfficerAuthPolicy (c : Fin 8) (p : Pkt) (s : State) : Out := hostCmd s c 0xD01 (p.withA0 1 0 2) (takeOfficer c)
/-- OFFICER_AUTH with OP RELINQUISH. -/
def execOfficerAuthRelinquish (c : Fin 8) (p : Pkt) (s : State) : Out := hostCmd s c 0xD01 (p.withA0 1 0 3) (takeOfficer c)

/-- CHALLENGE_EXPIRE: a challenge is no longer valid after 10 s (R426). -/
def execChallengeExpire (c : Fin 8) (s : State) : Out :=
  .next (if s.challengeOk c then s else s.modCtx c (fun x => { x with challenge := [] }))

/-- LOCKOUT_EXPIRE: 1 s after a failed PROVE the lockout ends (R427). -/
def execLockoutExpire (s : State) : Out :=
  .next (match s.sec.lockTick with
    | some t => if t + secT 1 ≤ s.tick then s.modSec (fun x => { x with lockTick := none }) else s
    | none => s)

/-! ### Attestation (R434) -/

/-- FLAGS of the attestation report for a sender (R434). -/
def State.secFlags (s : State) (c : Fin 8) : Nat :=
  b2n s.sec.approved + b2n s.sec.debug * 2 + b2n s.sec.otp.seedGone * 4 + b2n ((List.finRange 8).any s.officer) * 8 +
  b2n s.ctxs[c].session.isOpen * 16 + b2n s.sec.otp.policySet * 32

/-- The GONG_CONFIG ARG1 word in force for instance 0 of a source (R434). -/
def State.gongWord (s : State) (src : Nat) : Nat :=
  let x := s.gongApplied { src := src, dflt := gongDefault src }
  x.cls * 2 ^ 16 + x.reset * 2 ^ 12 + b2n x.stopTick * 8 + b2n x.safe * 4 + b2n x.abort * 2 + b2n x.tap

/-- What CONFIG_DIGEST is taken over (R434). -/
def State.configImage (s : State) : List Byte :=
  words (s.store.partWords ++ s.ring.setupWords ++ [s.sec.expertOk + 256 * s.sec.cycleOk]) ++ (s.sec.otp.officerHash.getD (zeros 32)) ++
  words (((List.range 32).filter (fun k => gongScope k == some .die || gongScope k == some .device)).map s.gongWord) ++ le 4 s.gong.quietMs

/-- The field tables in force, for TABLE_DIGEST (R353, R434). -/
def State.tableImage (s : State) : List Byte :=
  Config.tableImage (s.tune.trims.map (fun t => (t.chan, t.qty, t.value))) ((List.finRange 128).map (fun p => (p.val, (s.pins[p].reflFix).getD 0)))

/-- The signed part of an attestation report (R434). -/
def State.report256 (s : State) (h : Hdr) (nonce : List Byte) : List Byte :=
  let r := s.sec.running
  words [0x54414E4B, s.secFlags h.mb * 65536 + 1, devId, s.fwRelease] ++ le 8 Config.serial ++
  words [r.slot * 2 ^ 16 + s.sec.otp.counter * 256 + r.svn, h.context] ++ s.nowSI.bytes ++ zeros 6 ++ nonce ++ Config.romDigest ++
  s.sec.fwDigest ++ Config.sha3 s.configImage ++ Config.sha3 s.tableImage ++ zeros 48

/-- ATTEST after intake (R434). -/
def attestBody (h : Hdr) (p : Pkt) (s : State) : State :=
  if p.b0 0 then
    s.unlessFail h (firstFail [lenFail p 0, failIf (!Config.certOk) 0x090 0xD021]) (fun s => s.reply h 0 0 0 Config.certChain)
  else
    s.unlessFail h (firstFail [lenFail p 4, failIf s.sec.otp.seedGone 0x090 0xD02C]) (fun s =>
      let r := s.report256 h p.body
      s.reply h 0 0 0 (r ++ Config.sign r ++ zeros 4))

/-- ATTEST is taken. -/
def takeAttest (c : Fin 8) (p : Pkt) (s : State) : State := s.deliver c 0xD02 p noFail noFail attestBody

/-- ATTEST with OP REPORT. -/
def execAttestReport (c : Fin 8) (p : Pkt) (s : State) : Out := hostCmd s c 0xD02 (p.withA0 0 0 0) (takeAttest c)
/-- ATTEST with OP CERT. -/
def execAttestCert (c : Fin 8) (p : Pkt) (s : State) : Out := hostCmd s c 0xD02 (p.withA0 0 0 1) (takeAttest c)

/-! ### Sealed sessions (R429 to R431) -/

/-- OFFER (R429, R433, R437). [PRESUMED, log 120] -/
def State.sealOffer (s : State) (h : Hdr) (p : Pkt) : State :=
  match firstFail [lenFail p 0, failIf s.sec.otp.seedGone 0x090 0xD02C, failIf s.sec.zeroPin 0x090 0xD02D] with
  | some f => s.refuse h f
  | none =>
    let seed := s.sec.drbg
    let s1 := s.modSec (fun x => { x with drbg := x.drbg + 1 })
    let (nd, s2) := s1.random 32
    if Config.kemPairOk seed then
      let ek := Config.kemKey seed
      let sg := Config.sign (ek ++ nd ++ le 8 Config.serial ++ le 1 h.mb.val)
      (s2.modCtx h.mb (fun x => { x with session := { x.session with offered := true, offerTick := s.tick, kemSeed := seed, nonceD := nd } })).reply h 0 0 0 (ek ++ nd ++ sg ++ zeros 4)
    else (s2.report 0x05 9 false s.nowSI 0 0).refuse h (0x090, 0xD025)

/-- ACCEPT (R429). -/
def State.sealAccept (s : State) (h : Hdr) (p : Pkt) : State :=
  let x := s.ctxs[h.mb].session
  let offer := x.offered && decide (s.tick < x.offerTick + secT 10)
  match firstFail [lenFail p 140, failIf s.sec.otp.seedGone 0x090 0xD02C, failIf x.isOpen 0x010 0xD011, failIf (!offer) 0x090 0xD024] with
  | some f => s.refuse h f
  | none =>
    let nh := (p.body.drop 1088).take 32
    match Config.kemDecap x.kemSeed (p.body.take 1088) with
    | none => (s.modCtx h.mb (fun y => { y with session := { y.session with offered := false } })).refuse h (0x090, 0xD025)
    | some ss =>
      let k := Config.shake64 (ss ++ x.nonceD ++ nh ++ Config.sha3 (Config.kemKey x.kemSeed))
      let n := s.sec.nextSession
      let s1 := s.modSec (fun z => { z with nextSession := nextSeq n })
      let s2 := s1.modCtx h.mb (fun y => { y with session := { y.session with isOpen := true, session := n, kH2d := k.take 32, kD2h := (k.drop 32).take 32, lastH2d := 0, nextD2h := 1, offered := false, kemSeed := 0, nonceD := [] } })
      s2.pushEntry h.mb h.ring { hdr := { h with sess := n }, ts := s.nowSI, payload := nh, wrap := true, finishes := true }

/-- SEAL_OPEN after intake (R429). -/
def sealBody (h : Hdr) (p : Pkt) (s : State) : State :=
  let op := p.a0 1 0
  if op = 0 then s.sealOffer h p
  else if op = 1 then s.sealAccept h p
  else if op = 2 then
    s.unlessFail h (firstFail [lenFail p 0, failIf s.sec.otp.seedGone 0x090 0xD02C]) (fun s =>
      (s.modCtx h.mb (fun x => { x with session := { x.session with closing := some h } })).settle h.mb)
  else s.refuse h (0x030, 0x0003)

/-- SEAL_OPEN is taken. -/
def takeSeal (c : Fin 8) (p : Pkt) (s : State) : State := s.deliver c 0xD03 p noFail noFail sealBody

/-- SEAL_OPEN with OP OFFER. -/
def execSealOpenOffer (c : Fin 8) (p : Pkt) (s : State) : Out := hostCmd s c 0xD03 (p.withA0 1 0 0) (takeSeal c)
/-- SEAL_OPEN with OP ACCEPT. -/
def execSealOpenAccept (c : Fin 8) (p : Pkt) (s : State) : Out := hostCmd s c 0xD03 (p.withA0 1 0 1) (takeSeal c)
/-- SEAL_OPEN with OP CLOSE. -/
def execSealOpenClose (c : Fin 8) (p : Pkt) (s : State) : Out := hostCmd s c 0xD03 (p.withA0 1 0 2) (takeSeal c)

/-- OFFER_EXPIRE: the decapsulation key is erased 10 s after its OFFER (R429). -/
def execOfferExpire (c : Fin 8) (s : State) : Out :=
  let x := s.ctxs[c].session
  .next (if x.offered && decide (x.offerTick + secT 10 ≤ s.tick) then
    s.modCtx c (fun y => { y with session := { y.session with offered := false, kemSeed := 0, nonceD := [] } }) else s)

/-! ### Zeroization (R436, R437) -/

/-- The burst's pattern holds sealed pages, or the burst has become sealed (R255, R436). -/
def State.burstSealed (s : State) (q : Fin 4) : Bool :=
  let x := s.seqs[q]
  x.sealedVec.isSome || s.store.pages.any (fun g => g.sealed && ((x.plan ++ x.planRest).any (fun e => e.page == g.num) || x.demanded.contains g.num || g.num == pageOf x.descAddr))

/-- A request to stop a burst arrives at a time. -/
def State.stopAt (s : State) (q : Fin 4) (t : Nat) : State := s.modSeq q (fun x => { x with stopReq := earlier x.stopReq t })

/-- Every session and key is erased and the DRBG reseeded (R436). -/
def State.eraseKeys (s : State) : State :=
  (forFin 8 (fun c t => t.modCtx c (fun x => { x with session := x.session.ended })) s).modSec (fun x => { x with drbg := x.drbg + 1 })

/-- A zeroization starts: keys are erased, sealed bursts stopped, the seed overwritten at level FULL (R436). -/
def State.startZero (s : State) (level : Nat) : State :=
  let s1 := s.eraseKeys
  let s2 := forFin 4 (fun q t => if (t.seqs[q].st == .running || t.seqs[q].st == .admitted) && t.burstSealed q then t.stopAt q (t.metro + nsF 16) else t) s1
  let s3 := s2.modSec (fun x => { x with zeroing := some (max level (x.zeroing.getD 0)), otp := if level = 1 then { x.otp with seedGone := true } else x.otp })
  s3.authReport 0xF level

/-- Sealed data is erased: pages, whose waiting commands complete first, Fail Maps, first-fail records, Fail Logs, and capture
segments (R436, R437). -/
def State.eraseSealed (s : State) : State :=
  let s1 := ((s.store.pages.filter (fun p => p.sealed)).map (fun p => p.num)).foldl (fun t n => (t.answerPage n).evictPage n) s
  let s2 := { s1 with fmaps := vmap s1.fmaps (fun _ m => if m.sealed then { m with mem := [], sealed := false } else m) }
  let s3 := { s2 with pins := vmap s2.pins (fun _ p => if p.fail.sealed then { p with fail := {} } else p) }
  let s4 := { s3 with flogs := vmap s3.flogs (fun _ f => if f.ring.any (fun r => r.sealed) || f.staging.any (fun r => r.sealed) then { f with ring := [], staging := [] } else f) }
  forFin 8 (fun i t => let e := t.caps[i]
    if e.segment.any (fun r => r.sealed) || e.staging.any (fun r => r.sealed) then (t.modCap i (fun x => { x with segment := [], staging := [], cut := 0 })).capSettle i else t) s4

/-- ZEROIZE after intake (R436). -/
def zeroizeBody (h : Hdr) (p : Pkt) (s : State) : State :=
  s.unlessFail h (lenFail p 0) (fun s => (s.modSec (fun x => { x with zeroHdrs := x.zeroHdrs ++ [h] })).startZero (p.a0 0 0))

/-- ZEROIZE is taken. -/
def takeZeroize (c : Fin 8) (p : Pkt) (s : State) : State := s.deliver c 0xD04 p noFail noFail zeroizeBody

/-- ZEROIZE. -/
def execZeroize (c : Fin 8) (p : Pkt) (s : State) : Out := hostCmd s c 0xD04 p (takeZeroize c)

/-- ZEROIZE_N_ASSERT: the pin starts a SESSIONS zeroization, or one that waits for the end of start-up step 3 (R437, R449). -/
def execZeroizeNAssert (s : State) : Out :=
  let s1 := s.modSec (fun x => { x with zeroPin := true })
  .next (if 3 ≤ s.power.stepDone then s1.startZero 0 else s1.modSec (fun x => { x with zeroLater := true }))

/-- ZEROIZE_N_RELEASE: the pin returns high (R437). -/
def execZeroizeNRelease (s : State) : Out := .next (s.modSec (fun x => { x with zeroPin := false }))

/-- Sealed bursts still run, so their pages are not evicted yet (R436). -/
def State.sealedRuns (s : State) : Bool :=
  (List.finRange 4).any (fun q => (s.seqs[q].st == .running || s.seqs[q].st == .admitted) && s.burstSealed q)

/-- ZEROIZE_DONE: the erasure ends, its commands complete, and a DEBUG_UNLOCK that waited for it opens access (R435, R436). [DEDUCED, log 118] -/
def execZeroizeDone (s : State) : Out :=
  match s.sec.zeroing with
  | none => .next s
  | some _ =>
    if s.sealedRuns then .next s
    else
      let s1 := s.eraseSealed.modSec (fun x => { x with zeroing := none, zeroHdrs := [], debugHdr := none })
      let s2 := s.sec.zeroHdrs.foldl (fun t h => t.ok h) s1
      .next (match s.sec.debugHdr with
        | none => s2
        | some (h, sc) => (s2.modSec (fun x => { x with approved := false, debug := true, debugScope := sc })).ok h)

/-! ### Debug unlock (R435) -/

/-- The token of DEBUG_UNLOCK verifies (R435). -/
def State.tokenOk (s : State) (c : Fin 8) (t : List Byte) : Bool :=
  let slot := rd t 0x0C 4
  rd t 0 8 == Config.serial && !s.sec.otp.slotGone slot && s.challengeOk c && (t.drop 0x10).take 32 == s.ctxs[c].challenge &&
  Config.sha3 ((t.drop 0x30).take 1312) == Config.slotHash slot && Config.verify ((t.drop 0x30).take 1312) (t.take 0x550) ((t.drop 0x550).take 2420)

/-- DEBUG_UNLOCK after intake (R435). [DEDUCED, log 118] -/
def debugBody (h : Hdr) (p : Pkt) (s : State) : State :=
  s.unlessFail h (lenFail p 512) (fun s =>
    if s.tokenOk h.mb p.body then
      ((s.modCtx h.mb (fun x => { x with challenge := [] })).modSec (fun x => { x with debugHdr := some (h, rd p.body 8 4 % 4) })).startZero 0
    else (s.authReport h.mb.val 0xD02B).refuse h (0x090, 0xD02B))

/-- DEBUG_UNLOCK is taken. -/
def takeDebugUnlock (c : Fin 8) (p : Pkt) (s : State) : State := s.deliver c 0xD06 p noFail noFail debugBody

/-- DEBUG_UNLOCK. -/
def execDebugUnlock (c : Fin 8) (p : Pkt) (s : State) : Out := hostCmd s c 0xD06 p (takeDebugUnlock c)

end Sys2Proof.Machine
end

