-- ==== Sys2Proof/Machine/Context.lean ====
section
/-! DEFINITION. Contexts: CTX_OPEN, CTX_CLOSE, the end of all contexts with the link, FENCE, ECHO and DEVICE_INFO
(R45 to R55, R67, R68). -/

namespace Sys2Proof.Machine

open Sys2Proof

/-! ### CTX_OPEN (R45 to R47, R53) -/

/-- RINGS. -/
def openRings (p : Pkt) : Nat := p.a0 19 16
/-- The quota that a QUOTA asks for. -/
def openQuota (p : Pkt) : Nat := if p.a0 12 0 = 0 then 512 else p.a0 12 0
/-- Descriptor `k`. -/
def openDesc (p : Pkt) (k : Nat) : List Byte := (p.body.drop (32 * k)).take 32
/-- SIZE_LOG2 of a descriptor. -/
def descLog2 (d : List Byte) : Nat := bits (rdw d 2) 4 0
/-- A descriptor lies within its ranges (R45). -/
def descInRange (d : List Byte) : Bool := rdw d 0 % 4096 == 0 && decide (12 ≤ descLog2 d) && decide (descLog2 d ≤ 26)

/-- The ring that a descriptor describes (R45). -/
def ringOf (d : List Byte) : Ring :=
  { isOpen := true, base := rd d 0 8, size := 2 ^ descLog2 d, vec := bits (rdw d 2) 13 8, time := bits (rdw d 3) 31 16, count := bits (rdw d 3) 15 0 }

/-- Quota left in the pool (R53). -/
def State.quotaFree (s : State) : Nat := 4096 - (s.ctxs.toList.map (fun x => if x.isOpen then x.quota else 0)).sum

/-- The permissions asked for can be granted (R47). -/
def State.permits (s : State) (c : Fin 8) (p : Pkt) : Bool :=
  let e := p.a1 0 0 == 1
  let y := p.a1 1 1 == 1
  (!e || s.sec.expertOk.testBit c.val) && (!y || (e && s.sec.cycleOk.testBit c.val))

/-- Steps 2 to 6 of R46. -/
def State.openFail (s : State) (c : Fin 8) (p : Pkt) : Option Fail :=
  let n := openRings p
  firstFail [failIf (decide (n < 1) || decide (4 < n) || p.units != 4 * n) 0x030 0x0009, failIf (decide (4096 < p.a0 12 0)) 0x030 0x000C,
    failIf (!(List.range n).all (fun k => descInRange (openDesc p k))) 0x030 0x0009, failIf (!s.permits c p) 0x042 0x0041,
    failIf (decide (s.quotaFree < openQuota p)) 0x021 0x0021]

/-- A refused open of a closed context is answered on the ring of descriptor 0, or dropped (R46). [DEDUCED, log 21] -/
def State.openRefused (s : State) (c : Fin 8) (p : Pkt) (f : Fail) : State :=
  let d := openDesc p 0
  if openRings p ≠ 0 && decide (4 ≤ p.units) && descInRange d then
    let r := ringOf d
    let e : Entry := { hdr := p.hdr c 0x001 0, status := f.1, sub := f.2, ts := s.nowSI }
    (s.busOut (entryWrites r.base r.size 0 (e.bytes {} 1))).signalRing r.vec
  else s.modCtx c (fun x => { x with dropped := sat 32 (x.dropped + 1), lastStatus := f.1, lastSub := f.2 })

/-- A context as CTX_OPEN opens it (R45). [DEDUCED, log 20] -/
def Ctx.opened (x : Ctx) (p : Pkt) : Ctx :=
  { x with isOpen := true, expert := p.a1 0 0 == 1, allowCycle := p.a1 1 1 == 1, officer := false, closing := false, inflight := [], quota := openQuota p, rings := vmap (Vector.replicate 4 {}) (fun k r => if k.val < openRings p then ringOf (openDesc p k.val) else r), stage := [], fences := [], closeHdr := none, noticeOn := true, noticeMin := 1, noticeRing := 0, noticeLost := 0, challenge := [], session := {} }

/-- CTX_OPEN of a closed context (R46). -/
def State.openClosed (s : State) (c : Fin 8) (p : Pkt) : State :=
  match intakeFail s c 0x001 p with
  | some f => (s.modCtx c (fun x => x.noteErr f)).openRefused c p f
  | none =>
    match s.openFail c p with
    | some f => s.openRefused c p f
    | none => (s.modCtx c (fun x => x.opened p)).reply (p.hdr c 0x001 0) 0 0 (openQuota p) []

/-- CTX_OPEN is taken. -/
def takeCtxOpen (c : Fin 8) (p : Pkt) (s : State) : State :=
  if s.ctxs[c].isOpen then s.deliver c 0x001 p noFail noFail (fun h _ s => s.refuse h (0x010, 0x0031)) else s.openClosed c p

/-- CTX_OPEN. -/
def execCtxOpen (c : Fin 8) (p : Pkt) (s : State) : Out := hostCmd s c 0x001 p (takeCtxOpen c)

/-! ### CTX_CLOSE (R50) -/

/-- The engine is armed or about to be. -/
def Cap.on (e : Cap) : Bool := e.admitted || e.armed

/-- A context owns a running sequencer, an armed engine or an armed interval unit (R50). -/
def State.ctxRuns (s : State) (c : Fin 8) : Bool :=
  s.seqs.toList.any (fun x => x.owner == .ctx c && x.st != .idle) || s.caps.toList.any (fun e => e.owner == .ctx c && e.on) ||
  s.tmus.toList.any (fun t => t.owner == .ctx c && t.st != .idle)

/-- Step 1 of a forced close: sequencers abort at their next vector, engines disarm as with DISCARD, and units disarm (R50, R275). [DEDUCED, log 22] -/
def State.forcedStop (s : State) (c : Fin 8) : State :=
  let o := Owner.ctx c
  let s1 := forFin 4 (fun q t => t.modSeq q (fun x => if x.owner == o && x.live then { x with closeReq := earlier x.closeReq (s.metro + nsF 16) } else x)) s
  let s2 := forFin 8 (fun e t => if t.caps[e].owner == o && t.caps[e].held then t.capDisarm e 3 true else t) s1
  forFin 16 (fun u t => if t.tmus[u].owner == o then t.tmuOff u 2 else t) s2

/-- Work is running and FORCE is clear (R50). [DEDUCED, log 22] -/
def closeBusy (h : Hdr) (p : Pkt) (s : State) : Option Fail := failIf (!p.b0 0 && s.ctxRuns h.mb) 0x010 0x0030

/-- CTX_CLOSE after intake. [DEDUCED, log 22] -/
def ctxCloseBody (h : Hdr) (p : Pkt) (s : State) : State :=
  s.unlessFail h (lenFail p 0) (fun s =>
    let s1 := if p.b0 0 then s.forcedStop h.mb else s
    (s1.modCtx h.mb (fun x => { x with closing := true, closeHdr := some h })).settle h.mb)

/-- CTX_CLOSE is taken. -/
def takeCtxClose (c : Fin 8) (p : Pkt) (s : State) : State := s.deliver c 0x002 p noFail closeBusy ctxCloseBody
/-- CTX_CLOSE without FORCE. -/
def execCtxClose (c : Fin 8) (p : Pkt) (s : State) : Out := hostCmd s c 0x002 (p.withA0 0 0 0) (takeCtxClose c)
/-- CTX_CLOSE with FORCE. -/
def execCtxCloseForce (c : Fin 8) (p : Pkt) (s : State) : Out := hostCmd s c 0x002 (p.withA0 0 0 1) (takeCtxClose c)

/-! ### The host link goes down (R51) -/

/-- A header whose session has ended without responses. [DEDUCED, log 25] -/
def Hdr.orphan (h : Hdr) : Hdr := { h with gone := true }

/-- A measurement whose session has ended without responses. -/
def MeasJob.orphan : MeasJob → MeasJob
  | .ppmu m => .ppmu { m with hdr := m.hdr.orphan }
  | .level m => .level { m with hdr := m.hdr.orphan }
  | .check m => .check { m with hdr := m.hdr.orphan }

/-- Every command under way goes on without its response; those that only wait are dropped (R51). [DEDUCED, log 25] -/
def State.orphan (s : State) : State :=
  { s with commits := s.commits.map (fun c => { c with hdr := c.hdr.orphan }), seqs := vmap s.seqs (fun _ x => { x with hdr := x.hdr.orphan, stops := [] }), grps := vmap s.grps (fun _ g => { g with jobs := g.jobs.map MeasJob.orphan, after := [] }), store := { s.store with hostin := s.store.hostin.map (fun w => { w with hdr := w.hdr.orphan }), reads := [], waits := s.store.waits.map (fun w => { w with hdr := w.hdr.orphan }) }, flogs := vmap s.flogs (fun _ f => { f with drains := [], held := 0 }), caps := vmap s.caps (fun _ e => { e with hdr := e.hdr.map Hdr.orphan, disarms := e.disarms.map Hdr.orphan }), tmus := vmap s.tmus (fun _ t => { t with hdr := t.hdr.map Hdr.orphan }), tune := { s.tune with full := s.tune.full.map (fun f => { f with hdr := f.hdr.orphan }), reflects := s.tune.reflects.map (fun f => { f with hdr := f.hdr.orphan }), storing := s.tune.storing.map Hdr.orphan }, ring := { s.ring with trainHdrs := s.ring.trainHdrs.map (fun t => (t.1.orphan, t.2)) }, sec := { s.sec with zeroHdrs := s.sec.zeroHdrs.map Hdr.orphan, debugHdr := s.sec.debugHdr.map (fun d => (d.1.orphan, d.2)), fwHdr := s.sec.fwHdr.map (fun d => (d.1.orphan, d.2)) } }

/-- Some groups and pages under another owner. -/
def State.relabel (s : State) (gs : List (Fin 8)) (ps : List Nat) (o : Owner) : State :=
  { s with grps := vmap s.grps (fun g x => if gs.contains g then { x with owner := o } else x), store := { s.store with pages := s.store.pages.map (fun x => if ps.contains x.num then { x with owner := o } else x) } }

/-- What a context holds is given up, but for the groups of a burst that still ends and the pages it pins (R51, R83). [DEDUCED, log 25] -/
def State.dropCtx (s : State) (c : Fin 8) : State :=
  let o := Owner.ctx c
  let gs := (List.finRange 8).filter (fun g => s.grps[g].owner == o && s.grpRuns g)
  let ps := (s.store.pages.filter (fun x => x.owner == o && s.pinned x.num)).map (fun x => x.num)
  ((s.relabel gs ps .none).releaseCtx c).relabel gs ps o

/-- Every open context is closed as by a forced close, with no responses; the front registers of the contexts, XB_BUSY and
the TIME latch read zero (R51). [DEDUCED, log 25] -/
def State.hostDown (s : State) : State :=
  let s1 := forFin 8 (fun c t => t.forcedStop c) s.orphan.settleStore
  let s2 := forFin 8 (fun c t => t.dropCtx c) s1
  { s2 with ctxs := vmap s2.ctxs (fun _ x => { window := x.window }), link := { s2.link with linkUp := false, timeLatch := 0, xbCollided := false, xbCollisions := 0 } }

/-- PCIE_LINK_DOWN: the link leaves L0; it may train again (R51). -/
def execPcieLinkDown (s : State) : Out := .next (if s.link.linkUp then s.hostDown else s)

/-! ### FENCE, ECHO and DEVICE_INFO (R55, R67, R68) -/

/-- FENCE after intake. [DEDUCED, log 18] -/
def fenceBody (h : Hdr) (p : Pkt) (s : State) : State :=
  s.unlessFail h (lenFail p 0) (fun s =>
    (s.modCtx h.mb (fun x => { x with fences := x.fences ++ [{ hdr := h, waits := x.inflight.erase h.tag }] })).settle h.mb)
/-- FENCE is taken. -/
def takeFence (c : Fin 8) (p : Pkt) (s : State) : State := s.deliver c 0x005 p noFail noFail fenceBody
/-- FENCE. -/
def execFence (c : Fin 8) (p : Pkt) (s : State) : Out := hostCmd s c 0x005 p (takeFence c)

/-- What ECHO returns (R67). -/
def echoBlock (p : Pkt) : List Byte := words [p.arg0.toNat, p.arg1.toNat, p.arg2.toNat, p.arg3.toNat] ++ zeros 16 ++ p.body
/-- ECHO after intake. -/
def echoBody (h : Hdr) (p : Pkt) (s : State) : State := s.reply h 0 0 0 (echoBlock p)
/-- ECHO is taken. -/
def takeEcho (c : Fin 8) (p : Pkt) (s : State) : State := s.deliver c 0x006 p noFail noFail echoBody
/-- ECHO. -/
def execEcho (c : Fin 8) (p : Pkt) (s : State) : Out := hostCmd s c 0x006 p (takeEcho c)

/-- The context that holds the officer role; 0xF if none (R68). -/
def State.officerCode (s : State) : Nat := match (List.finRange 8).find? s.officer with | none => 0xF | some c => c.val

/-- The device information block for a sender (R68). -/
def State.infoBlock (s : State) (c : Fin 8) : List Byte :=
  let mask (f : Ctx → Bool) : Nat := maskOf (((List.finRange 8).filter (fun d => f s.ctxs[d])).map (fun d => d.val))
  words [devId, s.fwRelease, 3, s.devState] ++ le 8 Config.serial ++
  words [s.ringInfo, s.officerCode * 2 ^ 16 + mask (fun x => x.isOpen && x.expert) * 256 + mask (fun x => x.isOpen), s.quotaFree,
    (142 - s.store.capUnits - s.store.flogUnits) * 65536 + s.store.capUnits * 256 + s.store.flogUnits,
    (if Config.gradeM then 4096 else 2048), 4000 * 65536 + (if Config.gradeM then 4000 else 8000), s.secFlags c, 0] ++ le 8 s.power.readyTick

/-- DEVICE_INFO after intake. -/
def deviceInfoBody (h : Hdr) (p : Pkt) (s : State) : State := s.unlessFail h (lenFail p 0) (fun s => s.reply h 0 0 0 (s.infoBlock h.mb))
/-- DEVICE_INFO is taken. -/
def takeDeviceInfo (c : Fin 8) (p : Pkt) (s : State) : State := s.deliver c 0x007 p noFail noFail deviceInfoBody
/-- DEVICE_INFO. -/
def execDeviceInfo (c : Fin 8) (p : Pkt) (s : State) : Out := hostCmd s c 0x007 p (takeDeviceInfo c)

end Sys2Proof.Machine
end

