-- ==== Sys2Proof/Machine/Tuning.lean ====
section
/-! DEFINITION. Tuning: plausibility, full passes, gap calibration, live takeover, socket reflection, the stored tables, and
TUNE_RUN, TUNE_STATUS and CAL_STORE (R350 to R372). A quantity of a channel has a number of the model's own: 0 drive and 1
strobe delay, 2 interpolator and 3 TDC gain, 4 to 9 gains of VIH, VIL, VT, VOH, VOL and VCOM, 10 load and 11 PPMU gain, 12 to
17 offsets of those levels, 18 and 19 comparator offsets, 20 and 21 IOL and IOH offset, 22 to 26 PPMU current offset by range,
above that the measurement-lane delay, which R352 gives no limit. -/

namespace Sys2Proof.Machine

open Sys2Proof

/-! ### Plausibility (R352) -/

/-- The physical channel of entry `e` of a group; 16 is the reserve channel (R350). [PRESUMED, log 108] -/
def chanOf (g : Fin 8) (e : Nat) : Nat := 17 * g.val + e
/-- The group of a physical channel. -/
def chanGrp (k : Nat) : Fin 8 := fin 8 (k / 17)
/-- The pin die of a physical channel. -/
def chanDie (k : Nat) : Fin 4 := dieOf (chanGrp k)

/-- Subcode and limit of a quantity; none where R352 gives no limit. Units: fs, ppm, µV, nA. [PRESUMED, log 108] -/
def qtyLimit (q : Nat) : Option (Nat × Nat) :=
  if q < 2 then some (0xB030, 40000)
  else if q < 4 then some (0xB031, 30000)
  else if q < 12 then some (0xB032, 20000)
  else if q < 20 then some (0xB033, 15000)
  else if q < 22 then some (0xB033, 240000)
  else if q < 27 then some (0xB033, [20, 200, 2000, 20000, 400000].getD (q - 22) 0)
  else none

/-- A result within its limit about the factory value (R352). [PRESUMED, log 108] -/
def resOk (r : TuneRes) : Bool :=
  match qtyLimit r.qty with
  | none => true
  | some (_, l) => decide ((r.value - Config.factoryTrim r.chan r.qty).natAbs ≤ l)

/-- A discard counts, is the last of its group, and is recorded at most once a second for a channel (R352, R371). [DEDUCED, log 109] -/
def State.discard (s : State) (g : Fin 8) (e sub : Nat) (value : Int) (limit : Nat) : State :=
  let s1 := s.modGrp g (fun x => { x with take := { x.take with implausible := sat 32 (x.take.implausible + 1), lastQty := sub, lastChan := e, lastValue := value, lastTick := s.tick } })
  let k := chanOf g e
  let quiet := s.tune.lastRep.any (fun r => r.1 == k && decide (s.tick < r.2 + secT 1))
  if quiet then s1
  else (s1.modTune (fun t => { t with lastRep := (k, s.tick) :: t.lastRep.filter (fun r => r.1 != k) })).report 0x14 (g.val * 256 + e) false s.nowSI (enc 32 value) (sub * 65536 + sat 16 limit)

/-- Trims by channel and quantity, without those that have their factory value. -/
def putTrim (ts : List TrimEnt) (x : TrimEnt) : List TrimEnt :=
  let r := ts.filter (fun t => !(t.chan == x.chan && t.qty == x.qty))
  if x.value = Config.factoryTrim x.chan x.qty then r else insBy (fun t => t.chan * 256 + t.qty) x r

/-- A result is applied, or discarded (R352). -/
def State.applyRes (s : State) (r : TuneRes) : State :=
  if resOk r then s.modTune (fun t => { t with trims := putTrim t.trims { chan := r.chan, qty := r.qty, value := r.value } })
  else s.discard (chanGrp r.chan) (r.chan % 17) ((qtyLimit r.qty).getD (0, 0)).1 r.value ((qtyLimit r.qty).getD (0, 0)).2

/-- Every result, judged on its own (R352). -/
def State.applyAll (s : State) (rs : List TuneRes) : State := rs.foldl State.applyRes s

/-! ### Die temperature (R177, R454) -/

/-- Temperature of a pin die: the higher of its two sensors. -/
def State.dieTemp (s : State) (d : Fin 4) : Int := max s.power.sensors[fin 16 (4 + 2 * d.val)].temp s.power.sensors[fin 16 (5 + 2 * d.val)].temp

/-- Within 5 °C of a reference (R177). -/
def nearTemp (t : Int) (ref : Option Int) : Bool := match ref with | none => false | some r => decide ((t - r).natAbs ≤ 80)

/-- Live Tuning is enabled for a die (R369). -/
def State.dieLive (s : State) (d : Fin 4) : Bool := (List.finRange 8).all (fun g => dieOf g != d || s.grps[g].take.live)

/-- The band of a die after a change of its temperature or reference; leaving it is recorded (R177). -/
def State.bandOf (s : State) (d : Fin 4) : State :=
  let near := nearTemp (s.dieTemp d) s.tune.refTemp[d]
  let s1 := s.modTune (fun t => { t with inBand := vmod t.inBand d (fun _ => near) })
  if s.tune.inBand[d] && !near then s1.reportC 0x15 d.val (if s.dieLive d then 0 else 1) false s.nowSI (enc 32 (s.dieTemp d)) (enc 32 (s.tune.refTemp[d].getD 0)) 0
  else s1

/-! ### TUNE_STATUS (R371) -/

/-- STATE of a group (R371). -/
def TakeSt.code : TakeSt → Nat
  | .idle => 0
  | .prepare => 1
  | .search => 2
  | .carry => 3
  | .handback => 4

/-- The die in a full pass. -/
def State.fullDie (s : State) : Option (Fin 4) := (s.tune.full.head?).bind (fun f => f.dies.head?)

/-- The entry of a group (R371). -/
def State.tuneEntry (s : State) (g : Fin 8) : List Byte :=
  let t := s.grps[g].take
  let d := dieOf g
  let st := if s.fullDie == some d then 5 else if t.direct then 0 else t.st.code
  let starved : Nat := ((List.finRange 16).map (fun e => ((List.range 6).filter (fun k => (s.pins[pinOf g e].cells[fin 7 k]).starved)).length)).sum
  words [b2n t.live * 2 ^ 31 + b2n s.tune.inBand[d] * 2 ^ 30 + (match t.carried with | none => 31 | some e => e.val) * 2 ^ 19 + st * 2 ^ 16 + t.ms % 65536,
    (match s.tune.refTemp[d] with | none => 0x8000 | some r => enc 16 r) * 65536 + enc 16 (s.dieTemp d)] ++ le 8 s.tune.fullTick[d] ++
  words [t.takeovers, t.deferrals, t.implausible, starved, t.lastQty * 65536 + t.lastChan, enc 32 t.lastValue] ++ le 8 t.lastTick

/-- The device block (R371). -/
def State.tuneBlock (s : State) : List Byte :=
  words [(match s.fullDie with | none => 15 | some d => d.val) * 256 + b2n s.tune.storing.isSome * 16 + s.tune.restoreSrc, s.tune.tableSeq] ++ le 8 s.tune.lastStore ++ zeros 16

/-- TUNE_STATUS after intake. -/
def tuneStatusBody (h : Hdr) (p : Pkt) (s : State) : State :=
  s.unlessFail h (lenFail p 0) (fun s => s.reply h 0 0 0 (s.tuneBlock ++ (List.finRange 8).flatMap s.tuneEntry))
/-- TUNE_STATUS is taken. -/
def takeTuneStatus (c : Fin 8) (p : Pkt) (s : State) : State := s.deliver c 0xB02 p noFail noFail tuneStatusBody
/-- TUNE_STATUS. -/
def execTuneStatus (c : Fin 8) (p : Pkt) (s : State) : Out := hostCmd s c 0xB02 p (takeTuneStatus c)

/-! ### TUNE_RUN (R369, R370) -/

/-- The dies that FULL names, ascending. -/
def pktDies (p : Pkt) : List (Fin 4) := (List.finRange 4).filter (fun d => (p.a0 11 8).testBit d.val)
/-- The groups of some dies. -/
def diesGrps (ds : List (Fin 4)) : List (Fin 8) := (List.finRange 8).filter (fun g => ds.contains (dieOf g))

/-- Ownership of the groups that TUNE_RUN names (R369). -/
def tuneOwns (h : Hdr) (p : Pkt) (s : State) : Option Fail :=
  if p.a0 17 16 = 0 then failIf ((diesGrps (pktDies p)).any (fun g => takenFrom s.grps[g].owner h)) 0x040 0x3001
  else failIf ((pktGrps p).any (fun g => notMine s.grps[g].owner h)) 0x040 0x3001

/-- FULL and REFLECT on a group whose sequencer runs (R369). [DEDUCED, log 110] -/
def tuneBusy (_ : Hdr) (p : Pkt) (s : State) : Option Fail :=
  let gs := if p.a0 17 16 = 0 then diesGrps (pktDies p) else if p.a0 17 16 = 1 then pktGrps p else []
  failIf (gs.any s.grpRuns) 0x010 0x0030

/-- The form of TUNE_RUN (R369). [DEDUCED, log 111] -/
def tuneForm (p : Pkt) : Option Fail :=
  let op := p.a0 17 16
  let ms := p.a1 31 16
  let bad :=
    if op = 0 then p.a0 7 0 != 0 || p.a0 11 8 == 0 || ms != 0
    else if op = 1 then (pktGrps p).length != 1 || p.a0 11 8 != 0 || ms != 0 || p.a2 31 16 != 0
    else if op = 2 then p.a0 11 8 != 0 || (if p.isE then !(ms == 0 || (10 ≤ ms && ms ≤ 10000)) else ms != 0)
    else true
  firstFail [lenFail p 0, failIf bad 0x030 0xB001,
    failIf (op == 0 && p.a1 0 0 == 1 && !(1000000 ≤ p.arg2.toNat && p.arg2.toNat ≤ 5000000)) 0x030 0xB002]

/-- TUNE_RUN after intake. -/
def tuneRunBody (h : Hdr) (p : Pkt) (s : State) : State :=
  s.unlessFail h (tuneForm p) (fun s =>
    let op := p.a0 17 16
    if op = 0 then
      s.modTune (fun t => { t with full := t.full ++ [{ hdr := h, dies := pktDies p, dieTick := s.tick, external := p.a1 0 0 == 1, vref := p.arg2.toNat }] })
    else if op = 1 then
      s.modTune (fun t => { t with reflects := t.reflects ++ [{ hdr := h, grp := ((pktGrps p).head?).getD 0, mask := p.a2 15 0, startTick := s.tick }] })
    else
      ((pktGrps p).foldl (fun t g => t.modGrp g (fun x => { x with take := { x.take with live := p.a1 1 1 == 1, ms := if p.a1 31 16 = 0 then x.take.ms else p.a1 31 16 } })) s).ok h)

/-- TUNE_RUN is taken. -/
def takeTuneRun (c : Fin 8) (p : Pkt) (s : State) : State := s.deliver c 0xB01 p tuneOwns tuneBusy tuneRunBody
/-- TUNE_RUN with OP FULL. -/
def execTuneRunFull (c : Fin 8) (p : Pkt) (s : State) : Out := hostCmd s c 0xB01 (p.withA0 17 16 0) (takeTuneRun c)
/-- TUNE_RUN with OP REFLECT. -/
def execTuneRunReflect (c : Fin 8) (p : Pkt) (s : State) : Out := hostCmd s c 0xB01 (p.withA0 17 16 1) (takeTuneRun c)
/-- TUNE_RUN with OP LIVE. -/
def execTuneRunLive (c : Fin 8) (p : Pkt) (s : State) : Out := hostCmd s c 0xB01 (p.withA0 17 16 2) (takeTuneRun c)

/-! ### Full pass (R356 to R358) -/

/-- The first full pass is over; the next begins. [DEDUCED, log 110] -/
def State.nextFull (s : State) : State :=
  s.modTune (fun t => { t with full := match t.full.drop 1 with | [] => [] | f :: fs => { f with dieTick := s.tick } :: fs })

/-- The fault state was entered during steps 1 to 5 of the die, or held when its pass began (R357). [DEDUCED, log 110] -/
def State.fullFault (s : State) (f : FullPass) : Bool :=
  let entered := s.gong.fault || s.gong.recoveries != 0
  (entered && decide (f.dieTick ≤ s.gong.faultTick) && decide (s.gong.faultTick * 10 < f.dieTick * 10 + secT 19)) || (s.gong.fault && decide (s.gong.faultTick < f.dieTick))

/-- The sender's context is closed or closing (R357). -/
def State.senderGone (s : State) (h : Hdr) : Bool := h.gone || !s.ctxs[h.mb].isOpen || s.ctxs[h.mb].closing

/-- The response of a full pass (R370). -/
def State.fullReply (s : State) (f : FullPass) (fault : Bool) : State :=
  let pay := (diesGrps f.passed).flatMap s.tuneEntry
  if fault then s.reply f.hdr 0x0F0 0 0 pay
  else if f.discards = 0 then s.reply f.hdr 0 0 0 pay
  else s.reply f.hdr 0x080 f.firstQty (sat 16 f.discards) pay

/-- Step 6 of a die: results judged and applied, temperature recorded (R357). -/
def State.fullApply (s : State) (f : FullPass) (d : Fin 4) (rs : List TuneRes) : State :=
  let mine := rs.filter (fun r => chanDie r.chan == d && decide (r.chan < 136))
  let bad := mine.filter (fun r => !resOk r)
  let s1 := s.applyAll mine
  let f1 : FullPass := { f with dies := f.dies.drop 1, passed := f.passed ++ [d], dieTick := s.tick, discards := f.discards + bad.length, firstQty := if f.discards = 0 then ((bad.head?).bind (fun r => qtyLimit r.qty)).elim 0 Prod.fst else f.firstQty }
  (s1.modTune (fun t => { t with full := f1 :: t.full.drop 1, passes := t.passes + 1, refTemp := vmod t.refTemp d (fun _ => some (s.dieTemp d)), fullTick := vmod t.fullTick d (fun _ => s.tick) })).bandOf d

/-- TUNE_FULL_DIE_DONE: step 6 of the die in its pass ends 2.00 s after its start, or once its ADCs are free (R215); a pass cut short ends at once, and its
results are lost (R356, R357, R370). -/
def execTuneFullDieDone (res : List TuneRes) (s : State) : Out :=
  match s.tune.full with
  | [] => .next s
  | f :: _ =>
    match f.dies with
    | [] => .next s
    | d :: ds =>
      if s.fullFault f then .next ((s.nextFull).fullReply f true)
      else if s.senderGone f.hdr then .next ((s.nextFull).fullReply f false)
      else if s.tick < f.dieTick + secT 2 || (diesGrps [d]).any s.adcBusy then .next s
      else
        let s1 := s.fullApply f d res
        match ds, s1.tune.full with
        | [], g :: _ => .next ((s1.nextFull).fullReply g false)
        | _, _ => .next s1

/-! ### Reflection (R368, R370, R172) -/

/-- FIX of a round trip (R172). -/
def fixOfTrip (r : Nat) : Nat := (r + 1) / 2

/-- A return is found within 12,287 fine LSB (R368). -/
def tripFound (r : Option Nat) : Option Nat := r.bind (fun n => if n ≤ 12287 then some n else none)

/-- A reflection value passes R352: in range, and the offsets stay within R171. [DEDUCED, log 112] -/
def State.fixOk (s : State) (p : Fin 128) (f : Nat) : Bool :=
  let refl (x : Fin 128) : Option Nat := if x = p then some f else s.pins[x].reflFix
  decide (f ≤ 6143) && offOk (offD refl s.cfg p) && offOk (offS refl s.cfg p)

/-- The result of one pin of a reflection: taken over, or discarded; and whether it was accepted. [DEDUCED, log 112] -/
def State.reflectPin (s : State) (g : Fin 8) (e : Fin 16) (r : Option Nat) : State × Bool :=
  match tripFound r with
  | none => (s.discard g e.val 0xB035 0 6143, false)
  | some n =>
    if s.fixOk (pinOf g e) (fixOfTrip n) then (s.modPin (pinOf g e) (fun x => { x with reflFix := some (fixOfTrip n) }), true)
    else (s.discard g e.val 0xB035 (fixOfTrip n) 6143, false)

/-- The 8 bytes of a pin (R370). -/
def reflectEntry (r : Option Nat) (ok : Bool) : List Byte :=
  match tripFound r with
  | none => words [5, 0]
  | some n => words [n * 65536 + b2n ok * 2 + 1, fixOfTrip n]

/-- The results of the selected pins, in ascending order: the state, the entries, and the number discarded. -/
def State.reflectAll (s : State) (g : Fin 8) (mask : Nat) (trips : List (Option Nat)) : State × List Byte × Nat :=
  (List.finRange 16).foldl (fun a e =>
    if mask.testBit e.val then
      let r := (trips.getD ((setBits 16 mask).idxOf e.val) none)
      let x := a.1.reflectPin g e r
      (x.1, a.2.1 ++ reflectEntry r x.2, a.2.2 + b2n (!x.2))
    else (a.1, a.2.1 ++ zeros 8, a.2.2)) (s, [], 0)

/-- REFLECT_DONE: the last selected pin of the oldest reflection of a group is measured, about 10 µs for each (R368, R370). -/
def execReflectDone (g : Fin 8) (trips : List (Option Nat)) (s : State) : Out :=
  match s.tune.reflects.find? (fun r => r.grp == g) with
  | none => .next s
  | some r =>
    let n := (setBits 16 r.mask).length
    if trips.length = n ∧ r.startTick + usT (10 * n) ≤ s.tick then
      let x := (s.modTune (fun t => { t with reflects := t.reflects.erase r })).reflectAll g r.mask trips
      .next (if x.2.2 = 0 then x.1.reply r.hdr 0 0 0 x.2.1 else x.1.reply r.hdr 0x080 0xB035 x.2.2 x.2.1)
    else .next s

/-! ### Stored tables (R353 to R355) -/

/-- The copy that CAL_STORE writes: 0 A, 1 B (R355). -/
def State.storeCopy (s : State) : Fin 2 :=
  let a := s.flash[(0 : Fin 2)]
  let b := s.flash[(1 : Fin 2)]
  if !a.valid then 0 else if !b.valid then 1 else if a.seqNo < b.seqNo then 0 else 1

/-- The tables in force, as a copy (R353). -/
def State.tableCopy (s : State) (n : Nat) : CalCopy :=
  { valid := true, present := true, seqNo := n, trims := s.tune.trims, refl := (List.finRange 128).filterMap (fun p => (s.pins[p].reflFix).map (fun f => (p.val, f))), temps := s.tune.refTemp }

/-- CAL_STORE is for SECURE or the only open context (R355). -/
def calStoreOwns (h : Hdr) (_ : Pkt) (s : State) : Option Fail := failIf (!s.sole h) 0x041 0x2003
/-- The flash is in use (R355). -/
def calStoreBusy (_ : Hdr) (_ : Pkt) (s : State) : Option Fail := failIf s.flashBusy 0x010 0xB011
/-- CAL_STORE after intake: the copy chosen is no longer valid until it is written (R355). -/
def calStoreBody (h : Hdr) (p : Pkt) (s : State) : State :=
  s.unlessFail h (lenFail p 0) (fun s =>
    let k := s.storeCopy
    { s with flash := vmod s.flash k (fun x => { x with valid := false, present := true }) }.modTune (fun t => { t with storing := some h, storeTo := k.val }))
/-- CAL_STORE is taken. -/
def takeCalStore (c : Fin 8) (p : Pkt) (s : State) : State := s.deliver c 0xB03 p calStoreOwns calStoreBusy calStoreBody
/-- CAL_STORE. -/
def execCalStore (c : Fin 8) (p : Pkt) (s : State) : Out := hostCmd s c 0xB03 p (takeCalStore c)

/-- CAL_STORE_DONE: the copy is written and read back (R355). -/
def execCalStoreDone (readBackOk : Bool) (s : State) : Out :=
  match s.tune.storing with
  | none => .next s
  | some h =>
    let k := fin 2 s.tune.storeTo
    let o := s.flash[k + 1]
    let n := if o.valid then (o.seqNo + 1) % 2 ^ 32 else 1
    let s1 := s.modTune (fun t => { t with storing := none })
    if readBackOk then
      .next (({ s1 with flash := vmod s1.flash k (fun _ => s1.tableCopy n) }.modTune (fun t => { t with tableSeq := n, lastStore := s.tick })).ok h)
    else .next (s1.refuse h (0x060, 0xB020))

/-- The copy that start-up restores (R354). -/
def State.restorePick (s : State) : Option (Fin 2) :=
  let a := s.flash[(0 : Fin 2)]
  let b := s.flash[(1 : Fin 2)]
  if a.valid && b.valid then some (if a.seqNo < b.seqNo then 1 else 0) else if a.valid then some 0 else if b.valid then some 1 else none

/-- Start-up restores Tuning from the flash, or takes the factory trims (R354). [DEDUCED, log 115] -/
def State.restoreTables (s : State) : State :=
  match s.restorePick with
  | none =>
    let held := s.flash[(0 : Fin 2)].present || s.flash[(1 : Fin 2)].present
    (s.modTune (fun t => { t with restoreSrc := 0, trims := [] })).reportC 0x16 0 (if held then 1 else 0) false s.nowSI 0 0 0
  | some k =>
    let c := s.flash[k]
    let s1 := s.modTune (fun t => { t with restoreSrc := k.val + 1, tableSeq := c.seqNo, trims := [], refTemp := c.temps })
    let s2 := s1.applyAll (c.trims.map (fun t => { chan := t.chan, qty := t.qty, value := t.value }))
    let s3 := c.refl.foldl (fun t r =>
      let p := fin 128 r.1
      if t.fixOk p r.2 then t.modPin p (fun x => { x with reflFix := some r.2 }) else t.discard (grpOf p) (entOf p).val 0xB035 r.2 6143) s2
    forFin 4 (fun d t => t.modTune (fun y => { y with inBand := vmod y.inBand d (fun _ => nearTemp (t.dieTemp d) t.tune.refTemp[d]) })) s3

/-! ### Gap calibration (R359, R360) -/

/-- A gap result moves a trim toward the measured value by at most one. -/
def nudge (trim meas : Int) : Int := if trim < meas then trim + 1 else if meas < trim then trim - 1 else trim

/-- An edge cell of a pin, or its TDC (cell 6), has had a gap for a measurement of 6 ticks that ends now: events within 2 ns of its
start left a cell free, or no strobe or crossing came near (R359). [DEDUCED, log 114] -/
def Pin.gap (p : Pin) (cell : Fin 7) (tick : Nat) : Bool :=
  let lo := (tick - 6) * 512
  let hi := (tick + 2) * 512
  let near (t : Nat) : Bool := decide (lo ≤ t) && decide (t ≤ hi)
  let strobes := p.strobeQ.filter (fun e => decide (e.opens ≤ hi))
  if cell = 6 then strobes.isEmpty && !p.crosses.any (fun x => decide (lo ≤ x.t))
  else
    let past := ([p.lastDrive, p.lastStrobe].filterMap id).filter near
    (p.driveQ.filter (fun d => near d.fine)).length + strobes.length + past.length < 6

/-- GAP_CALIBRATION: an edge cell or the pin TDC has measured its interpolator in a gap; `gain` is what it deviates from the
factory value, in ppm (R352, R359, R360). -/
def execGapCalibration (p : Fin 128) (cell : Fin 7) (meas gain : Int) (s : State) : Out :=
  let g := grpOf p
  let k := s.pins[p].cells[cell]
  let soon := match k.lastUpd with | none => false | some t => decide (s.tick < t + usT 10)
  if !s.grps[g].take.live || s.tuned g || soon || !s.pins[p].gap cell s.tick then .next s
  else if gain.natAbs ≤ 30000 then
    .next (s.modPin p (fun x => { x with cells := vmod x.cells cell (fun y => { y with trim := nudge y.trim meas, lastUpd := some s.tick, lastGap := s.tick, starved := false }) }))
  else .next ((s.modPin p (fun x => { x with cells := vmod x.cells cell (fun y => { y with lastGap := s.tick, starved := false }) })).discard g (entOf p).val 0xB031 gain 30000)

/-- EDGE_CELL_STARVED: an edge cell has found no gap for 10 ms (R360). [DEDUCED, log 114] -/
def execEdgeCellStarved (p : Fin 128) (cell : Fin 7) (s : State) : Out :=
  if cell.val < 6 && s.grps[grpOf p].take.live && decide ((s.pins[p].cells[cell]).lastGap + msT 10 ≤ s.tick) then
    .next (s.modPin p (fun x => { x with cells := vmod x.cells cell (fun y => { y with starved := true }) }))
  else .next s

/-! ### Live takeover (R361 to R366) -/

/-- Takeover state of a group changed. -/
def State.modTake (s : State) (g : Fin 8) (f : Take → Take) : State := s.modGrp g (fun x => { x with take := f x.take })

/-- The fastest rate of a group is at most 4.0 Gbit/s (R361). -/
def State.slowEnough (s : State) (g : Fin 8) : Bool :=
  match s.grps[g].seq with
  | none => true
  | some q => (s.cfg.grps[g]).kinds.all (fun (_, t) => t.entries.all (fun k => decide (512 * t.beats ≤ (s.cfg.seqs[q]).pf[k])))

/-- A pin is eligible for a takeover (R361). [DEDUCED, log 113] -/
def State.eligible (s : State) (g : Fin 8) (e : Fin 16) : Bool :=
  let p := pinOf g e
  s.slowEnough g && !(s.pinCfg p).reflex.enable && s.pins[p].ppmu.mode == 0 &&
    !s.pins[p].latched && s.grpRuns g

/-- The cycle in progress is over. [DEDUCED, log 113] -/
def Take.over (t : Take) : Take := { t with st := .idle, direct := false, tapBusy := false, handAddr := none, endAt := none, stuck := false }

/-- The phase of a takeover has passed its limit in µs (R362). -/
def State.phaseOver (s : State) (g : Fin 8) (us : Nat) : Bool := decide (s.grps[g].take.phaseTick + usT us < s.tick)

/-- TAKEOVER_CYCLE: a cycle starts on the next eligible pin; with an idle sequencer the next pin's channel is calibrated
directly (R361); the fault state starts none (R384). -/
def execTakeoverCycle (g : Fin 8) (s : State) : Out :=
  let t := s.grps[g].take
  if !t.live || s.gong.fault || s.tuned g || t.st != .idle || t.carried.isSome || !(t.tapBusy || decide (t.cycleTick + msT t.ms ≤ s.tick)) then .next s
  else if s.grpRuns g then
    match ((List.finRange 16).map (fun i => t.next + i)).find? (s.eligible g) with
    | none => .next (s.modTake g (fun x => { x.over with cycleTick := s.tick }))
    | some e => .next (s.modTake g (fun x => { x with st := .prepare, cand := e, next := e + 1, phaseTick := s.tick, cycleTick := s.tick, handAddr := none, endAt := none }))
  else .next (s.modTake g (fun x => { x with st := .carry, direct := true, cand := x.next, next := x.next + 1, phaseTick := s.tick, cycleTick := s.tick }))

/-- TAKEOVER_PREPARE_DONE: the reserve channel is matched to the pin, its comparators settled as the pin's are, and the handoff
search begins; a residual beyond 2 ps, or 250 µs over, ends the cycle (R205, R352, R362). [DEDUCED, log 146] -/
def execTakeoverPrepareDone (g : Fin 8) (residual : Int) (handoff : Option Nat) (s : State) : Out :=
  let y := s.pins[pinOf g s.grps[g].take.cand]
  if s.grps[g].take.st != .prepare || s.tuned g then .next s
  else if s.phaseOver g 250 then .next (s.modTake g Take.over)
  else if s.adcBusy g then .next s
  else if residual.natAbs ≤ 2000 then
    .next (s.modGrp g (fun x => { x with rv := { x.rv with voh := y.voh, vol := y.vol }, take := { x.take with st := .search, handAddr := handoff, phaseTick := s.tick } }))
  else .next ((s.modTake g Take.over).discard g 16 0xB034 residual 2000)

/-- The vector last issued is the armed one and is a handoff vector for the pin of the cycle (R363). [DEDUCED, log 113] -/
def State.handoffNow (s : State) (g : Fin 8) : Bool :=
  let t := s.grps[g].take
  let p := pinOf g t.cand
  let x := s.pins[p]
  match s.grps[g].seq with
  | none => false
  | some q =>
    let y := s.seqs[q]
    match y.hist with
    | [] => false
    | v :: _ =>
      let od := offD (fun k => s.pins[k].reflFix) s.cfg p
      let sh : Int := v.start + od
      let clear := x.strobeQ.all (fun e => decide ((e.closes : Int) < sh - nsF 2) || decide (sh + nsF 2 < (e.opens : Int)))
      let issued := v.start - nsF 14
      y.st != .idle && t.handAddr == some y.lastAddr && v.addr == y.lastAddr && x.prevKeep && !y.noHand &&
        ((s.pinCfg p).format != 1 || x.keep2) && clear && decide (t.phaseTick * 512 ≤ issued) && decide (issued ≤ (t.phaseTick + usT 100) * 512)

/-- HANDOFF: at the armed vector the reserve channel takes the pin if it is still eligible (R196, R361), or returns it unless a
trip or the safe state keeps it (R362, R363, R366). -/
def execHandoff (g : Fin 8) (s : State) : Out :=
  let t := s.grps[g].take
  if t.direct || s.tuned g || !s.handoffNow g then .next s
  else match t.st with
    | .search => if s.eligible g t.cand then .next (s.modTake g (fun x => { x with st := .carry, carried := some x.cand, phaseTick := s.tick, handAddr := none })) else .next s
    | .handback => if s.slowEnough g && !t.stuck then .next (s.modTake g (fun x => { x.over with carried := none, takeovers := sat 32 (x.takeovers + 1) })) else .next s
    | _ => .next s

/-- The group's sequencer issues vectors. -/
def State.issuing (s : State) (g : Fin 8) : Bool := match s.grps[g].seq with | none => false | some q => s.seqs[q].st == .running

/-- TAKEOVER_DEFER: no handoff vector in the 100 µs window, or the burst has ended; a takeover is deferred, a handback is searched
for anew (R364). -/
def execTakeoverDefer (g : Fin 8) (handoff : Option Nat) (s : State) : Out :=
  let t := s.grps[g].take
  let late := t.handAddr.isNone || decide (t.phaseTick + usT 100 ≤ s.tick) || !s.issuing g
  if t.st = .search ∧ late then .next (s.modTake g (fun x => { x.over with deferrals := sat 32 (x.deferrals + 1) }))
  else if t.st = .handback ∧ late ∧ s.issuing g then .next (s.modTake g (fun x => { x with handAddr := handoff, phaseTick := s.tick }))
  else .next s

/-- CARRY_DONE: the channel's calibration ends; its results are judged, unless 300 µs are over, and the handback search begins
(R362, R366). [DEDUCED, log 146] -/
def execCarryDone (g : Fin 8) (res : List TuneRes) (handoff : Option Nat) (s : State) : Out :=
  let t := s.grps[g].take
  let late := !t.direct && s.phaseOver g 300
  if t.st != .carry || s.tuned g || (s.adcBusy g && !late) then .next s
  else
    let s1 := if late then s else s.applyAll (res.filter (fun r => r.chan == chanOf g t.cand.val))
    .next (s1.modTake g (fun x => if x.direct then x.over else { x with st := .handback, handAddr := handoff, phaseTick := s.tick }))

/-- HANDBACK_AFTER_BURST: 100 ns after the burst's end the pin is handed back without a handoff vector (R365). -/
def execHandbackAfterBurst (g : Fin 8) (s : State) : Out :=
  let t := s.grps[g].take
  match t.carried, t.endAt with
  | some _, some e => .next (if s.due (e + nsF 100) then s.modTake g (fun x => { x.over with carried := none, takeovers := sat 32 (x.takeovers + 1) }) else s)
  | _, _ => .next s

end Sys2Proof.Machine
end

