-- ==== Sys2Proof/Machine/Power.lean ====
section
/-! DEFINITION. Power, clocks, resets and start-up, the health data and the SMBus sideband (R387, R439 to R457). -/

namespace Sys2Proof.Machine

open Sys2Proof

/-! ### The reach of a reset (R446) -/

/-- An event pin keeps the level that the outside drives. -/
def EvPin.afterReset (p : EvPin) : EvPin := { level := p.level }

/-- A reset of the whole device but for what survives it: the OTP, the flash, the levels at the pins, and after RESET_N the
kept Fatal record (R390, R446). [DEDUCED, log 121] -/
def State.hardReset (s : State) (pin masterSel : Bool) (pw : Power) : State :=
  { State.reset with pending := s.pending, free := s.free, flash := s.flash, link := { bus := s.link.bus, perstLow := s.link.perstLow }, taps := { gates := vmap s.taps.gates (fun _ p => p.afterReset), ios := vmap s.taps.ios (fun _ p => p.afterReset) }, gong := { prior := if pin then s.gong.prior else none }, ring := { master := masterSel }, sec := { otp := s.sec.otp, imgA := s.sec.imgA, imgB := s.sec.imgB, policyRec := s.sec.policyRec, policyValid := s.sec.policyValid, drbg := s.sec.drbg + 1, zeroPin := s.sec.zeroPin, zeroLater := s.sec.zeroPin || (pin && s.sec.zeroLater) }, power := pw }

/-- The temperatures stay; the conditions are found anew. [DESIGN CHOICE, log 87] -/
def Power.temps (p : Power) : Vector Sensor 16 := vmap p.sensors (fun _ x => { temp := x.temp })

/-- Power-on reset: everything from step 1 on, the rails off (R446). [DEDUCED, log 121] -/
def Power.fromOff (p : Power) (vin held : Bool) (cause resets : Nat) : Power :=
  { vin := vin, held := held, cause := cause, resets := resets, refclkOk := p.refclkOk, sensors := p.temps }

/-- POWER_ON: VIN reaches 11.4 V and start-up begins at step 1 (R439, R448). [DESIGN CHOICE, log 135] -/
def execPowerOn (masterSel : Bool) (s : State) : Out :=
  .next (if s.power.vin then s else s.hardReset false masterSel (s.power.fromOff true false (if s.power.cause = 2 then 2 else 0) 0))

/-- BROWN_OUT: VIN is below 10.8 V (R442). -/
def execBrownOut (s : State) : Out :=
  .next (if s.power.vin then s.hardReset false s.ring.master (s.power.fromOff false false 2 0) else s)

/-- OVERVOLTAGE: VIN is above 13.5 V; the device is held in reset (R442). -/
def execOvervoltage (s : State) : Out :=
  .next (if s.power.vin then s.hardReset false s.ring.master (s.power.fromOff true true 3 0) else s)

/-- A device held in reset for a cause is let go: start-up begins at step 1. -/
def State.letGo (s : State) (cause : Nat) (masterSel : Bool) : State :=
  if s.power.held && s.power.cause == cause then
    (s.modPower (fun p => { p with held := false })).modBeat (fun b => { b with master := masterSel })
  else s

/-- OVERVOLTAGE_RELEASE: VIN is below 12.6 V again (R442). -/
def execOvervoltageRelease (masterSel : Bool) (s : State) : Out := .next (s.letGo 3 masterSel)

/-- The sensors on the standby path read below 85 °C (R455). -/
def Power.cooled (p : Power) : Bool := decide (p.sensors[(14 : Fin 16)].temp < 1360) && decide (p.sensors[(15 : Fin 16)].temp < 1360)

/-- THERMAL_RESTART: the device has cooled down and restarts (R455). -/
def execThermalRestart (masterSel : Bool) (s : State) : Out := .next (if s.power.cooled then s.letGo 4 masterSel else s)

/-- What RESET_N leaves of the power state: the rails run on, and start-up resumes at step 3 (R446, R447). [DEDUCED, log 121] [DEDUCED, log 122] -/
def Power.afterPin (p : Power) : Power :=
  { vin := true, stepDone := 2, cause := 1, resets := sat 32 (p.resets + 1), refclkOk := p.refclkOk, locked := p.refclkOk, rails := vmap p.rails (fun _ r => { r with out := false }), sensors := p.temps, flashHiz := false }

/-- RESET_N_ASSERT: a low pulse of RESET_N (R446). -/
def execResetNAssert (masterSel : Bool) (s : State) : Out :=
  .next (if s.power.vin && !s.power.held then s.hardReset true masterSel s.power.afterPin else s)

/-- The PCIe function is reset and every context closed (R387, R446). -/
def State.linkReset (s : State) : State :=
  let s1 := s.hostDown
  { s1 with link := { bus := s1.link.bus, perstLow := s1.link.perstLow, training := s1.link.training } }

/-- PERST_N_ASSERT: PERST_N falls (R446). -/
def execPerstNAssert (s : State) : Out :=
  .next (if s.link.perstLow then s
    else
      let s1 := if s.power.vin && !s.power.held then s.linkReset.modPower (fun p => { p with resets := sat 32 (p.resets + 1) }) else s
      s1.modLink (fun l => { l with perstLow := true, training := false }))

/-- PERST_N_RELEASE: PERST_N rises; link training is enabled if start-up is through (R450). -/
def execPerstNRelease (s : State) : Out :=
  .next (s.modLink (fun l => { l with perstLow := false, training := decide (s.power.stepDone = 7) }))

/-- PCIE_LINK_UP: the link reaches L0, and vector 0 fires (R450, R451). [DEDUCED, log 27] -/
def execPcieLinkUp (s : State) : Out :=
  .next (if s.link.training && !s.link.perstLow && !s.link.linkUp then (s.modLink (fun l => { l with linkUp := true })).msix 0 else s)

/-! ### Start-up (R448) -/

/-- Start-up stops with a code (R448). [DEDUCED, log 122] -/
def State.bootStop (s : State) (code : Nat) : State := s.modPower (fun p => { p with failed := true, bootFail := code })

/-- A step is done. -/
def State.stepTo (s : State) (n : Nat) : State := s.modPower (fun p => { p with stepDone := n })

/-- Step 2 ends: every rail in tolerance, REFCLK locked, the Metronome at zero (R441, R445). -/
def State.endStep2 (s : State) : State :=
  { s.modPower (fun p => { p with stepDone := 2, bootFail := 0, locked := true, rails := vmap p.rails (fun _ r => { r with enabled := true }) }) with metro := 0 }

/-- The policy of start-up (R428). -/
def State.bootPolicy (s : State) : State :=
  match s.sec.policyRec, s.sec.policyValid with
  | some (e, y), true => s.modSec (fun x => { x with expertOk := e, cycleOk := y })
  | none, _ =>
    if s.sec.otp.policySet then (s.modSec (fun x => { x with expertOk := 0, cycleOk := 0 })).authReport 0xF 0
    else s.modSec (fun x => { x with expertOk := 255, cycleOk := 255 })
  | some _, false => (s.modSec (fun x => { x with expertOk := 0, cycleOk := 0 })).authReport 0xF 0

/-- A self-test of the boot ROM or the firmware fails (R433). -/
def State.testFailed (s : State) (test : Nat) : State := (s.bootStop 4).report 0x05 test false s.nowSI 0 0

/-- Step 3 ends: self-tests, image selection, policy, and a zeroization that waited (R422, R423, R428, R433, R449). [DEDUCED, log 122] -/
def State.endStep3 (s : State) (r : StepResult) : State :=
  if r.fail = 4 ∧ r.test ≤ 2 then s.testFailed r.test
  else match s.sec.bootPick with
    | none => (s.bootStop 3).modPower (fun p => { p with flashHiz := true })
    | some b =>
      let s1 := s.modSec (fun x => { x with runB := b })
      if r.fail = 4 then s1.testFailed r.test
      else
        let s2 := (s1.bootPolicy.stepTo 3).modGong (fun g => { g with beats := Vector.replicate 4 s.tick })
        if s2.sec.zeroLater then (s2.modSec (fun x => { x with zeroLater := false })).startZero 0 else s2

/-- Step 4 ends: the HBM is trained, and Brush initialization begins (R344, R448). -/
def State.endStep4 (s : State) (r : StepResult) : State :=
  if s.sec.zeroing.isSome then s
  else
    let s1 := s.modPower (fun p => { p with hbmTries := max 1 (min 3 r.tries) })
    if r.fail = 5 then s1.bootStop 5 else (s1.stepTo 4).modSram (fun x => { x with xbPass := true, xbusy := true })

/-- Step 5 ends: every SRAM reads zero and is released (R344). -/
def State.endStep5 (s : State) (r : StepResult) : State :=
  if r.fail = 6 then s.bootStop 6
  else ({ s with brush := vmap s.brush (fun _ b => { b with initDone := true, lapTick := s.tick, lastOpp := s.tick }) }.stepTo 5).modSram (fun x => { x with xbPass := false, xbusy := false })

/-- Step 7: READY, which enables the comparators (R204), the first edge of TICK 500 µs later, and link training (R448 to R451). -/
def State.endStep7 (s : State) (r : StepResult) : State :=
  let s1 := s.modPower (fun p => { p with stepDone := 7, ready := !s.gong.fatal, readyTick := s.tick, readyMs := r.ms })
  let s2 := s1.modGong (fun g => { g with tickAt := s.tick + usT 500, beats := Vector.replicate 4 s.tick })
  let s3 := { s2 with pins := vmap s2.pins (fun _ x => x.enableComps s.metro) }
  State.devEvents s (s3.modLink (fun l => { l with training := !l.perstLow })).syncBypass

/-- The start-up step in progress ends (R448). -/
def State.endStep (s : State) (r : StepResult) : State :=
  match s.power.stepDone with
  | 0 => (s.stepTo 1).modPower (fun p => { p with flashHiz := false })
  | 1 => if r.fail = 1 then s.bootStop 1 else if s.power.refclkOk then s.endStep2 else s
  | 2 => s.endStep3 r
  | 3 => s.endStep4 r
  | 4 => s.endStep5 r
  | 5 => s.restoreTables.stepTo 6
  | 6 => s.endStep7 r
  | _ => s

/-- Start-up runs: powered, not held, not stopped, and locked from step 3 on. [PRESUMED, log 129] -/
def Power.booting (p : Power) : Bool := p.vin && !p.held && !p.failed && decide (p.stepDone < 7) && (decide (p.stepDone < 2) || p.locked)

/-- STARTUP_STEP_DONE. [DESIGN CHOICE, log 135] -/
def execStartupStepDone (r : StepResult) (s : State) : Out := .next (if s.power.booting then s.endStep r else s)

/-- RAIL_TIMEOUT: a rail does not reach tolerance; every rail is stopped (R442). -/
def execRailTimeout (rail : Fin 11) (s : State) : Out :=
  .next (if s.power.booting && s.power.stepDone == 1 then
    (s.bootStop 1).modPower (fun p => { p with rails := vmap p.rails (fun i x => { x with enabled := false, out := x.out || i == rail }) }) else s)

/-- REFCLK_WAIT_TIMEOUT: REFCLK is missing 10 ms after step 2 needs it; start-up waits on (R445). -/
def execRefclkWaitTimeout (s : State) : Out :=
  .next (if s.power.booting && s.power.stepDone == 1 && !s.power.refclkOk then s.modPower (fun p => { p with bootFail := 2 }) else s)

/-! ### Clocks, supplies and temperature (R442, R445, R454, R455) -/

/-- REFCLK_LOSS (R445): after the lock the loss is reported, and the clock unit has no clock to count. [DEDUCED, log 123] -/
def execRefclkLoss (s : State) : Out :=
  let s1 := s.modPower (fun p => { p with refclkOk := false, locked := false })
  .next (if s.power.locked then s1.report 0x03 0 false s.nowSI 0 0 else s1)

/-- The REFCLK_LOSS condition is active or on its way. [DEDUCED, log 123] -/
def State.refclkReported (s : State) : Bool :=
  (s.gongInst 0x03 0).active || s.gong.inbox.any (fun r => r.src == 0x03 && !r.cleared)

/-- REFCLK_RETURN: REFCLK is valid again; the condition ends, though not the fault state (R374, R445). [DEDUCED, log 123] -/
def execRefclkReturn (s : State) : Out :=
  let s1 := s.modPower (fun p => { p with refclkOk := true, locked := p.vin && !p.held && decide (2 ≤ p.stepDone) })
  .next (if !s.power.refclkOk && s.refclkReported then s1.report 0x03 0 true s.nowSI 0 0 else s1)

/-- CLOCK_LOCK_LOSS: a timing island loses the forwarded clock (R373). -/
def execClockLockLoss (die : Fin 4) (s : State) : Out :=
  .next (if s.power.locked then s.report 0x02 die.val false s.nowSI 0 0 else s)

/-- SUPPLY_CONDITION: a rail has left its tolerance, or returned (R442). [DEDUCED, log 124] [DEDUCED, log 138] -/
def execSupplyCondition (rail : Fin 11) (out : Bool) (mv : Int) (s : State) : Out :=
  let up := s.power.vin && !s.power.held && decide (2 ≤ s.power.stepDone)
  let was := (s.power.rails[rail]).out
  let s1 := s.modPower (fun p => { p with rails := vmod p.rails rail (fun x => { x with mv := some mv, out := if up then out else x.out }) })
  .next (if up && was != out then s1.report 0x08 rail.val (!out) s.nowSI (enc 32 mv) 0 else s1)

/-- A condition with hysteresis: begins at `hi` or more, ends below `lo`. -/
def hyster (was : Bool) (t hi lo : Int) : Bool := if was then decide (lo ≤ t) else decide (hi ≤ t)

/-- The report of a condition that changed. [DEDUCED, log 138] -/
def State.reportChange (s : State) (src inst : Nat) (was now : Bool) (v : Int) : State :=
  if was == now then s else s.report src inst (!now) s.nowSI (enc 32 v) 0

/-- TEMP_SAMPLE: a sensor is read; TEMP_HIGH and TEMP_CRIT begin or end, and 125 °C shuts the device down (R454, R455). [DESIGN CHOICE, log 87] [DEDUCED, log 124] [DESIGN CHOICE, log 136] -/
def execTempSample (sensor : Fin 16) (temp : Int) (s : State) : Out :=
  let x := s.power.sensors[sensor]
  let up := s.power.vin && !s.power.held && decide (2 ≤ s.power.stepDone)
  let y : Sensor := { temp := temp, high := if up then hyster x.high temp 1600 1520 else x.high, crit := if up then hyster x.crit temp 1760 1680 else x.crit }
  let s1 := s.modPower (fun p => { p with sensors := vmod p.sensors sensor (fun _ => y) })
  .next (if 2000 ≤ temp ∧ s.power.vin then
      (if s.power.held then s1 else s1.hardReset false s1.ring.master (s1.power.fromOff true true 4 s1.power.resets))
    else
      let s2 := (s1.reportChange 0x06 sensor.val x.crit y.crit temp).reportChange 0x07 sensor.val x.high y.high temp
      if up ∧ 4 ≤ sensor.val ∧ sensor.val < 12 then s2.bandOf (fin 4 ((sensor.val - 4) / 2)) else s2)

/-! ### Reset targets of the Gong (R387) -/

/-- CAPTURE: every engine and unit disarms and the staging buffers are emptied. [DEDUCED, log 125] -/
def State.resetCapture (s : State) : State :=
  let s1 := forFin 8 (fun e t => if t.caps[e].held then t.capDisarm e 0 true else t) s
  let s2 := forFin 16 (fun u t => t.tmuOff u 1) s1
  { s2 with caps := vmap s2.caps (fun _ e => { e with staging := [] }) }

/-- PIN_DIE: the groups of a die take the state of R11, and its timing island relocks, which ends a CLOCK_LOCK condition. [DEDUCED, log 125] -/
def State.resetDie (s : State) (d : Fin 4) : State :=
  let s1 := forFin 8 (fun g t => if dieOf g == d then t.resetPins g else t) s
  if (s.gongInst 0x02 d.val).active then s1.report 0x02 d.val true s.nowSI 0 0 else s1

/-- The effect of a target for a source instance. [DEDUCED, log 125] -/
def State.resetTarget (s : State) (target inst : Nat) : State :=
  if target = 1 then s.resetCapture
  else if target = 2 then s.resetDie (fin 4 inst)
  else if target = 3 then State.devEvents s s.ringDrop
  else if target = 4 then s.linkReset
  else s

/-- SUBSYS_RESET: the oldest reset whose time has come is complete, and is recorded (R387). -/
def execSubsysReset (s : State) : Out :=
  match s.gong.resets.find? (fun r => r.2.2 ≤ s.tick) with
  | none => .next s
  | some r => .next (((s.modGong (fun g => { g with resets := g.resets.erase r })).resetTarget r.1 r.2.1).report 0x0B r.1 false s.nowSI 0 0)

/-! ### HEALTH_READ (R456) -/

/-- Free value `i` of a read that draws several. -/
def State.freeAt (s : State) (i : Nat) : Nat := Config.freeNat (s.free + i)

/-- The sensor with the highest reading: the first of them. -/
def Power.hottest (p : Power) : Fin 16 :=
  (List.finRange 16).foldl (fun b i => if p.sensors[b].temp < p.sensors[i].temp then i else b) 0

/-- VIN in mV: as last reported, else not known. [DESIGN CHOICE, log 126] -/
def State.vinMv (s : State) : Nat := match (s.power.rails[(0 : Fin 11)]).mv with | some v => enc 16 v | none => cut 16 (s.freeAt 0)

/-- RESET_CAUSE and BOOT_FAIL. -/
def Power.causeByte (p : Power) : Nat := p.cause % 16 * 16 + p.bootFail % 16

/-- The device block (R456). [DESIGN CHOICE, log 126] -/
def State.healthBlock (s : State) : List Byte :=
  let p := s.power
  let m := p.hottest
  words [p.causeByte * 2 ^ 24 + p.stepDone * 2 ^ 20 + b2n s.sec.runB * 2 ^ 16 + p.hbmTries % 4, p.resets, p.readyMs, s.vinMv * 65536 + cut 16 (s.freeAt 1), cut 32 (s.freeAt 2), enc 16 p.sensors[m].temp * 65536 + m.val, 0, 0]

/-- A sensor entry. -/
def Sensor.bytes (x : Sensor) : List Byte := words [enc 16 x.temp * 65536 + b2n x.crit * 2 + b2n x.high]

/-- A rail entry; the current is not known, nor a voltage that no event has given. [DESIGN CHOICE, log 126] -/
def State.railBytes (s : State) (i : Fin 11) : List Byte :=
  let x := s.power.rails[i]
  let mv := if i = 0 then s.vinMv else match x.mv with | some v => enc 16 v | none => cut 16 (s.freeAt (2 + i.val))
  words [mv * 65536 + i.val * 16 + b2n x.out * 2 + b2n (if i = 0 then s.power.vin else x.enabled), cut 32 (s.freeAt (13 + i.val))]

/-- HEALTH_READ after intake. -/
def healthBody (h : Hdr) (p : Pkt) (s : State) : State :=
  s.unlessFail h (lenFail p 0) (fun s =>
    let pay := s.healthBlock ++ s.power.sensors.toList.flatMap Sensor.bytes ++ (List.finRange 11).flatMap s.railBytes
    { s with free := s.free + 24 }.reply h 0 0 0 pay)
/-- HEALTH_READ is taken. -/
def takeHealthRead (c : Fin 8) (p : Pkt) (s : State) : State := s.deliver c 0xE01 p noFail noFail healthBody
/-- HEALTH_READ. -/
def execHealthRead (c : Fin 8) (p : Pkt) (s : State) : Out := hostCmd s c 0xE01 p (takeHealthRead c)

/-! ### SMBus sideband (R457) -/

/-- What a code of the sideband returns; none for a code that is not there. [PRESUMED, log 127] -/
def State.smbData (s : State) (code : Nat) : Option (List Byte) :=
  let p := s.power
  if code = 0x00 then some (le 4 (if p.stepDone < 3 then 0 else devId))
  else if code = 0x01 then some (le 1 (b2n p.ready * 128 + b2n s.gong.fault * 64 + b2n s.gong.fatal * 32 + b2n (!s.tickRuns) * 16 + p.stepDone))
  else if code = 0x02 then some (le 1 p.causeByte)
  else if code = 0x10 then some (le 2 (enc 16 p.sensors[p.hottest].temp))
  else if code = 0x11 then some (p.sensors.toList.flatMap (fun x => le 2 (enc 16 x.temp)))
  else if code = 0x20 then some (le 2 s.vinMv)
  else if code = 0x21 then some (le 2 (cut 16 (s.freeAt 1)))
  else if code = 0x22 then some (le 2 (cut 32 (s.freeAt 2) / 10))
  else if code = 0x30 then some s.healthBlock
  else none

/-- SMBUS_READ: a read transaction, served from the standby regulator (R441, R457). [PRESUMED, log 127] -/
def execSmbusRead (code : Byte) (s : State) : Out :=
  .next (match if s.power.vin then s.smbData code.toNat else none with
    | some bs => { s with free := s.free + 3 }.modPower (fun p => { p with smbOut := bs, smbNack := false })
    | none => s.modPower (fun p => { p with smbOut := [], smbNack := true }))

/-- SMBUS_WRITE: a write transaction is answered with NACK on its data byte (R457). -/
def execSmbusWrite (_code _data : Byte) (s : State) : Out :=
  .next (s.modPower (fun p => { p with smbOut := [], smbNack := true }))

end Sys2Proof.Machine
end

