-- ==== Sys2Proof/Machine/Mailbox.lean ====
section
/-! DEFINITION. The front registers and the mailboxes: taking the packets that wait, writes of the front registers, and the
posting of responses (R27 to R52, R487). -/

namespace Sys2Proof.Machine

open Sys2Proof

/-! ### Intake of waiting packets (R32, R38, R39, R48) -/

/-- A packet of an opcode is taken: the same meaning as the command of that opcode has. -/
def takePkt (c : Fin 8) (op : Nat) (p : Pkt) : State → State :=
  match op with
  | 0x001 => takeCtxOpen c p
  | 0x002 => takeCtxClose c p
  | 0x003 => takeCommit c p
  | 0x004 => takeDiscard c p
  | 0x005 => takeFence c p
  | 0x006 => takeEcho c p
  | 0x007 => takeDeviceInfo c p
  | 0x101 => takeRingSetup c p
  | 0x102 => takeRingTrain c p
  | 0x103 => takeRingStatus c p
  | 0x201 => takePartition c p
  | 0x202 => takePageFill c p
  | 0x203 => takePageEvict c p
  | 0x204 => takeStoreWrite c p
  | 0x205 => takeStoreRead c p
  | 0x301 => takeGroupAssign c p
  | 0x302 => takeSeqConfig c p
  | 0x303 => takeBurstStart c p
  | 0x304 => takeBurstStop c p
  | 0x305 => takeSeqStatus c p
  | 0x401 => takeTsetWrite c p
  | 0x402 => takePeriodSet c p
  | 0x403 => takeDeskewWrite c p
  | 0x404 => takeAlarm c p
  | 0x501 => takeFormatSet c p
  | 0x502 => takeReflexSet c p
  | 0x503 => takeLoadSet c p
  | 0x504 => takeLevelsSet c p
  | 0x505 => takeGuardSet c p
  | 0x506 => takePpmuSet c p
  | 0x507 => takePpmuMeasure c p
  | 0x508 => takeLevelMeasure c p
  | 0x509 => takeCompCheck c p
  | 0x601 => takeMaskSet c p
  | 0x602 => takeFailRead c p
  | 0x603 => takeFailmapRead c p
  | 0x604 => takeFaillogDrain c p
  | 0x701 => takeCapConfig c p
  | 0x702 => takeCapArm c p
  | 0x703 => takeCapDisarm c p
  | 0x801 => takeTmuConfig c p
  | 0x802 => takeTmuArm c p
  | 0x803 => takeTmuResult c p
  | 0x901 => takeTapRoute c p
  | 0x902 => takeTapStatus c p
  | 0xA01 => takeScratch c p
  | 0xA02 => takeDiag c p
  | 0xA03 => takeBrushStatus c p
  | 0xB01 => takeTuneRun c p
  | 0xB02 => takeTuneStatus c p
  | 0xB03 => takeCalStore c p
  | 0xB04 => takeFixtureDelay c p
  | 0xC01 => takeGongConfig c p
  | 0xC02 => takeGongRead c p
  | 0xD01 => takeOfficer c p
  | 0xD02 => takeAttest c p
  | 0xD03 => takeSeal c p
  | 0xD04 => takeZeroize c p
  | 0xD05 => takeFwUpdate c p
  | 0xD06 => takeDebugUnlock c p
  | 0xE01 => takeHealthRead c p
  | op => fun s => s.deliver c op p noFail noFail (fun _ _ t => t)

/-- Bytes of a mailbox window, modulo its size (R32). [DESIGN CHOICE, log 8] -/
def Ctx.readWindow (x : Ctx) (off n : Nat) : List Byte :=
  let off := off % 2 ^ 20
  let k := min n (2 ^ 20 - off)
  x.window.read off k ++ x.window.read 0 (n - k)

/-- The header bytes at MB_CONS. -/
def Ctx.frontHead (x : Ctx) : List Byte := x.readWindow (32 * x.cons) 32
/-- The payload bytes behind them. -/
def Ctx.frontPay (x : Ctx) (len : Nat) : List Byte := x.readWindow (32 * x.cons + 32) (8 * len)

/-- The batch from the front packet on is discarded (R39, R48). -/
def State.discardBatch (s : State) (c : Fin 8) (hd : List Byte) (f : Fail) : State :=
  let x := s.ctxs[c]
  let s1 := s.modCtx c (fun x => { x with cons := x.prod })
  if x.isOpen then s1.rejectIntake c (headOp hd) (parsePkt hd []) f x.pending else s1.modCtx c (fun y => y.noteErr f)

/-- The front packet is taken, or its batch discarded. [DEDUCED, log 7] [DESIGN CHOICE, log 137] -/
def State.takeFront (s : State) (c : Fin 8) : State :=
  let x := s.ctxs[c]
  let hd := x.frontHead
  let len := headLen hd
  let u := pktUnits len
  if x.pending < u then s.discardBatch c hd (0x030, 0x0001)
  else
    let pay := x.frontPay len
    if !crcOk hd pay then s.discardBatch c hd (0x031, 0)
    else takePkt c (headOp hd) (parsePkt hd pay) (s.modCtx c (fun y => y.advance u))

/-- At most `n` packets are taken, in window order, while the device takes packets of the context. [DEDUCED, log 7] -/
def State.drain (c : Fin 8) : Nat → State → State
  | 0, s => s
  | n + 1, s => if s.takes c && decide (0 < s.ctxs[c].pending) then (s.takeFront c).drain c n else s

/-- Every waiting packet that the device can take now is taken. -/
def State.intake (s : State) (c : Fin 8) : State := s.drain c s.ctxs[c].pending

/-! ### Front registers (R29 to R31, R34, R487) -/

/-- A DOORBELL value is accepted (R34). -/
def Ctx.doorbellOk (x : Ctx) (v : Nat) : Bool :=
  v / 2 ^ 15 == 0 && decide ((v + 32768 - x.prod) % 32768 ≤ 32767 - x.pending)

/-- DOORBELL_WRITE: the host writes bytes into the mailbox window, then DOORBELL (R32, R34). [DEDUCED, log 7] [DEDUCED, log 128] -/
def execDoorbellWrite (c : Fin 8) (off : Nat) (bytes : List Byte) (v : Word) (s : State) : Out :=
  .next (if !s.link.linkUp then s
    else
      let s1 := s.modCtx c (fun x =>
        let y := x.writeWindow off bytes
        if y.doorbellOk v.toNat then { y with prod := v.toNat } else y.noteErr (0x030, 0x000B))
      s1.intake c)

/-- A RING_CONSk value is accepted (R487). -/
def Ring.consOk (r : Ring) (v : Nat) : Bool :=
  let n := r.size / 32
  r.isOpen && v / 2 ^ 21 == 0 && decide (v < n) && decide ((v + n - r.cons) % n ≤ r.used)

/-- RING_CONS_WRITE: space of a ring is released, and intake may go on (R42, R487). -/
def execRingConsWrite (c : Fin 8) (k : Fin 4) (v : Word) (s : State) : Out :=
  .next (if !s.link.linkUp then s
    else if (s.ctxs[c].rings[k]).consOk v.toNat then (s.modRing c k (fun r => { r with cons := v.toNat })).intake c
    else s.modCtx c (fun x => x.noteErr (0x030, 0x000D)))

/-- TIME0_READ: the Metronome is latched in a host-island cycle (R31). -/
def execTime0Read (s : State) : Out :=
  .next (if s.link.linkUp then
    let t := s.nowGHz
    s.modLink (fun l => { l with timeLatch := t.val, readData := cut 32 t.val, readPoison := false })
  else s)

/-- XB_BUSY_CLEAR: writing one to COLLIDED clears it (R30). -/
def execXbBusyClear (v : Word) (s : State) : Out :=
  .next (if s.link.linkUp && v.getLsbD 0 then s.modLink (fun l => { l with xbCollided := false }) else s)

/-- BAR0_WRITE_OTHER: a write with no behaviour of its own completes without effect (R29). -/
def execBar0WriteOther (_off _size : Nat) (_v : Word) (s : State) : Out := .next s

/-- A message that waits for its vector is sent once the vector is no longer masked (R27). [PRESUMED, log 28] -/
def State.msixUnmask (s : State) (vec : Fin 64) : State :=
  if s.link.pba.testBit vec.val && !((s.link.msix[vec])[3]).getLsbD 0 then
    (s.modLink (fun l => { l with pba := l.pba - 2 ^ vec.val })).msix vec
  else s

/-- MSIX_TABLE_WRITE: a word of the MSI-X table is written (R27). [PRESUMED, log 28] [DEDUCED, log 128] -/
def execMsixTableWrite (vec : Fin 64) (k : Fin 4) (v : Word) (s : State) : Out :=
  .next (if s.link.linkUp then
    (s.modLink (fun l => { l with msix := vmod l.msix vec (fun e => vmod e k (fun _ => v)) })).msixUnmask vec
  else s)

/-! ### Posting (R41 to R43, R50, R52) -/

/-- An entry as it is posted: a sealed one whose session has ended goes out plain, as AUTH_FAILED (R431, R437). [DEDUCED, log 119] -/
def Entry.asPosted (e : Entry) (x : SealSt) : Entry :=
  if !e.wrap then e
  else if !x.isOpen || x.session != e.hdr.sess then { e with wrap := false, status := 0x090, sub := 0xD026, detail := 0, payload := [] }
  else if 2 ^ 40 < x.nextD2h then { e with wrap := false, status := 0x090, sub := 0xD02A, detail := 0, payload := [] }
  else e

/-- The session after an entry was posted: its counter moves on, or it is spent (R431). [DEDUCED, log 119] -/
def SealSt.posted (x : SealSt) (e : Entry) : SealSt :=
  if !e.wrap || !x.isOpen || x.session != e.hdr.sess then x
  else if 2 ^ 40 < x.nextD2h then x.ended else { x with nextD2h := x.nextD2h + 1 }

/-- A ring after an entry of `u` units was posted. -/
def Ring.posted (r : Ring) (u tick : Nat) : Ring :=
  { r with prod := (r.prod + u) % (r.size / 32), seq := nextSeq r.seq, queue := r.queue.drop 1, unsignaled := r.unsignaled + 1, firstUnsig := if r.unsignaled = 0 then tick else r.firstUnsig }

/-- The ring signals once COUNT entries were posted (R43). -/
def State.countSignal (s : State) (c : Fin 8) (k : Fin 4) : State :=
  let r := s.ctxs[c].rings[k]
  if max 1 r.count ≤ r.unsignaled then (s.modRing c k (fun r => { r with unsignaled := 0 })).signalRing r.vec else s

/-- A context closed by its close response; a timer of its rings runs on (R50). [DEDUCED, log 23] -/
def Ctx.closed (x : Ctx) : Ctx :=
  { x with isOpen := false, closing := false, expert := false, officer := false, allowCycle := false, rings := vmap x.rings (fun _ r => { vec := r.vec, time := r.time, unsignaled := r.unsignaled, firstUnsig := r.firstUnsig }) }

/-- What follows the posting of an entry. -/
def State.afterPost (s : State) (c : Fin 8) (e : Entry) : State :=
  let s1 := if e.status = 0x002 then s.modCtx c (fun x => { x with delayed := sat 32 (x.delayed + 1) }) else s
  let s2 := match e.flogFree with | none => s1 | some (q, n) => s1.modFlog q (fun f => { f with held := f.held - n })
  let s3 := match e.ends with | none => s2 | some q => s2.seqIdle q
  let s4 := if e.closes then s3.modCtx c Ctx.closed else s3
  if e.finishes then (s4.leave c e.hdr.tag).settle c else s4.settle c

/-- An entry is written to its ring, word 6 last, and then RING_PROD advances (R41). [DESIGN CHOICE, log 30] -/
def State.post (s : State) (c : Fin 8) (k : Fin 4) (e : Entry) : State :=
  let x := s.ctxs[c].session
  let r := s.ctxs[c].rings[k]
  let p := e.asPosted x
  let bs := p.bytes x r.seq
  let s1 := s.busOut (entryWrites r.base r.size (32 * r.prod) bs)
  let s2 := (s1.modRing c k (fun y => y.posted (bs.length / 32) s.tick)).modCtx c (fun y => { y with session := y.session.posted e })
  ((s2.countSignal c k).afterPost c p).intake c

/-- RESPONSE_POST: the oldest entry of a ring is posted once it fits (R41, R42), unless the supervisor has
stopped responding (R26). [DESIGN CHOICE, log 30] -/
def execResponsePost (c : Fin 8) (k : Fin 4) (s : State) : Out :=
  let r := s.ctxs[c].rings[k]
  .next (match r.queue with
    | [] => s
    | e :: _ => if s.link.linkUp && !s.supDead && r.isOpen && r.fits e.units then s.post c k e else s)

/-- MSIX_TIMER_EXPIRE: TIME µs after its first entry not signaled, a ring signals (R43). [DEDUCED, log 23] -/
def execMsixTimerExpire (c : Fin 8) (k : Fin 4) (s : State) : Out :=
  let r := s.ctxs[c].rings[k]
  .next (if r.unsignaled ≠ 0 ∧ r.time ≠ 0 ∧ r.firstUnsig + usT r.time ≤ s.tick then (s.modRing c k (fun r => { r with unsignaled := 0 })).signalRing r.vec else s)

end Sys2Proof.Machine
end

