-- ==== Sys2Proof/Machine/Dispatch.lean ====
section
/-! DEFINITION. The meaning of every command: one arm for each row of the command table. -/

namespace Sys2Proof.Machine

open Sys2Proof

/-- The effect of a command on everything but the queue. -/
def exec (i : Instr) (s : State) : Host.Outcome State Fault Refusal :=
  match i with
  | .ctxOpen c p => Sys2Proof.Machine.execCtxOpen c p s
  | .ctxClose c p => Sys2Proof.Machine.execCtxClose c p s
  | .ctxCloseForce c p => Sys2Proof.Machine.execCtxCloseForce c p s
  | .commit c p => Sys2Proof.Machine.execCommit c p s
  | .commitAt c p => Sys2Proof.Machine.execCommitAt c p s
  | .commitStrobeRelease c => Sys2Proof.Machine.execCommitStrobeRelease c s
  | .commitApplyAtVector q => Sys2Proof.Machine.execCommitApplyAtVector q s
  | .discard c p => Sys2Proof.Machine.execDiscard c p s
  | .fence c p => Sys2Proof.Machine.execFence c p s
  | .echo c p => Sys2Proof.Machine.execEcho c p s
  | .deviceInfo c p => Sys2Proof.Machine.execDeviceInfo c p s
  | .doorbellWrite c off bytes v => Sys2Proof.Machine.execDoorbellWrite c off bytes v s
  | .ringConsWrite c k v => Sys2Proof.Machine.execRingConsWrite c k v s
  | .time0Read => Sys2Proof.Machine.execTime0Read s
  | .xbBusyClear v => Sys2Proof.Machine.execXbBusyClear v s
  | .bar0WriteOther off size v => Sys2Proof.Machine.execBar0WriteOther off size v s
  | .responsePost c k => Sys2Proof.Machine.execResponsePost c k s
  | .msixTimerExpire c k => Sys2Proof.Machine.execMsixTimerExpire c k s
  | .pcieLinkDown => Sys2Proof.Machine.execPcieLinkDown s
  | .ringSetup c p => Sys2Proof.Machine.execRingSetup c p s
  | .ringTrain c p => Sys2Proof.Machine.execRingTrain c p s
  | .ringStatus c p => Sys2Proof.Machine.execRingStatus c p s
  | .storePartition c p => Sys2Proof.Machine.execStorePartition c p s
  | .pageFill c p => Sys2Proof.Machine.execPageFill c p s
  | .pageEvict c p => Sys2Proof.Machine.execPageEvict c p s
  | .pageEvictAll c p => Sys2Proof.Machine.execPageEvictAll c p s
  | .storeWrite c p => Sys2Proof.Machine.execStoreWrite c p s
  | .storeClearWritten c p => Sys2Proof.Machine.execStoreClearWritten c p s
  | .storeRead c p => Sys2Proof.Machine.execStoreRead c p s
  | .pageDemand q => Sys2Proof.Machine.execPageDemand q s
  | .groupAssign c p => Sys2Proof.Machine.execGroupAssign c p s
  | .groupRelease c p => Sys2Proof.Machine.execGroupRelease c p s
  | .seqConfig c p => Sys2Proof.Machine.execSeqConfig c p s
  | .burstStart c p => Sys2Proof.Machine.execBurstStart c p s
  | .burstVector0 q => Sys2Proof.Machine.execBurstVector0 q s
  | .burstFinal q => Sys2Proof.Machine.execBurstFinal q s
  | .burstStop c p => Sys2Proof.Machine.execBurstStop c p s
  | .burstStopAtRestart c p => Sys2Proof.Machine.execBurstStopAtRestart c p s
  | .stopRequestArrive q => Sys2Proof.Machine.execStopRequestArrive q s
  | .seqStatus c p => Sys2Proof.Machine.execSeqStatus c p s
  | .nop q => Sys2Proof.Machine.execNop q s
  | .rpt q => Sys2Proof.Machine.execRpt q s
  | .lpb q => Sys2Proof.Machine.execLpb q s
  | .lpe q => Sys2Proof.Machine.execLpe q s
  | .call q => Sys2Proof.Machine.execCall q s
  | .ret q => Sys2Proof.Machine.execRet q s
  | .jmp q => Sys2Proof.Machine.execJmp q s
  | .jmpf q => Sys2Proof.Machine.execJmpf q s
  | .jmpg q => Sys2Proof.Machine.execJmpg q s
  | .matchRep q => Sys2Proof.Machine.execMatch q s
  | .tapw q => Sys2Proof.Machine.execTapw q s
  | .tapr q => Sys2Proof.Machine.execTapr q s
  | .tset q => Sys2Proof.Machine.execTset q s
  | .mark q => Sys2Proof.Machine.execMark q s
  | .clrf q => Sys2Proof.Machine.execClrf q s
  | .sync q => Sys2Proof.Machine.execSync q s
  | .halt q => Sys2Proof.Machine.execHalt q s
  | .tsetWrite c p => Sys2Proof.Machine.execTsetWrite c p s
  | .periodSet c p => Sys2Proof.Machine.execPeriodSet c p s
  | .deskewWrite c p => Sys2Proof.Machine.execDeskewWrite c p s
  | .alarmSet c p => Sys2Proof.Machine.execAlarmSet c p s
  | .alarmQuery c p => Sys2Proof.Machine.execAlarmQuery c p s
  | .alarmRelease c p => Sys2Proof.Machine.execAlarmRelease c p s
  | .alarmFire n => Sys2Proof.Machine.execAlarmFire n s
  | .driveEvent p => Sys2Proof.Machine.execDriveEvent p s
  | .formatSet c p => Sys2Proof.Machine.execFormatSet c p s
  | .reflexSet c p => Sys2Proof.Machine.execReflexSet c p s
  | .reflexQuery c p => Sys2Proof.Machine.execReflexQuery c p s
  | .comparatorCrossing p voh rising t => Sys2Proof.Machine.execComparatorCrossing p voh rising t s
  | .armWindowClose p => Sys2Proof.Machine.execArmWindowClose p s
  | .loadSet c p => Sys2Proof.Machine.execLoadSet c p s
  | .levelsSet c p => Sys2Proof.Machine.execLevelsSet c p s
  | .comparatorValid p voh above => Sys2Proof.Machine.execComparatorValid p voh above s
  | .guardSet c p => Sys2Proof.Machine.execGuardSet c p s
  | .guardQuery c p => Sys2Proof.Machine.execGuardQuery c p s
  | .guardClear c p => Sys2Proof.Machine.execGuardClear c p s
  | .guardTrip p g => Sys2Proof.Machine.execGuardTrip p g s
  | .ppmuSet c p => Sys2Proof.Machine.execPpmuSet c p s
  | .ppmuSettled p => Sys2Proof.Machine.execPpmuSettled p s
  | .ppmuMeasure c p => Sys2Proof.Machine.execPpmuMeasure c p s
  | .ppmuMeasureDone g samples => Sys2Proof.Machine.execPpmuMeasureDone g samples s
  | .levelMeasureRamp c p => Sys2Proof.Machine.execLevelMeasureRamp c p s
  | .levelMeasureSlope c p => Sys2Proof.Machine.execLevelMeasureSlope c p s
  | .levelMeasureDone g ramps => Sys2Proof.Machine.execLevelMeasureDone g ramps s
  | .compCheckStatus c p => Sys2Proof.Machine.execCompCheckStatus c p s
  | .compCheckSwap c p => Sys2Proof.Machine.execCompCheckSwap c p s
  | .compCheckTie c p => Sys2Proof.Machine.execCompCheckTie c p s
  | .compCheckDone g errs => Sys2Proof.Machine.execCompCheckDone g errs s
  | .strobe p => Sys2Proof.Machine.execStrobe p s
  | .failFlagSet q => Sys2Proof.Machine.execFailFlagSet q s
  | .resultToCapture q => Sys2Proof.Machine.execResultToCapture q s
  | .maskSetPinMask c p => Sys2Proof.Machine.execMaskSetPinMask c p s
  | .maskSetRanges c p => Sys2Proof.Machine.execMaskSetRanges c p s
  | .maskSetFailproc c p => Sys2Proof.Machine.execMaskSetFailproc c p s
  | .failRead c p => Sys2Proof.Machine.execFailRead c p s
  | .failmapRead c p => Sys2Proof.Machine.execFailmapRead c p s
  | .failmapStatus c p => Sys2Proof.Machine.execFailmapStatus c p s
  | .faillogDrain c p => Sys2Proof.Machine.execFaillogDrain c p s
  | .capConfig c p => Sys2Proof.Machine.execCapConfig c p s
  | .capArm c p => Sys2Proof.Machine.execCapArm c p s
  | .capArmed e => Sys2Proof.Machine.execCapArmed e s
  | .capDisarm c p => Sys2Proof.Machine.execCapDisarm c p s
  | .capQuery c p => Sys2Proof.Machine.execCapQuery c p s
  | .triggerEval e => Sys2Proof.Machine.execTriggerEval e s
  | .autoTrigger e => Sys2Proof.Machine.execAutoTrigger e s
  | .captureEnd e => Sys2Proof.Machine.execCaptureEnd e s
  | .rearmDone e => Sys2Proof.Machine.execRearmDone e s
  | .singleDrained e => Sys2Proof.Machine.execSingleDrained e s
  | .ladderEval e => Sys2Proof.Machine.execLadderEval e s
  | .tmuConfig c p => Sys2Proof.Machine.execTmuConfig c p s
  | .tmuArm c p => Sys2Proof.Machine.execTmuArm c p s
  | .tmuDisarm c p => Sys2Proof.Machine.execTmuDisarm c p s
  | .tmuRelease c p => Sys2Proof.Machine.execTmuRelease c p s
  | .tmuSettingDone u c1s c2s c1p c2p => Sys2Proof.Machine.execTmuSettingDone u c1s c2s c1p c2p s
  | .tmuWindowOpen u t => Sys2Proof.Machine.execTmuWindowOpen u t s
  | .tmuWindowClose u t => Sys2Proof.Machine.execTmuWindowClose u t s
  | .tmuEndpointEvent u code => Sys2Proof.Machine.execTmuEndpointEvent u code s
  | .tmuRangeExpire u => Sys2Proof.Machine.execTmuRangeExpire u s
  | .tmuLatch u => Sys2Proof.Machine.execTmuLatch u s
  | .tmuResult c p => Sys2Proof.Machine.execTmuResult c p s
  | .tapRoute c p => Sys2Proof.Machine.execTapRoute c p s
  | .tapRelease c p => Sys2Proof.Machine.execTapRelease c p s
  | .tapStatus c p => Sys2Proof.Machine.execTapStatus c p s
  | .tapRaise => Sys2Proof.Machine.execTapRaise s
  | .tapHubRoute ch => Sys2Proof.Machine.execTapHubRoute ch s
  | .tapActivation inp => Sys2Proof.Machine.execTapActivation inp s
  | .consumerBusyEnd inp => Sys2Proof.Machine.execConsumerBusyEnd inp s
  | .eventPinEdge pin level => Sys2Proof.Machine.execEventPinEdge pin level s
  | .tapIoPulseEnd n => Sys2Proof.Machine.execTapIoPulseEnd n s
  | .tapIoReturnInput n => Sys2Proof.Machine.execTapIoReturnInput n s
  | .scratchRead c p => Sys2Proof.Machine.execScratchRead c p s
  | .scratchWrite c p => Sys2Proof.Machine.execScratchWrite c p s
  | .scratchSet c p => Sys2Proof.Machine.execScratchSet c p s
  | .scratchClr c p => Sys2Proof.Machine.execScratchClr c p s
  | .xbHostRead off be => Sys2Proof.Machine.execXbHostRead off be s
  | .xbHostWrite off be v => Sys2Proof.Machine.execXbHostWrite off be v s
  | .xbSetAliasWrite off be v => Sys2Proof.Machine.execXbSetAliasWrite off be v s
  | .xbClrAliasWrite off be v => Sys2Proof.Machine.execXbClrAliasWrite off be v s
  | .xpRead w pt2 => Sys2Proof.Machine.execXpRead w pt2 s
  | .xpWrite w v pt2 => Sys2Proof.Machine.execXpWrite w v pt2 s
  | .eccDiagReadRaw c p => Sys2Proof.Machine.execEccDiagReadRaw c p s
  | .eccDiagWriteRaw c p => Sys2Proof.Machine.execEccDiagWriteRaw c p s
  | .eccDiagFlip c p => Sys2Proof.Machine.execEccDiagFlip c p s
  | .brushStatus c p => Sys2Proof.Machine.execBrushStatus c p s
  | .brushScrub m errs => Sys2Proof.Machine.execBrushScrub m errs s
  | .brushStall m => Sys2Proof.Machine.execBrushStall m s
  | .seqSlotFetch q alt addr errs => Sys2Proof.Machine.execSeqSlotFetch q alt addr errs s
  | .capSlotWrite e => Sys2Proof.Machine.execCapSlotWrite e s
  | .flogSlotDrain => Sys2Proof.Machine.execFlogSlotDrain s
  | .hostinSlot => Sys2Proof.Machine.execHostinSlot s
  | .hostoutSlot => Sys2Proof.Machine.execHostoutSlot s
  | .maintSlot => Sys2Proof.Machine.execMaintSlot s
  | .supSlot => Sys2Proof.Machine.execSupSlot s
  | .idleSlot errs => Sys2Proof.Machine.execIdleSlot errs s
  | .tuneRunFull c p => Sys2Proof.Machine.execTuneRunFull c p s
  | .tuneFullDieDone res => Sys2Proof.Machine.execTuneFullDieDone res s
  | .tuneRunReflect c p => Sys2Proof.Machine.execTuneRunReflect c p s
  | .reflectDone g trips => Sys2Proof.Machine.execReflectDone g trips s
  | .tuneRunLive c p => Sys2Proof.Machine.execTuneRunLive c p s
  | .tuneStatus c p => Sys2Proof.Machine.execTuneStatus c p s
  | .calStore c p => Sys2Proof.Machine.execCalStore c p s
  | .calStoreDone readBackOk => Sys2Proof.Machine.execCalStoreDone readBackOk s
  | .fixtureDelay c p => Sys2Proof.Machine.execFixtureDelay c p s
  | .gapCalibration p cell meas gain => Sys2Proof.Machine.execGapCalibration p cell meas gain s
  | .edgeCellStarved p cell => Sys2Proof.Machine.execEdgeCellStarved p cell s
  | .takeoverCycle g => Sys2Proof.Machine.execTakeoverCycle g s
  | .takeoverPrepareDone g residual handoff => Sys2Proof.Machine.execTakeoverPrepareDone g residual handoff s
  | .handoff g => Sys2Proof.Machine.execHandoff g s
  | .takeoverDefer g handoff => Sys2Proof.Machine.execTakeoverDefer g handoff s
  | .carryDone g res handoff => Sys2Proof.Machine.execCarryDone g res handoff s
  | .handbackAfterBurst g => Sys2Proof.Machine.execHandbackAfterBurst g s
  | .gongConfigSource c p => Sys2Proof.Machine.execGongConfigSource c p s
  | .gongConfigQuiet c p => Sys2Proof.Machine.execGongConfigQuiet c p s
  | .gongConfigNotice c p => Sys2Proof.Machine.execGongConfigNotice c p s
  | .gongReadLog c p => Sys2Proof.Machine.execGongReadLog c p s
  | .gongReadCounters c p => Sys2Proof.Machine.execGongReadCounters c p s
  | .gongReport ext => Sys2Proof.Machine.execGongReport ext s
  | .subsysReset => Sys2Proof.Machine.execSubsysReset s
  | .quietExpire => Sys2Proof.Machine.execQuietExpire s
  | .holdExpire src inst => Sys2Proof.Machine.execHoldExpire src inst s
  | .tickToggle => Sys2Proof.Machine.execTickToggle s
  | .heartbeat core => Sys2Proof.Machine.execHeartbeat core s
  | .supHang core => Sys2Proof.Machine.execSupHang core s
  | .clockLockLoss die => Sys2Proof.Machine.execClockLockLoss die s
  | .refclkLoss => Sys2Proof.Machine.execRefclkLoss s
  | .enumeration count own => Sys2Proof.Machine.execEnumeration count own s
  | .loopMeasured raw passes => Sys2Proof.Machine.execLoopMeasured raw passes s
  | .countLoad masterFine dk => Sys2Proof.Machine.execCountLoad masterFine dk s
  | .trainingEnd => Sys2Proof.Machine.execTrainingEnd s
  | .trainTimeout => Sys2Proof.Machine.execTrainTimeout s
  | .decisionWord w valid => Sys2Proof.Machine.execDecisionWord w valid s
  | .gtSlot pos slot valid => Sys2Proof.Machine.execGtSlot pos slot valid s
  | .controlBlock cb => Sys2Proof.Machine.execControlBlock cb s
  | .downbeat tick carried measured => Sys2Proof.Machine.execDownbeat tick carried measured s
  | .alignStep => Sys2Proof.Machine.execAlignStep s
  | .downbeatMissed => Sys2Proof.Machine.execDownbeatMissed s
  | .ringErrorBlock lane => Sys2Proof.Machine.execRingErrorBlock lane s
  | .ringLoss cause => Sys2Proof.Machine.execRingLoss cause s
  | .officerAuthChallenge c p => Sys2Proof.Machine.execOfficerAuthChallenge c p s
  | .officerAuthProve c p => Sys2Proof.Machine.execOfficerAuthProve c p s
  | .officerAuthPolicy c p => Sys2Proof.Machine.execOfficerAuthPolicy c p s
  | .officerAuthRelinquish c p => Sys2Proof.Machine.execOfficerAuthRelinquish c p s
  | .challengeExpire c => Sys2Proof.Machine.execChallengeExpire c s
  | .lockoutExpire => Sys2Proof.Machine.execLockoutExpire s
  | .attestReport c p => Sys2Proof.Machine.execAttestReport c p s
  | .attestCert c p => Sys2Proof.Machine.execAttestCert c p s
  | .sealOpenOffer c p => Sys2Proof.Machine.execSealOpenOffer c p s
  | .sealOpenAccept c p => Sys2Proof.Machine.execSealOpenAccept c p s
  | .sealOpenClose c p => Sys2Proof.Machine.execSealOpenClose c p s
  | .offerExpire c => Sys2Proof.Machine.execOfferExpire c s
  | .zeroize c p => Sys2Proof.Machine.execZeroize c p s
  | .zeroizeNAssert => Sys2Proof.Machine.execZeroizeNAssert s
  | .zeroizeDone => Sys2Proof.Machine.execZeroizeDone s
  | .fwUpdateWrite c p => Sys2Proof.Machine.execFwUpdateWrite c p s
  | .fwUpdateVerify c p => Sys2Proof.Machine.execFwUpdateVerify c p s
  | .fwUpdateAdvance c p => Sys2Proof.Machine.execFwUpdateAdvance c p s
  | .fwUpdateRevoke c p => Sys2Proof.Machine.execFwUpdateRevoke c p s
  | .debugUnlock c p => Sys2Proof.Machine.execDebugUnlock c p s
  | .healthRead c p => Sys2Proof.Machine.execHealthRead c p s
  | .powerOn masterSel => Sys2Proof.Machine.execPowerOn masterSel s
  | .startupStepDone r => Sys2Proof.Machine.execStartupStepDone r s
  | .railTimeout rail => Sys2Proof.Machine.execRailTimeout rail s
  | .refclkWaitTimeout => Sys2Proof.Machine.execRefclkWaitTimeout s
  | .brownOut => Sys2Proof.Machine.execBrownOut s
  | .overvoltage => Sys2Proof.Machine.execOvervoltage s
  | .supplyCondition rail out mv => Sys2Proof.Machine.execSupplyCondition rail out mv s
  | .resetNAssert masterSel => Sys2Proof.Machine.execResetNAssert masterSel s
  | .perstNAssert => Sys2Proof.Machine.execPerstNAssert s
  | .perstNRelease => Sys2Proof.Machine.execPerstNRelease s
  | .tempSample sensor temp => Sys2Proof.Machine.execTempSample sensor temp s
  | .thermalRestart masterSel => Sys2Proof.Machine.execThermalRestart masterSel s
  | .smbusRead code => Sys2Proof.Machine.execSmbusRead code s
  | .smbusWrite code data => Sys2Proof.Machine.execSmbusWrite code data s
  | .pcieLinkUp => Sys2Proof.Machine.execPcieLinkUp s
  | .msixTableWrite vec k v => Sys2Proof.Machine.execMsixTableWrite vec k v s
  | .fwUpdateDone => Sys2Proof.Machine.execFwUpdateDone s
  | .zeroizeNRelease => Sys2Proof.Machine.execZeroizeNRelease s
  | .overvoltageRelease masterSel => Sys2Proof.Machine.execOvervoltageRelease masterSel s
  | .refclkReturn => Sys2Proof.Machine.execRefclkReturn s
  | .ringLaneLock lane => Sys2Proof.Machine.execRingLaneLock lane s
  | .guardArmed p g => Sys2Proof.Machine.execGuardArmed p g s

end Sys2Proof.Machine
end

