-- ==== Sys2Proof/Machine/Idle.lean ====
section
/-! DEFINITION. What the block does when no command waits: the Metronome runs on by one tick (R150). -/

namespace Sys2Proof.Machine

open Sys2Proof

/-- One tick passes while the clock unit is locked (R150, R445); a SAFE that arrives takes effect (R378), and a change that
software may poll is signaled (R43). [DESIGN CHOICE, log 1] -/
def State.idle (s : State) : State :=
  if s.power.locked then State.devEvents s { s with metro := s.metro + 512 }.safeArrive else s.safeArrive

end Sys2Proof.Machine
end

