-- ==== Sys2Proof/Safety.lean ====
section
/-! DEFINITION. The terms in which claims speak of a run: when a packet is admitted, the state in which a command's own
effect begins, what it means that a command completes, and the canonical form of every memory of the block. -/

namespace Sys2Proof.Machine

open Sys2Proof

/-- The packet lies in the mailbox and the device has taken it: the state before it is counted in flight (R32, R38). -/
def State.fetched (s : State) (c : Fin 8) (op : Nat) (p : Pkt) : State :=
  (s.place c op p).modCtx c (fun x => x.advance (pktUnits p.units))

/-- The packet is in flight, in plain and with its seal counter taken: the state in which steps 12 to 15 of R38 begin. -/
def State.taken (s : State) (c : Fin 8) (op : Nat) (p : Pkt) : State := (((s.fetched c op p).enter c op p).openSeal c op p).1

/-- The packet in plain: the packet itself unless it is sealed (R430). -/
def State.plain (s : State) (c : Fin 8) (op : Nat) (p : Pkt) : Pkt := (((s.fetched c op p).enter c op p).openSeal c op p).2.1

/-- What the response to the packet will echo, and where it goes (R38, R40). -/
def State.answer (s : State) (c : Fin 8) (op : Nat) (p : Pkt) : Hdr :=
  { (p.hdr c op p.rsel) with sess := if (s.plain c op p).isS then (s.taken c op p).ctxs[c].session.session else 0 }

/-- The packet passes steps 1 to 11 and step 13 of R38: the device takes packets of the context and none waits before this
one, the packet fits, the context is open, no intake, role or seal check fails, and no fault state refuses the opcode. -/
structure State.Admits (s : State) (c : Fin 8) (op : Nat) (p : Pkt) : Prop where
  /-- The device takes packets of the context (R42, R50). -/
  takes : s.takes c = true
  /-- No packet waits before it (R33). -/
  front : s.ctxs[c].pending = 0
  /-- It fits into the mailbox (R34). -/
  fits : pktUnits p.units ≤ 32767
  /-- The context is open (R48). -/
  opened : s.ctxs[c].isOpen = true
  /-- Steps 3 to 8 of R38. -/
  intake : intakeFail s c op p = none
  /-- Steps 9 and 10 of R38. -/
  role : roleFail s c op p = none
  /-- Step 11 of R38, and the reserved bits of a sealed payload. -/
  seals : p.isS = true → (((s.fetched c op p).enter c op p).openSeal c op p).2.2 = none ∧
    payOk op (s.plain c op p) (s.plain c op p).payload = true
  /-- Step 13 of R38. -/
  health : (s.taken c op p).faultFail op (s.plain c op p) = none

/-- The command `i`, which sends packet `p` of opcode `op` from context `c`, completes: from every state that admits the
packet, and in which `pre` holds of the response header, the packet in plain and the state in which its own checks begin,
exec answers a next state of which `post` holds. -/
def Completes (i : Instr) (c : Fin 8) (op : Nat) (p : Pkt) (pre : Hdr → Pkt → State → Prop)
    (post : Hdr → Pkt → State → State → Prop) : Prop :=
  ∀ s : State, s.Admits c op p → pre (s.answer c op p) (s.plain c op p) (s.taken c op p) →
    ∃ t, exec i s = .next t ∧ post (s.answer c op p) (s.plain c op p) (s.taken c op p) t

/-- The command completes, and the next state is the one that `f` names. -/
def Answers (i : Instr) (c : Fin 8) (op : Nat) (p : Pkt) (pre : Hdr → Pkt → State → Prop) (f : Hdr → Pkt → State → State) : Prop :=
  Completes i c op p pre (fun h q a t => t = f h q a)

/-- The staging set of the sender has room for one more staged write (R66). -/
def stageRoom (h : Hdr) (q : Pkt) (a : State) : Prop :=
  a.ctxs[h.mb].stage.length < 1024 ∧ stageBytes a.ctxs[h.mb].stage + 8 * q.units ≤ 2 ^ 20

/-- No earlier store command that names the same page is open: this one starts at once (R55). -/
def storeStarts (op : Nat) (h : Hdr) (q : Pkt) (a : State) : Prop := a.storeHeld { hdr := h, op := op, pkt := q } = false

/-- A staged write joins the staging set of its sender, which is answered STAGED, or with C committed as a whole (R60, R61). -/
def State.joined (a : State) (h : Hdr) (op : Nat) (q : Pkt) (echo : List Byte) : State :=
  let b := a.modCtx h.mb (fun x => { x with stage := x.stage ++ [{ opcode := op, pkt := q }] })
  if h.isC then b.commitSet h echo none else b.reply h 1 0 0 echo

/-- The staging set of the sender passes every check of a commit, or is empty (R62, R63). -/
def commitOk (h : Hdr) (a : State) : Prop :=
  a.ctxs[h.mb].stage = [] ∨ a.commitChecks h.who a.ctxs[h.mb].stage a.planned (a.ctxs[h.mb].stage.foldl Cfg.put a.planned) = none

/-- The sender owns group ARG0 bits 10:8 of the packet (R10). -/
def groupMine (h : Hdr) (q : Pkt) (a : State) : Prop := a.grps[pktGroup q].owner = h.who

/-- The sender owns sequencer ARG0 bits 1:0 of the packet (R101). -/
def seqMine (h : Hdr) (q : Pkt) (a : State) : Prop := a.seqs[pktSeq q].owner = h.who

/-- The vector due of sequencer `q` is issued, with line `l` of opcode `op`, in the state `u` that commits and decisions have
prepared (R61, R115, R144). -/
def Issues (s : State) (q : Fin 4) (op : Nat) (l : VLine) (u : State) : Prop :=
  s.seqs[q].st = .running ∧ s.seqs[q].due ≤ s.metro ∧ (∃ unw sl, (s.prepare q).2.2 = .issue l unw sl) ∧ u.syncLate q = false ∧ l.op = op ∧ u = (s.prepare q).2.1

/-- Sequencer `y` is `x` after one issued vector: counted, its address kept as the last one, the successor at `addr` to begin at `start`. -/
def Seq.went (y x : Seq) (addr start : Nat) : Prop := y.vecs = x.vecs + 1 ∧ y.lastAddr = x.addr ∧ y.addr = addr ∧ y.nextStart = start

/-- The committed period of the vector due (R121). -/
def State.period (u : State) (q : Fin 4) : Nat := (u.cfg.seqs[q]).pf[u.seqs[q].pf]

/-- Every memory of the block is in its canonical form (log 9). -/
def State.memWf (s : State) : Prop :=
  s.store.mem.wf = true ∧ (∀ c : Fin 8, s.ctxs[c].window.wf = true) ∧ (∀ q : Fin 4, (s.fmaps[q]).mem.wf = true) ∧
    (s.sram.scratch).wf = true ∧ (s.sram.xb).wf = true ∧ (∀ q : Fin 4, (s.sram.pdTab[q]).wf = true) ∧ (s.sram.ctl).wf = true

end Sys2Proof.Machine

namespace Sys2Proof

/-- What a host command sends: its context, its opcode, and its packet with the selector of its row (R35, R71). -/
def Instr.sends : Instr → Option (Fin 8 × Nat × Pkt)
  | .ctxOpen c p => some (c, 0x001, p)
  | .ctxClose c p => some (c, 0x002, p.withA0 0 0 0)
  | .ctxCloseForce c p => some (c, 0x002, p.withA0 0 0 1)
  | .commit c p => some (c, 0x003, p.withA0 0 0 0)
  | .commitAt c p => some (c, 0x003, p.withA0 0 0 1)
  | .commitStrobeRelease _ => none
  | .commitApplyAtVector _ => none
  | .discard c p => some (c, 0x004, p)
  | .fence c p => some (c, 0x005, p)
  | .echo c p => some (c, 0x006, p)
  | .deviceInfo c p => some (c, 0x007, p)
  | .doorbellWrite _ _ _ _ => none
  | .ringConsWrite _ _ _ => none
  | .time0Read => none
  | .xbBusyClear _ => none
  | .bar0WriteOther _ _ _ => none
  | .responsePost _ _ => none
  | .msixTimerExpire _ _ => none
  | .pcieLinkDown => none
  | .ringSetup c p => some (c, 0x101, p)
  | .ringTrain c p => some (c, 0x102, p)
  | .ringStatus c p => some (c, 0x103, p)
  | .storePartition c p => some (c, 0x201, p)
  | .pageFill c p => some (c, 0x202, p)
  | .pageEvict c p => some (c, 0x203, { p with arg1 := p.arg1 &&& 0xFFFFFFFE })
  | .pageEvictAll c p => some (c, 0x203, { p with arg1 := p.arg1 ||| 1 })
  | .storeWrite c p => some (c, 0x204, { p with arg2 := p.arg2 &&& 0xFFFFFFFE })
  | .storeClearWritten c p => some (c, 0x204, { p with arg2 := p.arg2 ||| 1 })
  | .storeRead c p => some (c, 0x205, p)
  | .pageDemand _ => none
  | .groupAssign c p => some (c, 0x301, p.withA0 15 15 0)
  | .groupRelease c p => some (c, 0x301, p.withA0 15 15 1)
  | .seqConfig c p => some (c, 0x302, p)
  | .burstStart c p => some (c, 0x303, p)
  | .burstVector0 _ => none
  | .burstFinal _ => none
  | .burstStop c p => some (c, 0x304, p.withA0 8 8 0)
  | .burstStopAtRestart c p => some (c, 0x304, p.withA0 8 8 1)
  | .stopRequestArrive _ => none
  | .seqStatus c p => some (c, 0x305, p)
  | .nop _ => none
  | .rpt _ => none
  | .lpb _ => none
  | .lpe _ => none
  | .call _ => none
  | .ret _ => none
  | .jmp _ => none
  | .jmpf _ => none
  | .jmpg _ => none
  | .matchRep _ => none
  | .tapw _ => none
  | .tapr _ => none
  | .tset _ => none
  | .mark _ => none
  | .clrf _ => none
  | .sync _ => none
  | .halt _ => none
  | .tsetWrite c p => some (c, 0x401, p)
  | .periodSet c p => some (c, 0x402, p)
  | .deskewWrite c p => some (c, 0x403, p)
  | .alarmSet c p => some (c, 0x404, p.withA0 15 14 0)
  | .alarmQuery c p => some (c, 0x404, p.withA0 15 15 1)
  | .alarmRelease c p => some (c, 0x404, p.withA0 15 14 1)
  | .alarmFire _ => none
  | .driveEvent _ => none
  | .formatSet c p => some (c, 0x501, p)
  | .reflexSet c p => some (c, 0x502, p.withA0 15 15 0)
  | .reflexQuery c p => some (c, 0x502, p.withA0 15 15 1)
  | .comparatorCrossing _ _ _ _ => none
  | .armWindowClose _ => none
  | .loadSet c p => some (c, 0x503, p)
  | .levelsSet c p => some (c, 0x504, p)
  | .comparatorValid _ _ _ => none
  | .guardSet c p => some (c, 0x505, p.withA0 15 14 0)
  | .guardQuery c p => some (c, 0x505, p.withA0 15 15 1)
  | .guardClear c p => some (c, 0x505, p.withA0 14 14 1)
  | .guardTrip _ _ => none
  | .ppmuSet c p => some (c, 0x506, p)
  | .ppmuSettled _ => none
  | .ppmuMeasure c p => some (c, 0x507, p)
  | .ppmuMeasureDone _ _ => none
  | .levelMeasureRamp c p => some (c, 0x508, p.withA0 17 16 0)
  | .levelMeasureSlope c p => some (c, 0x508, p.withA0 17 16 1)
  | .levelMeasureDone _ _ => none
  | .compCheckStatus c p => some (c, 0x509, p.withA0 17 16 0)
  | .compCheckSwap c p => some (c, 0x509, p.withA0 17 16 1)
  | .compCheckTie c p => some (c, 0x509, p.withA0 17 16 2)
  | .compCheckDone _ _ => none
  | .strobe _ => none
  | .failFlagSet _ => none
  | .resultToCapture _ => none
  | .maskSetPinMask c p => some (c, 0x601, p.withA0 13 12 0)
  | .maskSetRanges c p => some (c, 0x601, p.withA0 13 12 1)
  | .maskSetFailproc c p => some (c, 0x601, p.withA0 13 12 2)
  | .failRead c p => some (c, 0x602, p)
  | .failmapRead c p => some (c, 0x603, p)
  | .failmapStatus c p => some (c, 0x603, { p with arg3 := 0 })
  | .faillogDrain c p => some (c, 0x604, p)
  | .capConfig c p => some (c, 0x701, p)
  | .capArm c p => some (c, 0x702, p)
  | .capArmed _ => none
  | .capDisarm c p => some (c, 0x703, p.withA0 10 10 0)
  | .capQuery c p => some (c, 0x703, p.withA0 10 10 1)
  | .triggerEval _ => none
  | .autoTrigger _ => none
  | .captureEnd _ => none
  | .rearmDone _ => none
  | .singleDrained _ => none
  | .ladderEval _ => none
  | .tmuConfig c p => some (c, 0x801, p)
  | .tmuArm c p => some (c, 0x802, p.withA0 9 8 0)
  | .tmuDisarm c p => some (c, 0x802, p.withA0 9 8 1)
  | .tmuRelease c p => some (c, 0x802, p.withA0 9 9 1)
  | .tmuSettingDone _ _ _ _ _ => none
  | .tmuWindowOpen _ _ => none
  | .tmuWindowClose _ _ => none
  | .tmuEndpointEvent _ _ => none
  | .tmuRangeExpire _ => none
  | .tmuLatch _ => none
  | .tmuResult c p => some (c, 0x803, p)
  | .tapRoute c p => some (c, 0x901, p.withA0 15 15 0)
  | .tapRelease c p => some (c, 0x901, p.withA0 15 15 1)
  | .tapStatus c p => some (c, 0x902, p)
  | .tapRaise => none
  | .tapHubRoute _ => none
  | .tapActivation _ => none
  | .consumerBusyEnd _ => none
  | .eventPinEdge _ _ => none
  | .tapIoPulseEnd _ => none
  | .tapIoReturnInput _ => none
  | .scratchRead c p => some (c, 0xA01, p.withA0 1 0 0)
  | .scratchWrite c p => some (c, 0xA01, p.withA0 1 0 1)
  | .scratchSet c p => some (c, 0xA01, p.withA0 1 0 2)
  | .scratchClr c p => some (c, 0xA01, p.withA0 1 0 3)
  | .xbHostRead _ _ => none
  | .xbHostWrite _ _ _ => none
  | .xbSetAliasWrite _ _ _ => none
  | .xbClrAliasWrite _ _ _ => none
  | .xpRead _ _ => none
  | .xpWrite _ _ _ => none
  | .eccDiagReadRaw c p => some (c, 0xA02, p.withA0 1 0 0)
  | .eccDiagWriteRaw c p => some (c, 0xA02, p.withA0 1 0 1)
  | .eccDiagFlip c p => some (c, 0xA02, p.withA0 1 0 2)
  | .brushStatus c p => some (c, 0xA03, p)
  | .brushScrub _ _ => none
  | .brushStall _ => none
  | .seqSlotFetch _ _ _ _ => none
  | .capSlotWrite _ => none
  | .flogSlotDrain => none
  | .hostinSlot => none
  | .hostoutSlot => none
  | .maintSlot => none
  | .supSlot => none
  | .idleSlot _ => none
  | .tuneRunFull c p => some (c, 0xB01, p.withA0 17 16 0)
  | .tuneFullDieDone _ => none
  | .tuneRunReflect c p => some (c, 0xB01, p.withA0 17 16 1)
  | .reflectDone _ _ => none
  | .tuneRunLive c p => some (c, 0xB01, p.withA0 17 16 2)
  | .tuneStatus c p => some (c, 0xB02, p)
  | .calStore c p => some (c, 0xB03, p)
  | .calStoreDone _ => none
  | .fixtureDelay c p => some (c, 0xB04, p)
  | .gapCalibration _ _ _ _ => none
  | .edgeCellStarved _ _ => none
  | .takeoverCycle _ => none
  | .takeoverPrepareDone _ _ _ => none
  | .handoff _ => none
  | .takeoverDefer _ _ => none
  | .carryDone _ _ _ => none
  | .handbackAfterBurst _ => none
  | .gongConfigSource c p => some (c, 0xC01, p.withA0 31 30 0)
  | .gongConfigQuiet c p => some (c, 0xC01, p.withA0 31 30 1)
  | .gongConfigNotice c p => some (c, 0xC01, p.withA0 31 30 2)
  | .gongReadLog c p => some (c, 0xC02, p.withA0 0 0 0)
  | .gongReadCounters c p => some (c, 0xC02, p.withA0 0 0 1)
  | .gongReport _ => none
  | .subsysReset => none
  | .quietExpire => none
  | .holdExpire _ _ => none
  | .tickToggle => none
  | .heartbeat _ => none
  | .supHang _ => none
  | .clockLockLoss _ => none
  | .refclkLoss => none
  | .enumeration _ _ => none
  | .loopMeasured _ _ => none
  | .countLoad _ _ => none
  | .trainingEnd => none
  | .trainTimeout => none
  | .decisionWord _ _ => none
  | .gtSlot _ _ _ => none
  | .controlBlock _ => none
  | .downbeat _ _ _ => none
  | .alignStep => none
  | .downbeatMissed => none
  | .ringErrorBlock _ => none
  | .ringLoss _ => none
  | .officerAuthChallenge c p => some (c, 0xD01, p.withA0 1 0 0)
  | .officerAuthProve c p => some (c, 0xD01, p.withA0 1 0 1)
  | .officerAuthPolicy c p => some (c, 0xD01, p.withA0 1 0 2)
  | .officerAuthRelinquish c p => some (c, 0xD01, p.withA0 1 0 3)
  | .challengeExpire _ => none
  | .lockoutExpire => none
  | .attestReport c p => some (c, 0xD02, p.withA0 0 0 0)
  | .attestCert c p => some (c, 0xD02, p.withA0 0 0 1)
  | .sealOpenOffer c p => some (c, 0xD03, p.withA0 1 0 0)
  | .sealOpenAccept c p => some (c, 0xD03, p.withA0 1 0 1)
  | .sealOpenClose c p => some (c, 0xD03, p.withA0 1 0 2)
  | .offerExpire _ => none
  | .zeroize c p => some (c, 0xD04, p)
  | .zeroizeNAssert => none
  | .zeroizeDone => none
  | .fwUpdateWrite c p => some (c, 0xD05, p.withA0 1 0 0)
  | .fwUpdateVerify c p => some (c, 0xD05, p.withA0 1 0 1)
  | .fwUpdateAdvance c p => some (c, 0xD05, p.withA0 1 0 2)
  | .fwUpdateRevoke c p => some (c, 0xD05, p.withA0 1 0 3)
  | .debugUnlock c p => some (c, 0xD06, p)
  | .healthRead c p => some (c, 0xE01, p)
  | .powerOn _ => none
  | .startupStepDone _ => none
  | .railTimeout _ => none
  | .refclkWaitTimeout => none
  | .brownOut => none
  | .overvoltage => none
  | .supplyCondition _ _ _ => none
  | .resetNAssert _ => none
  | .perstNAssert => none
  | .perstNRelease => none
  | .tempSample _ _ => none
  | .thermalRestart _ => none
  | .smbusRead _ => none
  | .smbusWrite _ _ => none
  | .pcieLinkUp => none
  | .msixTableWrite _ _ _ => none
  | .fwUpdateDone => none
  | .zeroizeNRelease => none
  | .overvoltageRelease _ => none
  | .refclkReturn => none
  | .ringLaneLock _ => none
  | .guardArmed _ _ => none

end Sys2Proof
end

