-- ==== Sys2Proof/WellFormed.lean ====
section
/-! DEFINITION. Which terms of Instr are commands that the outside world can send: packets that LENGTH can describe, and
operands within their fields. -/

namespace Sys2Proof

/-- A packet whose payload is a whole number of 8-byte units that LENGTH can count (R36). -/
def Pkt.wf (p : Pkt) : Bool := p.payload.length % 8 == 0 && decide (p.payload.length ≤ 8 * 65535)

/-- A BAR2 word access: a word-aligned offset in one of the three windows, and four byte enables (R27, R334). -/
def bar2Wf (off be : Nat) : Bool := off % 4 == 0 && decide (off < 0x30000) && decide (be < 16)

/-- A write of mailbox bytes that fits the 1 MiB window (R32). -/
def windowWf (off : Nat) (bytes : List Byte) : Bool := decide (off < 2 ^ 20) && decide (bytes.length ≤ 2 ^ 20)

/-- A BAR0 access inside the 16 KiB of BAR0 (R27). -/
def bar0Wf (off size : Nat) : Bool := decide (off < 0x4000) && (size == 1 || size == 2 || size == 4 || size == 8)

/-- The command packet of an instruction that is one. -/
def Instr.pkt : Instr → Option Pkt
  | .ctxOpen _ p => some p
  | .ctxClose _ p => some p
  | .ctxCloseForce _ p => some p
  | .commit _ p => some p
  | .commitAt _ p => some p
  | .commitStrobeRelease _ => none
  | .commitApplyAtVector _ => none
  | .discard _ p => some p
  | .fence _ p => some p
  | .echo _ p => some p
  | .deviceInfo _ p => some p
  | .doorbellWrite _ _ _ _ => none
  | .ringConsWrite _ _ _ => none
  | .time0Read => none
  | .xbBusyClear _ => none
  | .bar0WriteOther _ _ _ => none
  | .responsePost _ _ => none
  | .msixTimerExpire _ _ => none
  | .pcieLinkDown => none
  | .ringSetup _ p => some p
  | .ringTrain _ p => some p
  | .ringStatus _ p => some p
  | .storePartition _ p => some p
  | .pageFill _ p => some p
  | .pageEvict _ p => some p
  | .pageEvictAll _ p => some p
  | .storeWrite _ p => some p
  | .storeClearWritten _ p => some p
  | .storeRead _ p => some p
  | .pageDemand _ => none
  | .groupAssign _ p => some p
  | .groupRelease _ p => some p
  | .seqConfig _ p => some p
  | .burstStart _ p => some p
  | .burstVector0 _ => none
  | .burstFinal _ => none
  | .burstStop _ p => some p
  | .burstStopAtRestart _ p => some p
  | .stopRequestArrive _ => none
  | .seqStatus _ p => some p
  | .nop _ => none
  | .rpt _ => none
  | .lpb _ => none
  | .lpe _ => none
  | .call _ => none
  | .ret _ => none
  | .jmp _ => none
  | .jmpf _ => none
  | .jmpg _ => none
  | .matchRep _ => none
  | .tapw _ => none
  | .tapr _ => none
  | .tset _ => none
  | .mark _ => none
  | .clrf _ => none
  | .sync _ => none
  | .halt _ => none
  | .tsetWrite _ p => some p
  | .periodSet _ p => some p
  | .deskewWrite _ p => some p
  | .alarmSet _ p => some p
  | .alarmQuery _ p => some p
  | .alarmRelease _ p => some p
  | .alarmFire _ => none
  | .driveEvent _ => none
  | .formatSet _ p => some p
  | .reflexSet _ p => some p
  | .reflexQuery _ p => some p
  | .comparatorCrossing _ _ _ _ => none
  | .armWindowClose _ => none
  | .loadSet _ p => some p
  | .levelsSet _ p => some p
  | .comparatorValid _ _ _ => none
  | .guardSet _ p => some p
  | .guardQuery _ p => some p
  | .guardClear _ p => some p
  | .guardTrip _ _ => none
  | .ppmuSet _ p => some p
  | .ppmuSettled _ => none
  | .ppmuMeasure _ p => some p
  | .ppmuMeasureDone _ _ => none
  | .levelMeasureRamp _ p => some p
  | .levelMeasureSlope _ p => some p
  | .levelMeasureDone _ _ => none
  | .compCheckStatus _ p => some p
  | .compCheckSwap _ p => some p
  | .compCheckTie _ p => some p
  | .compCheckDone _ _ => none
  | .strobe _ => none
  | .failFlagSet _ => none
  | .resultToCapture _ => none
  | .maskSetPinMask _ p => some p
  | .maskSetRanges _ p => some p
  | .maskSetFailproc _ p => some p
  | .failRead _ p => some p
  | .failmapRead _ p => some p
  | .failmapStatus _ p => some p
  | .faillogDrain _ p => some p
  | .capConfig _ p => some p
  | .capArm _ p => some p
  | .capArmed _ => none
  | .capDisarm _ p => some p
  | .capQuery _ p => some p
  | .triggerEval _ => none
  | .autoTrigger _ => none
  | .captureEnd _ => none
  | .rearmDone _ => none
  | .singleDrained _ => none
  | .ladderEval _ => none
  | .tmuConfig _ p => some p
  | .tmuArm _ p => some p
  | .tmuDisarm _ p => some p
  | .tmuRelease _ p => some p
  | .tmuSettingDone _ _ _ _ _ => none
  | .tmuWindowOpen _ _ => none
  | .tmuWindowClose _ _ => none
  | .tmuEndpointEvent _ _ => none
  | .tmuRangeExpire _ => none
  | .tmuLatch _ => none
  | .tmuResult _ p => some p
  | .tapRoute _ p => some p
  | .tapRelease _ p => some p
  | .tapStatus _ p => some p
  | .tapRaise => none
  | .tapHubRoute _ => none
  | .tapActivation _ => none
  | .consumerBusyEnd _ => none
  | .eventPinEdge _ _ => none
  | .tapIoPulseEnd _ => none
  | .tapIoReturnInput _ => none
  | .scratchRead _ p => some p
  | .scratchWrite _ p => some p
  | .scratchSet _ p => some p
  | .scratchClr _ p => some p
  | .xbHostRead _ _ => none
  | .xbHostWrite _ _ _ => none
  | .xbSetAliasWrite _ _ _ => none
  | .xbClrAliasWrite _ _ _ => none
  | .xpRead _ _ => none
  | .xpWrite _ _ _ => none
  | .eccDiagReadRaw _ p => some p
  | .eccDiagWriteRaw _ p => some p
  | .eccDiagFlip _ p => some p
  | .brushStatus _ p => some p
  | .brushScrub _ _ => none
  | .brushStall _ => none
  | .seqSlotFetch _ _ _ _ => none
  | .capSlotWrite _ => none
  | .flogSlotDrain => none
  | .hostinSlot => none
  | .hostoutSlot => none
  | .maintSlot => none
  | .supSlot => none
  | .idleSlot _ => none
  | .tuneRunFull _ p => some p
  | .tuneFullDieDone _ => none
  | .tuneRunReflect _ p => some p
  | .reflectDone _ _ => none
  | .tuneRunLive _ p => some p
  | .tuneStatus _ p => some p
  | .calStore _ p => some p
  | .calStoreDone _ => none
  | .fixtureDelay _ p => some p
  | .gapCalibration _ _ _ _ => none
  | .edgeCellStarved _ _ => none
  | .takeoverCycle _ => none
  | .takeoverPrepareDone _ _ _ => none
  | .handoff _ => none
  | .takeoverDefer _ _ => none
  | .carryDone _ _ _ => none
  | .handbackAfterBurst _ => none
  | .gongConfigSource _ p => some p
  | .gongConfigQuiet _ p => some p
  | .gongConfigNotice _ p => some p
  | .gongReadLog _ p => some p
  | .gongReadCounters _ p => some p
  | .gongReport _ => none
  | .subsysReset => none
  | .quietExpire => none
  | .holdExpire _ _ => none
  | .tickToggle => none
  | .heartbeat _ => none
  | .supHang _ => none
  | .clockLockLoss _ => none
  | .refclkLoss => none
  | .enumeration _ _ => none
  | .loopMeasured _ _ => none
  | .countLoad _ _ => none
  | .trainingEnd => none
  | .trainTimeout => none
  | .decisionWord _ _ => none
  | .gtSlot _ _ _ => none
  | .controlBlock _ => none
  | .downbeat _ _ _ => none
  | .alignStep => none
  | .downbeatMissed => none
  | .ringErrorBlock _ => none
  | .ringLoss _ => none
  | .officerAuthChallenge _ p => some p
  | .officerAuthProve _ p => some p
  | .officerAuthPolicy _ p => some p
  | .officerAuthRelinquish _ p => some p
  | .challengeExpire _ => none
  | .lockoutExpire => none
  | .attestReport _ p => some p
  | .attestCert _ p => some p
  | .sealOpenOffer _ p => some p
  | .sealOpenAccept _ p => some p
  | .sealOpenClose _ p => some p
  | .offerExpire _ => none
  | .zeroize _ p => some p
  | .zeroizeNAssert => none
  | .zeroizeDone => none
  | .fwUpdateWrite _ p => some p
  | .fwUpdateVerify _ p => some p
  | .fwUpdateAdvance _ p => some p
  | .fwUpdateRevoke _ p => some p
  | .debugUnlock _ p => some p
  | .healthRead _ p => some p
  | .powerOn _ => none
  | .startupStepDone _ => none
  | .railTimeout _ => none
  | .refclkWaitTimeout => none
  | .brownOut => none
  | .overvoltage => none
  | .supplyCondition _ _ _ => none
  | .resetNAssert _ => none
  | .perstNAssert => none
  | .perstNRelease => none
  | .tempSample _ _ => none
  | .thermalRestart _ => none
  | .smbusRead _ => none
  | .smbusWrite _ _ => none
  | .pcieLinkUp => none
  | .msixTableWrite _ _ _ => none
  | .fwUpdateDone => none
  | .zeroizeNRelease => none
  | .overvoltageRelease _ => none
  | .refclkReturn => none
  | .ringLaneLock _ => none
  | .guardArmed _ _ => none

/-- A command is well formed. -/
def Instr.wf (i : Instr) : Bool :=
  (match i.pkt with | some p => p.wf | none => true) &&
  (match i with
  | .doorbellWrite _ off bytes _ => windowWf off bytes
  | .bar0WriteOther off size _ => bar0Wf off size
  | .xbHostRead off be => bar2Wf off be
  | .xbHostWrite off be _ => bar2Wf off be
  | .xbSetAliasWrite off be _ => bar2Wf off be
  | .xbClrAliasWrite off be _ => bar2Wf off be
  | .seqSlotFetch _ _ addr _ => decide (addr < 2 ^ 42)
  | .tmuEndpointEvent _ code => decide (code < 4096)
  | _ => true)

end Sys2Proof
end

