-- ==== Sys2Proof/Certificates/Slice0/Obligations.lean ====
section
/-! DEFINITION. The statements about the block for the provers, each a rule of the spec or what follows from several. -/

open Sys2Proof
open Sys2Proof.Machine


/-- For every command and state with that command at the front of its queue, a step of the state is exec of the command on the state with the queue's rest. -/
def Obligations.QueueFrontIsExecuted : Prop :=
  ∀ (c : Instr) (cs : List Instr) (s : State), s.pending = c :: cs → step s = exec c { s with pending := cs }

/-- On an empty queue a step gives a next state whose Metronome is one tick (512 fine LSB) further while the clock unit is locked, with every other part of the state unchanged but for a SAFE of the Gong that has arrived at its pins by then and for the interrupt that a change of DEV_STATE signals; without a locked clock the Metronome stands and only the SAFE that has arrived takes effect. This is the model's own choice (log 1). -/
def Obligations.EmptyQueueRunsTheClock : Prop :=
  ∀ s : State, s.pending = [] →
    (s.power.locked = true → step s = .next (State.devEvents s ({ s with metro := s.metro + 512 } : State).safeArrive)) ∧
    (s.power.locked = false → step s = .next s.safeArrive)

/-- The command table gives no row any bits, so the decoder answers none for every word, and placing a word in front of the queue changes nothing. -/
def Obligations.NoWordSpellsACommand : Prop :=
  ∀ (n w : Nat) (s : State), decodeTableWord n w = none ∧ s.withFetchWord n w = s

/-- Every command answers a next state in every state: the block never faults, and it refuses no command; a packet that a rule turns away is answered by a response or a count, which is part of the next state. -/
def Obligations.EveryCommandAnswersANextState : Prop :=
  ∀ (i : Instr) (s : State), ∃ t, exec i s = .next t

/-- CTX_OPEN of a closed context that passes its checks opens it with the rings, quota and permissions asked for and answers the quota; CTX_CLOSE (with work running only under FORCE, which first stops that work) marks the context closing and lets the close settle once nothing is in flight; FENCE waits for every tag then in flight; ECHO returns its arguments and payload; DEVICE_INFO returns the information block. -/
def Obligations.ContextCommandsComplete : Prop :=
  (∀ (c : Fin 8) (p : Pkt) (s : State), s.takes c = true → s.ctxs[c].pending = 0 → pktUnits p.units ≤ 32767 →
      s.ctxs[c].isOpen = false → intakeFail s c 0x001 p = none → (s.fetched c 0x001 p).openFail c p = none →
      exec (.ctxOpen c p) s = .next (((s.fetched c 0x001 p).modCtx c (fun x => x.opened p)).reply (p.hdr c 0x001 0) 0 0 (openQuota p) [])) ∧
  (∀ (c : Fin 8) (p : Pkt), Answers (.ctxClose c p) c 0x002 (p.withA0 0 0 0) (fun h q a => q.units = 0 ∧ a.ctxRuns h.mb = false)
      (fun h _ a => (a.modCtx h.mb (fun x => { x with closing := true, closeHdr := some h })).settle h.mb)) ∧
  (∀ (c : Fin 8) (p : Pkt), Answers (.ctxCloseForce c p) c 0x002 (p.withA0 0 0 1) (fun _ q _ => q.units = 0)
      (fun h _ a => ((a.forcedStop h.mb).modCtx h.mb (fun x => { x with closing := true, closeHdr := some h })).settle h.mb)) ∧
  (∀ (c : Fin 8) (p : Pkt), Answers (.fence c p) c 0x005 p (fun _ q _ => q.units = 0)
      (fun h _ a => (a.modCtx h.mb (fun x => { x with fences := x.fences ++ [{ hdr := h, waits := x.inflight.erase h.tag }] })).settle h.mb)) ∧
  (∀ (c : Fin 8) (p : Pkt), Answers (.echo c p) c 0x006 p (fun _ _ _ => True)
      (fun h q a => a.reply h 0 0 0 (words [q.arg0.toNat, q.arg1.toNat, q.arg2.toNat, q.arg3.toNat] ++ zeros 16 ++ q.body))) ∧
  (∀ (c : Fin 8) (p : Pkt), Answers (.deviceInfo c p) c 0x007 p (fun _ q _ => q.units = 0)
      (fun h _ a => a.reply h 0 0 0 (a.infoBlock h.mb)))

/-- PCIE_LINK_DOWN while the link is up gives the state of the forced end of every context: each context is as before its first open but for its mailbox window, the link is down, and XB_BUSY and the TIME latch read zero. -/
def Obligations.LinkLossClosesEveryContext : Prop :=
  ∀ s : State, s.link.linkUp = true → ∃ t, exec .pcieLinkDown s = .next t ∧ t = s.hostDown ∧
    (∀ c : Fin 8, ∃ w, t.ctxs[c] = { window := w }) ∧ t.link.linkUp = false ∧ t.link.timeLatch = 0 ∧
    t.link.xbCollided = false ∧ t.link.xbCollisions = 0

/-- SEQ_CONFIG, TSET_WRITE, PERIOD_SET, DESKEW_WRITE, FORMAT_SET, REFLEX_SET, LOAD_SET, LEVELS_SET, the three tables of MASK_SET, FIXTURE_DELAY and CAP_CONFIG, sent by the owner of their group or sequencer (CAP_CONFIG: the owner of the engine's sequencer, of a free engine or of its own, which it then owns) in a form that their rule accepts, with room in the staging set, join that set; the answer is STAGED with the payload of the rule, or with C the commit of the whole set. -/
def Obligations.StagedWritesJoinTheStagingSet : Prop :=
  (∀ (c : Fin 8) (p : Pkt), Answers (.seqConfig c p) c 0x302 p
      (fun h q a => seqMine h q a ∧ seqConfigForm q = none ∧ stageRoom h q a)
      (fun h q a => a.joined h 0x302 q [])) ∧
  (∀ (c : Fin 8) (p : Pkt), Answers (.tsetWrite c p) c 0x401 p
      (fun h q a => groupMine h q a ∧ tsetForm q = none ∧ stageRoom h q a)
      (fun h q a => a.joined h 0x401 q [])) ∧
  (∀ (c : Fin 8) (p : Pkt), Answers (.periodSet c p) c 0x402 p
      (fun h q a => seqMine h q a ∧ periodForm q = none ∧ stageRoom h q a)
      (fun h q a => a.joined h 0x402 q (periodEcho a h q))) ∧
  (∀ (c : Fin 8) (p : Pkt), Answers (.deskewWrite c p) c 0x403 p
      (fun h q a => groupMine h q a ∧ deskewForm q = none ∧ stageRoom h q a)
      (fun h q a => a.joined h 0x403 q [])) ∧
  (∀ (c : Fin 8) (p : Pkt), Answers (.formatSet c p) c 0x501 p
      (fun h q a => groupMine h q a ∧ formatForm q = none ∧ stageRoom h q a)
      (fun h q a => a.joined h 0x501 q [])) ∧
  (∀ (c : Fin 8) (p : Pkt), Answers (.reflexSet c p) c 0x502 (p.withA0 15 15 0)
      (fun h q a => groupMine h q a ∧ reflexForm q = none ∧ stageRoom h q a)
      (fun h q a => a.joined h 0x502 q [])) ∧
  (∀ (c : Fin 8) (p : Pkt), Answers (.loadSet c p) c 0x503 p
      (fun h q a => groupMine h q a ∧ loadForm q = none ∧ stageRoom h q a)
      (fun h q a => a.joined h 0x503 q (loadEcho q))) ∧
  (∀ (c : Fin 8) (p : Pkt), Answers (.levelsSet c p) c 0x504 p
      (fun h q a => groupMine h q a ∧ levelsForm q = none ∧ stageRoom h q a)
      (fun h q a => a.joined h 0x504 q (if q.isE then [] else levelsEcho q))) ∧
  (∀ (c : Fin 8) (p : Pkt), Answers (.maskSetPinMask c p) c 0x601 (p.withA0 13 12 0)
      (fun h q a => groupMine h q a ∧ maskForm q = none ∧ stageRoom h q a)
      (fun h q a => a.joined h 0x601 q [])) ∧
  (∀ (c : Fin 8) (p : Pkt), Answers (.maskSetRanges c p) c 0x601 (p.withA0 13 12 1)
      (fun h q a => groupMine h q a ∧ maskForm q = none ∧ stageRoom h q a)
      (fun h q a => a.joined h 0x601 q [])) ∧
  (∀ (c : Fin 8) (p : Pkt), Answers (.maskSetFailproc c p) c 0x601 (p.withA0 13 12 2)
      (fun h q a => seqMine h q a ∧ maskForm q = none ∧ stageRoom h q a)
      (fun h q a => a.joined h 0x601 q [])) ∧
  (∀ (c : Fin 8) (p : Pkt), Answers (.fixtureDelay c p) c 0xB04 p
      (fun h q a => groupMine h q a ∧ fixtureForm q = none ∧ stageRoom h q a)
      (fun h q a => a.joined h 0xB04 q [])) ∧
  (∀ (c : Fin 8) (p : Pkt), Answers (.capConfig c p) c 0x701 p
      (fun h q a => (a.caps[pktEng q].owner = .none ∨ a.caps[pktEng q].owner = h.who) ∧ a.seqs[(capOf q).seq].owner = h.who ∧ capForm q = none ∧ stageRoom h q a)
      (fun h q a => (a.modCap (pktEng q) (fun e => { e with owner := h.who })).joined h 0x701 q []))

/-- COMMIT of a set that passes every check (an empty one passes) empties the staging set and strobes its writes at once; with AT and a tick still to come the set waits for that tick; COMMIT_STROBE_RELEASE strobes the waiting sets of a context whose tick has come, in the order of their ticks, with the flags then in force in the timestamp; DISCARD empties the set and answers OK, and changes nothing else. -/
def Obligations.CommitsStrobeTheStagingSet : Prop :=
  (∀ (c : Fin 8) (p : Pkt), Answers (.commit c p) c 0x003 (p.withA0 0 0 0)
      (fun h q a => q.units = 0 ∧ commitOk h a)
      (fun h q a => (a.modCtx h.mb (fun x => { x with stage := [] })).strobe { hdr := h, ctx := h.mb, all := a.ctxs[h.mb].stage, ts := a.nowSI })) ∧
  (∀ (c : Fin 8) (p : Pkt), Answers (.commitAt c p) c 0x003 (p.withA0 0 0 1)
      (fun h q a => q.units = 0 ∧ commitOk h a ∧ a.tick < q.arg1.toNat + 2 ^ 32 * q.arg2.toNat)
      (fun h q a => let b := a.modCtx h.mb (fun x => { x with stage := [] })
        { b with commits := b.commits ++ [{ hdr := h, ctx := h.mb, atTick := q.arg1.toNat + 2 ^ 32 * q.arg2.toNat, waiting := true, all := a.ctxs[h.mb].stage, ts := { fine := (q.arg1.toNat + 2 ^ 32 * q.arg2.toNat) * 512 } }] })) ∧
  (∀ (c : Fin 8) (p : Pkt), Answers (.discard c p) c 0x004 p
      (fun h q a => q.units = 0)
      (fun h q a => (a.modCtx h.mb (fun x => { x with stage := [] })).ok h)) ∧
  (∀ (c : Fin 8) (s : State), exec (.commitStrobeRelease c) s =
      .next ((sortBy (fun x => x.atTick) (s.commits.filter (fun x => x.waiting && x.ctx == c && decide (x.atTick ≤ s.tick)))).foldl
        (fun u x => u.strobe { x with ts := { x.ts with flags := s.tsFlags 0 false false false } })
        { s with commits := s.commits.filter (fun x => !(x.waiting && x.ctx == c && decide (x.atTick ≤ s.tick))) }))

/-- With the link up: DOORBELL_WRITE writes the window bytes and takes over an acceptable producer offset, or counts BAD_DOORBELL, and the waiting packets are then taken; RING_CONS_WRITE takes over an acceptable consumer offset and intake goes on, or counts the bad value; TIME0_READ latches the timestamp and returns its low word; XB_BUSY_CLEAR clears COLLIDED where bit 0 is written as one; a write with no behaviour of its own changes nothing; MSIX_TABLE_WRITE changes one word of one vector, and where that leaves the vector unmasked with a message waiting for it, the message is sent and no longer waits; nothing else changes. With the link down the host cannot reach the block and nothing changes. -/
def Obligations.FrontRegisterAccessesComplete : Prop :=
  (∀ (c : Fin 8) (off : Nat) (bs : List Byte) (v : Word) (s : State), s.link.linkUp = true →
      ((s.ctxs[c].writeWindow off bs).doorbellOk v.toNat = true → exec (.doorbellWrite c off bs v) s =
        .next ((s.modCtx c (fun x => { (x.writeWindow off bs) with prod := v.toNat })).intake c)) ∧
      ((s.ctxs[c].writeWindow off bs).doorbellOk v.toNat = false → exec (.doorbellWrite c off bs v) s =
        .next ((s.modCtx c (fun x => (x.writeWindow off bs).noteErr (0x030, 0x000B))).intake c))) ∧
  (∀ (c : Fin 8) (k : Fin 4) (v : Word) (s : State), s.link.linkUp = true →
      ((s.ctxs[c].rings[k]).consOk v.toNat = true → exec (.ringConsWrite c k v) s =
        .next ((s.modRing c k (fun r => { r with cons := v.toNat })).intake c)) ∧
      ((s.ctxs[c].rings[k]).consOk v.toNat = false → exec (.ringConsWrite c k v) s =
        .next (s.modCtx c (fun x => x.noteErr (0x030, 0x000D))))) ∧
  (∀ s : State, s.link.linkUp = true → exec .time0Read s =
      .next (s.modLink (fun l => { l with timeLatch := s.nowGHz.val, readData := s.nowGHz.val % 2 ^ 32, readPoison := false }))) ∧
  (∀ (v : Word) (s : State), s.link.linkUp = true → exec (.xbBusyClear v) s =
      .next (if v.getLsbD 0 then s.modLink (fun l => { l with xbCollided := false }) else s)) ∧
  (∀ (off size : Nat) (v : Word) (s : State), exec (.bar0WriteOther off size v) s = .next s) ∧
  (∀ (vec : Fin 64) (k : Fin 4) (v : Word) (s : State), s.link.linkUp = true → ∃ m : Vector (Vector Word 4) 64, (m[vec])[k] = v ∧
      (∀ j : Fin 4, j ≠ k → (m[vec])[j] = (s.link.msix[vec])[j]) ∧ (∀ w : Fin 64, w ≠ vec → m[w] = s.link.msix[w]) ∧
      exec (.msixTableWrite vec k v) s = .next (if s.link.pba.testBit vec.val = true ∧ ((m[vec])[3]).getLsbD 0 = false then
        s.modLink (fun l => { l with msix := m, pba := l.pba - 2 ^ vec.val, bus := { addr := (m[vec])[0].toNat + 2 ^ 32 * (m[vec])[1].toNat, bytes := le 4 (m[vec])[2].toNat } :: l.bus })
        else s.modLink (fun l => { l with msix := m }))) ∧
  (∀ (i : Instr) (s : State), s.link.linkUp = false → (∃ c off bs v, i = .doorbellWrite c off bs v) ∨ (∃ c k v, i = .ringConsWrite c k v) ∨
        i = .time0Read ∨ (∃ v, i = .xbBusyClear v) ∨ (∃ n k v, i = .msixTableWrite n k v) → exec i s = .next s)

/-- RESPONSE_POST of an open ring, with the link up, the supervisor responding and one unit more than the oldest entry needs free, completes: it writes the bytes of the entry at RING_PROD with word 6 last, takes the entry off the queue, moves RING_PROD on by its units, counts SEQ on and counts one entry more not signaled (noting the time of the first); then the ring may signal, the command may leave flight, and intake goes on. In every other case it leaves everything as it is. MSIX_TIMER_EXPIRE, once TIME microseconds have passed since the first entry not signaled, completes: the ring counts from zero and its vector is signaled, as a memory write of the vector's message, or as pending where the vector is masked; vector 0 signals nothing. Before that time it leaves everything as it is. -/
def Obligations.ResponsesArePostedInOrderAndSignaled : Prop :=
  (∀ (c : Fin 8) (k : Fin 4) (s : State) (e : Entry) (es : List Entry), (s.ctxs[c].rings[k]).queue = e :: es → s.link.linkUp = true → s.supDead = false →
      (s.ctxs[c].rings[k]).isOpen = true → (s.ctxs[c].rings[k]).used + e.units + 1 ≤ (s.ctxs[c].rings[k]).size / 32 →
      ∃ u : State, exec (.responsePost c k) s = .next (((u.countSignal c k).afterPost c (e.asPosted s.ctxs[c].session)).intake c) ∧
        (let r := s.ctxs[c].rings[k]
         let bs := (e.asPosted s.ctxs[c].session).bytes s.ctxs[c].session r.seq
         u.link.bus = ((ringWrites r.base r.size (32 * r.prod) (bs.take 24) ++ ringWrites r.base r.size (32 * r.prod + 28) (bs.drop 28) ++
             ringWrites r.base r.size (32 * r.prod + 24) ((bs.drop 24).take 4)).flatMap BusWrite.requests).reverse ++ s.link.bus ∧
         (u.ctxs[c].rings[k]).queue = es ∧ (u.ctxs[c].rings[k]).prod = (r.prod + bs.length / 32) % (r.size / 32) ∧ (u.ctxs[c].rings[k]).seq = nextSeq r.seq ∧
         (u.ctxs[c].rings[k]).unsignaled = r.unsignaled + 1 ∧ (u.ctxs[c].rings[k]).firstUnsig = (if r.unsignaled = 0 then s.tick else r.firstUnsig) ∧
         ∀ d : Fin 8, d ≠ c → u.ctxs[d] = s.ctxs[d])) ∧
  (∀ (c : Fin 8) (k : Fin 4) (s : State), (s.ctxs[c].rings[k]).queue = [] ∨ s.link.linkUp = false ∨ s.supDead = true ∨ (s.ctxs[c].rings[k]).isOpen = false →
      exec (.responsePost c k) s = .next s) ∧
  (∀ (c : Fin 8) (k : Fin 4) (s : State) (e : Entry) (es : List Entry), (s.ctxs[c].rings[k]).queue = e :: es →
      (s.ctxs[c].rings[k]).size / 32 < (s.ctxs[c].rings[k]).used + e.units + 1 → exec (.responsePost c k) s = .next s) ∧
  (∀ (c : Fin 8) (k : Fin 4) (s : State), (s.ctxs[c].rings[k]).unsignaled ≠ 0 → (s.ctxs[c].rings[k]).time ≠ 0 →
      (s.ctxs[c].rings[k]).firstUnsig + 4000 * (s.ctxs[c].rings[k]).time ≤ s.tick → s.link.linkUp = true →
      exec (.msixTimerExpire c k) s = .next (
        let b := s.modRing c k (fun r => { r with unsignaled := 0 })
        let v := (s.ctxs[c].rings[k]).vec
        let e := s.link.msix[fin 64 v]
        if v = 0 then b
        else if e[3].getLsbD 0 then b.modLink (fun l => { l with pba := l.pba ||| 2 ^ (fin 64 v).val })
        else b.modLink (fun l => { l with bus := { addr := e[0].toNat + 2 ^ 32 * e[1].toNat, bytes := le 4 e[2].toNat } :: l.bus }))) ∧
  (∀ (c : Fin 8) (k : Fin 4) (s : State), (s.ctxs[c].rings[k]).unsignaled = 0 ∨ (s.ctxs[c].rings[k]).time = 0 ∨
      s.tick < (s.ctxs[c].rings[k]).firstUnsig + 4000 * (s.ctxs[c].rings[k]).time → exec (.msixTimerExpire c k) s = .next s)

/-- ALARM_SET from the owner of the unit, or of a free unit, first fires the alarm under its old setting where that is due, then writes it (owner, enable, due tick, interval) and fires it where its new due tick has come, or writes the time-capture unit (owner, enable, buffer; enabling clears the buffer and starts its entries anew); QUERY changes nothing; RELEASE disables the unit, after a firing that is due, and gives it up. Each answers with the status of the unit as it then is, and changes nothing else. -/
def Obligations.AlarmCommandsWriteOneUnit : Prop :=
  (∀ (c : Fin 8) (p : Pkt), Answers (.alarmSet c p) c 0x404 (p.withA0 15 14 0)
      (fun h q a => q.b0 12 = false ∧ (a.alarms[alarmUnit q].owner = .none ∨ a.alarms[alarmUnit q].owner = h.who) ∧ q.units = 0)
      (fun h q a => let b := ((a.fireAlarm (alarmUnit q)).modAlarm (alarmUnit q) (fun x => { x with owner := h.who, enabled := q.b0 13, due := q.arg1.toNat + 2 ^ 32 * q.arg2.toNat, interval := q.arg3.toNat })).fireAlarm (alarmUnit q)
        b.reply h 0 0 0 ((b.alarms[alarmUnit q]).bytes (alarmUnit q)))) ∧
  (∀ (c : Fin 8) (p : Pkt), Answers (.alarmSet c p) c 0x404 (p.withA0 15 14 0)
      (fun h q a => q.b0 12 = true ∧ (a.mcs[alarmUnit q].owner = .none ∨ a.mcs[alarmUnit q].owner = h.who) ∧ q.units = 0 ∧ q.a2 3 0 ≤ 10 ∧ q.a1 15 0 + 2 ^ q.a2 3 0 * 16 ≤ 65536)
      (fun h q a => let m := a.modMc (alarmUnit q) (fun x => if q.b0 13 then { x with owner := h.who, enabled := true, buf := q.a1 15 0, sizeLog2 := q.a2 3 0, next := 0, eseq := 1 }
          else { x with owner := h.who, enabled := false, buf := q.a1 15 0, sizeLog2 := q.a2 3 0 })
        let b := if q.b0 13 then m.plainBytes 1 0 (q.a1 15 0) (zeros (2 ^ q.a2 3 0 * 16)) else m
        b.reply h 0 0 0 ((b.mcs[alarmUnit q]).bytes (alarmUnit q)))) ∧
  (∀ (c : Fin 8) (p : Pkt), Answers (.alarmQuery c p) c 0x404 (p.withA0 15 15 1)
      (fun h q a => (if q.b0 12 then a.mcs[alarmUnit q].owner = .none ∨ a.mcs[alarmUnit q].owner = h.who else a.alarms[alarmUnit q].owner = .none ∨ a.alarms[alarmUnit q].owner = h.who) ∧ q.units = 0)
      (fun h q a => a.reply h 0 0 0 (a.unitBytes q))) ∧
  (∀ (c : Fin 8) (p : Pkt), Answers (.alarmRelease c p) c 0x404 (p.withA0 15 14 1)
      (fun h q a => (if q.b0 12 then a.mcs[alarmUnit q].owner = .none ∨ a.mcs[alarmUnit q].owner = h.who else a.alarms[alarmUnit q].owner = .none ∨ a.alarms[alarmUnit q].owner = h.who) ∧ q.units = 0)
      (fun h q a => let b := if q.b0 12 then a.modMc (alarmUnit q) (fun m => { m with owner := .none, enabled := false }) else (a.fireAlarm (alarmUnit q)).modAlarm (alarmUnit q) (fun x => { x with owner := .none, enabled := false })
        b.reply h 0 0 0 (b.unitBytes q)))

/-- An enabled alarm whose due tick has come fires: its tap carries the firing tick with source CLOCK and a zero fine field; with an interval the next due tick is the old one plus the least number of intervals, at least one, that brings it after the firing tick, and each interval beyond the first increments LOST; without one the alarm is disabled; LATE says whether the due tick was already past. Nothing else of the state changes. An alarm that is disabled, or whose due tick has not come, does not fire. -/
def Obligations.AlarmFiresAtItsDueTick : Prop :=
  (∀ (n : Fin 8) (s : State), s.alarms[n].enabled = true → s.alarms[n].due ≤ s.tick → ∃ (t : State) (x : Alarm), exec (.alarmFire n) s = .next t ∧
      t = (s.modAlarm n (fun _ => x)).modTaps (fun m => { m with raises := m.raises ++ [{ prod := 0x40 + n.val, ts := { fine := s.tick * 512, flags := s.tsFlags 0 false false false }, hop := 0, fine := s.metro }] }) ∧
      x.owner = s.alarms[n].owner ∧ x.interval = s.alarms[n].interval ∧ x.late = decide (s.alarms[n].due < s.tick) ∧ x.count = (s.alarms[n].count + 1) % 2 ^ 64 ∧
      (s.alarms[n].interval = 0 → x.enabled = false ∧ x.due = s.alarms[n].due ∧ x.lost = s.alarms[n].lost) ∧
      (s.alarms[n].interval ≠ 0 → x.enabled = true ∧ ∃ k, x.due = s.alarms[n].due + (k + 1) * s.alarms[n].interval ∧ s.tick < x.due ∧
        s.alarms[n].due + k * s.alarms[n].interval ≤ s.tick ∧ x.lost = min (s.alarms[n].lost + k) (2 ^ 32 - 1))) ∧
  (∀ (n : Fin 8) (s : State), s.alarms[n].enabled = false ∨ s.tick < s.alarms[n].due → exec (.alarmFire n) s = .next s)

/-- STORE_PARTITION from SECURE or the only open context, with no burst and no engine running and sizes in range, empties the store and sets the new sizes; PAGE_FILL and STORE_WRITE of a page that is free or the sender's give it a frame and queue the data for the host write slots (or end at once with no data); PAGE_EVICT drops one page that no burst pins, with ALL every page of the sender; CLEAR_WRITTEN clears the written bits of the blocks named; STORE_READ queues the read. A command that names a page which an earlier one has not done with waits in its turn, and each command that starts lets the ones behind it start. PAGE_DEMAND takes every entry of the page plan whose moment has come, and demands, with a notice and once, each whose page is missing. -/
def Obligations.StoreCommandsComplete : Prop :=
  (∀ (c : Fin 8) (p : Pkt), Answers (.storePartition c p) c 0x201 p
      (fun h q a => storeStarts 0x201 h q a ∧ a.sole h = true ∧ a.storeRuns = false ∧ q.units = 0 ∧ 4 ≤ q.a0 15 8 ∧ 1 ≤ q.a0 7 0 ∧ q.a0 15 8 + q.a0 7 0 + 16 ≤ 142 ∧
        (q.isE = true → q.a1 7 0 ≤ 52 ∧ 100 ≤ q.a2 16 0 ∧ q.a2 16 0 ≤ 100000))
      (fun h q a => let b := a.modStore (fun t => { t with mem := [], written := [], pages := [], errs := [], brushBack := [], capUnits := q.a0 15 8, flogUnits := q.a0 7 0, streamBudget := if q.isE then q.a1 7 0 else 48, prefetchUs := if q.isE then q.a2 16 0 else 2000 })
        (({ b with caps := vmap b.caps (fun _ e => { e with segment := [] }), flogs := vmap b.flogs (fun _ f => { f with ring := [], held := 0, written := 0, drains := f.drains.map (fun d : DrainOp => { d with left := 0 }) }) } : State).ok h).settleStore)) ∧
  (∀ (c : Fin 8) (p : Pkt), Completes (.pageFill c p) c 0x202 p
      (fun h q a => storeStarts 0x202 h q a ∧ pageTaken (q.a0 20 0) h a = none ∧ q.units % 512 = 0 ∧ q.units ≤ 32768 ∧ q.a1 8 0 * 4096 + q.payload.length ≤ 2 ^ 21 ∧
        (q.payload = [] ∨ (∀ g, a.store.page (q.a0 20 0) = some g → g.resident = false) ∨ a.pinned (q.a0 20 0) = false) ∧
        (a.assign h (q.a0 20 0)).isSome = true)
      (fun h q a t => ∃ d, a.assign h (q.a0 20 0) = some d ∧
        let e := d.modStore (fun x => x.modPage (q.a0 20 0) (fun g => { g with sticky := bit q.arg1.toNat 30, sealed := g.sealed || q.isS }))
        let w : HostIn := { hdr := h, addr := q.a0 20 0 * 2 ^ 21 + q.a1 8 0 * 4096, data := q.payload, page := q.a0 20 0, final := bit q.arg1.toNat 31, fill := true, sealed := q.isS }
        t = (if q.payload = [] then e.hostInDone w else e.modStore (fun x => { x with hostin := x.hostin ++ [w] })).settleStore)) ∧
  (∀ (c : Fin 8) (p : Pkt), Answers (.pageEvict c p) c 0x203 { p with arg1 := p.arg1 &&& 0xFFFFFFFE }
      (fun h q a => storeStarts 0x203 h q a ∧ pageTaken (q.a0 20 0) h a = none ∧ q.units = 0 ∧ (a.store.page (q.a0 20 0) = none ∨ a.pinned (q.a0 20 0) = false))
      (fun h q a => ((a.evictPage (q.a0 20 0)).ok h).settleStore)) ∧
  (∀ (c : Fin 8) (p : Pkt), Answers (.pageEvictAll c p) c 0x203 { p with arg1 := p.arg1 ||| 1 }
      (fun h q a => storeStarts 0x203 h q a ∧ q.units = 0 ∧ ∀ n ∈ (a.store.pages.filter (fun x => x.owner == h.who)).map (fun x => x.num), a.pinned n = false)
      (fun h q a => ((((a.store.pages.filter (fun x => x.owner == h.who)).map (fun x => x.num)).foldl (fun t n => t.evictPage n) a).ok h).settleStore)) ∧
  (∀ (c : Fin 8) (p : Pkt), Completes (.storeWrite c p) c 0x204 { p with arg2 := p.arg2 &&& 0xFFFFFFFE }
      (fun h q a => storeStarts 0x204 h q a ∧ pageTaken (pageOf (storeAddr q)) h a = none ∧ storeAddr q % 64 = 0 ∧ q.payload.length % 64 = 0 ∧ storeAddr q % 2 ^ 21 + q.payload.length ≤ 2 ^ 21 ∧
        ((∀ g, a.store.page (pageOf (storeAddr q)) = some g → g.resident = false) ∨ a.pinned (pageOf (storeAddr q)) = false) ∧
        (a.assign h (pageOf (storeAddr q))).isSome = true)
      (fun h q a t => ∃ d, a.assign h (pageOf (storeAddr q)) = some d ∧
        let e := d.modStore (fun x => x.modPage (pageOf (storeAddr q)) (fun g => { g with sealed := g.sealed || q.isS }))
        let w : HostIn := { hdr := h, addr := storeAddr q, data := q.payload, page := pageOf (storeAddr q), final := (a.store.page (pageOf (storeAddr q))).isNone, sealed := q.isS }
        t = (if q.payload = [] then e.hostInDone w else e.modStore (fun x => { x with hostin := x.hostin ++ [w] })).settleStore)) ∧
  (∀ (c : Fin 8) (p : Pkt), Answers (.storeClearWritten c p) c 0x204 { p with arg2 := p.arg2 ||| 1 }
      (fun h q a => storeStarts 0x204 h q a ∧ pageTaken (pageOf (storeAddr q)) h a = none ∧ q.isE = true ∧ q.units = 0 ∧ storeAddr q % 4096 = 0 ∧ q.arg3.toNat ≠ 0 ∧ storeAddr q % 2 ^ 21 + 4096 * q.arg3.toNat ≤ 2 ^ 21 ∧
        ((∀ g, a.store.page (pageOf (storeAddr q)) = some g → g.resident = false) ∨ a.pinned (pageOf (storeAddr q)) = false))
      (fun h q a => ((if (a.store.page (pageOf (storeAddr q))).isSome then
          a.modStore (fun t => ({ t with written := t.written.filter (fun x => x < storeAddr q / 4096 || storeAddr q / 4096 + q.arg3.toNat ≤ x) }).touch (pageOf (storeAddr q))) else a).ok h).settleStore)) ∧
  (∀ (c : Fin 8) (p : Pkt), Answers (.storeRead c p) c 0x205 p
      (fun h q a => storeStarts 0x205 h q a ∧ pageTaken (pageOf (storeAddr q)) h a = none ∧ q.units = 0 ∧ storeAddr q % 64 = 0 ∧ q.arg3.toNat % 64 = 0 ∧ q.arg3.toNat ≠ 0 ∧ storeAddr q % 2 ^ 21 + q.arg3.toNat ≤ 2 ^ 21 ∧
        (h.isS = true ∨ ∀ g, a.store.page (pageOf (storeAddr q)) = some g → g.sealed = false))
      (fun h q a => (a.modStore (fun t => { t with reads := t.reads ++ [{ hdr := h, addr := storeAddr q, left := q.arg3.toNat, readyTick := a.tick }] })).settleStore)) ∧
  (∀ (c : Fin 8) (p : Pkt) (i : Instr) (op : Nat) (r : Pkt), (i, op, r) ∈ [(Instr.storePartition c p, 0x201, p), (.pageFill c p, 0x202, p), (.pageEvict c p, 0x203, { p with arg1 := p.arg1 &&& 0xFFFFFFFE }), (.pageEvictAll c p, 0x203, { p with arg1 := p.arg1 ||| 1 }),
        (.storeWrite c p, 0x204, { p with arg2 := p.arg2 &&& 0xFFFFFFFE }), (.storeClearWritten c p, 0x204, { p with arg2 := p.arg2 ||| 1 }), (.storeRead c p, 0x205, p)] →
      Answers i c op r (fun h q a => a.storeHeld { hdr := h, op := op, pkt := q } = true)
        (fun h q a => a.modStore (fun x => { x with waits := x.waits ++ [{ hdr := h, op := op, pkt := q }] }))) ∧
  (∀ (q : Fin 4) (s : State), (s.seqs[q].st = .admitted ∨ s.seqs[q].st = .running) → exec (.pageDemand q) s = .next (
      (s.seqs[q].plan.filter (fun e => !e.past && s.planDue q e)).foldl (fun t e => if t.residentFor q e.page = true ∨ e.page ∈ t.seqs[q].demanded then t else
          (t.modSeq q (fun y => { y with demanded := y.demanded ++ [e.page] })).notice t.seqs[q].hdr.mb t.seqs[q].hdr.ring 0x2F0 t.seqs[q].hdr.context 0 0
            (words [e.page, q.val] ++ le 8 (t.useTime q e / 512) ++ le 8 t.seqs[q].vecs ++ zeros 8) t.nowGHz false)
        (s.modSeq q (fun y => { y with plan := y.plan.map (fun e => if (!e.past && s.planDue q e) = true then { e with past := true } else e) }))))

/-- RING_STATUS answers the ring block. RING_SETUP from SECURE or the only open context, outside a training and with no burst with GLOBAL, takes over enable, DB_LOG2, GDL period and flight times, sets the bypass switches accordingly, and answers OK. RING_TRAIN on a master that is enabled, alone on its ring and idle begins a training and is answered at its end; on any other device it waits for a training. -/
def Obligations.RingCommandsComplete : Prop :=
  (∀ (c : Fin 8) (p : Pkt), Answers (.ringStatus c p) c 0x103 p
      (fun h q a => q.units = 0)
      (fun h q a => a.reply h 0 0 0 a.ringBlock)) ∧
  (∀ (c : Fin 8) (p : Pkt), Answers (.ringSetup c p) c 0x101 p
      (fun h q a => a.sole h = true ∧ a.ring.inTraining = false ∧ a.globalRuns = false ∧ q.units = (if q.isE then 32 else 0) ∧ 16 ≤ q.a0 4 0 ∧ q.a0 4 0 ≤ 30 ∧
        2048 ≤ q.arg1.toNat ∧ q.arg1.toNat ≤ 134217728 ∧ ∀ k, k < 32 → flightOf q k ≤ 1800000)
      (fun h q a => (a.devEvents (a.modBeat (fun b => { b with enable := q.b0 8, dbLog2 := q.a0 4 0, gdlPeriod := q.arg1.toNat, flights := vmap b.flights (fun k _ => flightOf q k.val) })).syncBypass).ok h)) ∧
  (∀ (c : Fin 8) (p : Pkt), Answers (.ringTrain c p) c 0x102 p
      (fun h q a => q.units = 0 ∧ (a.ring.master = true → a.ring.enable = true ∧ a.ring.conflict = false ∧ a.ring.inTraining = false ∧ a.anyRuns = false))
      (fun h q a => if a.ring.master then a.devEvents (a.modBeat (fun b => { b.begin .linking a.metro a.tick with trainHdrs := b.trainHdrs ++ [(h, a.tick, true)] }))
        else a.modBeat (fun b => { b with trainHdrs := b.trainHdrs ++ [(h, a.tick, false)] })))

/-- GONG_CONFIG with OP SOURCE from who may configure the instance, in a form that the rule accepts, replaces the settings of the instances named; OP QUIET sets QUIET_MS; OP NOTICE sets enable, minimum class and ring of the sender's notices; each answers OK and changes nothing else. GONG_READ answers the device block with at most the records asked for from the record number on (from the oldest kept where that record is gone, none where it is yet to come), or with the 32 source entries, and changes nothing. -/
def Obligations.GongCommandsComplete : Prop :=
  (∀ (c : Fin 8) (p : Pkt), Answers (.gongConfigSource c p) c 0xC01 (p.withA0 31 30 0)
      (fun h q a => gongOwns h q a = none ∧ q.units = 0 ∧ gongForm q = none)
      (fun h q a => (a.gongSource h q).ok h)) ∧
  (∀ (c : Fin 8) (p : Pkt), Answers (.gongConfigQuiet c p) c 0xC01 (p.withA0 31 30 1)
      (fun h q a => gongOwns h q a = none ∧ q.units = 0 ∧ gongForm q = none)
      (fun h q a => (a.modGong (fun g => { g with quietMs := q.a2 15 0 })).ok h)) ∧
  (∀ (c : Fin 8) (p : Pkt), Answers (.gongConfigNotice c p) c 0xC01 (p.withA0 31 30 2)
      (fun h q a => gongOwns h q a = none ∧ q.units = 0 ∧ gongForm q = none)
      (fun h q a => (a.modCtx h.mb (fun x => { x with noticeOn := bit q.arg2.toNat 2, noticeMin := q.a2 1 0, noticeRing := h.ring })).ok h)) ∧
  (∀ (c : Fin 8) (p : Pkt), Answers (.gongReadLog c p) c 0xC02 (p.withA0 0 0 0)
      (fun h q a => q.units = 0 ∧ q.a2 12 0 ≤ 4096)
      (fun h q a => a.reply h 0 0 0 (a.gongBlock ++ ((if a.gong.log.any (fun r => r.recseq == q.arg1.toNat) = true then a.gong.log.dropWhile (fun r => r.recseq != q.arg1.toNat)
          else if q.arg1.toNat ≠ 0 ∧ (q.arg1.toNat + (2 ^ 32 - 1) - a.gong.nextRec) % (2 ^ 32 - 1) < 2 ^ 31 then [] else a.gong.log).take (q.a2 12 0)).flatMap GRec.bytes))) ∧
  (∀ (c : Fin 8) (p : Pkt), Answers (.gongReadCounters c p) c 0xC02 (p.withA0 0 0 1)
      (fun h q a => q.units = 0 ∧ q.a2 12 0 ≤ 4096)
      (fun h q a => a.reply h 0 0 0 (a.gongBlock ++ (List.finRange 32).flatMap a.gong.srcEntry)))

/-- A report on its way, oldest first, or one given, reaches the Gong. QUIET_MS without a Fault report and without a Fault condition ends the fault state, counts one recovery of the device and one of each source in the episode, and leaves log, configuration, contexts, sequencers and store alone; before that, and in a Fatal state, nothing happens. A hold from below Fault ends QUIET_MS after the last report of its instance. TICK toggles 500 microseconds apart while the device is ready, not in the fault state, and unheld. A heartbeat restarts its core's watch; a core of a started supervisor that is silent for more than 50 ms is reported as SUP_HANG. -/
def Obligations.GongEventsActAsTheirRulesSay : Prop :=
  (∀ (e : ExtReport) (s : State), (gongScope e.src).isSome = true → exec (.gongReport (some e)) s = .next (s.gongTake
      { src := e.src, inst := e.inst % 65536, dflt := gongDefault e.src, cleared := e.cleared, ts := s.nowSI, d0 := e.d0 % 2 ^ 32, d1 := e.d1 % 2 ^ 32, fine := s.metro })) ∧
  (∀ (s : State) (r : GReport) (rs : List GReport), s.gong.inbox = r :: rs → exec (.gongReport none) s = .next ((s.modGong (fun g => { g with inbox := rs })).gongTake r)) ∧
  (∀ s : State, s.gong.fault = true → s.gong.fatal = false → s.gong.faultCond = false → s.gong.quietFrom + 512 * (4000000 * s.gong.quietMs) ≤ s.metro →
      ∃ t, exec .quietExpire s = .next t ∧ t.gong.fault = false ∧ t.gong.recoveries = min (s.gong.recoveries + 1) (2 ^ 32 - 1) ∧
        t.gong.srcs = vmap s.gong.srcs (fun _ y => if y.inEpisode then { y with recoveries := min (y.recoveries + 1) (2 ^ 32 - 1), inEpisode := false } else y) ∧
        t.gong.log = s.gong.log ∧ t.cfg = s.cfg ∧ t.store = s.store ∧ t.ctxs = s.ctxs ∧ t.seqs = s.seqs) ∧
  (∀ s : State, s.gong.fault = false ∨ s.gong.fatal = true ∨ s.gong.faultCond = true ∨ s.metro < s.gong.quietFrom + 512 * (4000000 * s.gong.quietMs) → exec .quietExpire s = .next s) ∧
  (∀ (src inst : Nat) (s : State), (s.gongInst src inst).holdSafe = true ∨ (s.gongInst src inst).holdTick = true → (s.gongInst src inst).holdHi = false →
      (s.gongInst src inst).lastRep + 512 * (4000000 * s.gong.quietMs) ≤ s.metro → exec (.holdExpire src inst) s =
      .next (State.tickAgain s ((s.modGong (fun g => g.putInst { (s.gongInst src inst) with holdSafe := false, holdTick := false, safePins := 0 })).freeSafe))) ∧
  (∀ s : State, s.power.ready = true → s.gong.fault = false → (∀ i ∈ s.gong.insts, i.holdTick = false) → s.gong.tickAt ≤ s.tick → exec .tickToggle s =
      .next (s.modGong (fun g => { g with tick := !g.tick, tickCount := (g.tickCount + 1) % 65536, tickAt := s.tick + 2000000 }))) ∧
  (∀ (core : Fin 4) (s : State), exec (.heartbeat core) s = .next (s.modGong (fun g => { g with beats := vmod g.beats core (fun _ => s.tick), silent := vmod g.silent core (fun _ => false) }))) ∧
  (∀ (core : Fin 4) (s : State), 3 ≤ s.power.stepDone → s.gong.beats[core] + 200000000 < s.tick → exec (.supHang core) s =
      .next ((s.report 0x04 core.val false s.nowSI 0 0).modGong (fun g => { g with beats := vmod g.beats core (fun _ => s.tick), silent := vmod g.silent core (fun _ => true) })))

/-- With the ring trained, TAP_ROUTE of a free channel or of the sender's, which does not run before or after it, in an accepted form, with producer and consumers that the sender may use, and closing no static cycle (or with an expert's ALLOW_CYCLE that its context has) puts the route in force; with RELEASE the channel is disabled, cleared and given up; TAP_STATUS by the owner answers the channel and its inputs, and with CLEAR clears their counters. -/
def Obligations.TapCommandsComplete : Prop :=
  (∀ (c : Fin 8) (p : Pkt), Answers (.tapRoute c p) c 0x901 (p.withA0 15 15 0)
      (fun h q a => (a.taps.chans[fin 64 (q.a0 5 0)].owner = .none ∨ a.taps.chans[fin 64 (q.a0 5 0)].owner = h.who) ∧
        a.chanRuns a.taps.chans[fin 64 (q.a0 5 0)] = false ∧ a.chanRuns (routeOf h q a.taps.chans[fin 64 (q.a0 5 0)]) = false ∧ q.units = 8 ∧
        routeForm q (routeOf h q a.taps.chans[fin 64 (q.a0 5 0)]) = true ∧ (q.isE = true ∧ q.a3 0 0 = 1 → a.ctxs[h.mb].allowCycle = true) ∧
        a.routeUse h (routeOf h q a.taps.chans[fin 64 (q.a0 5 0)]) = none ∧ a.routeSec (routeOf h q a.taps.chans[fin 64 (q.a0 5 0)]) = true ∧ a.ring.trained = true ∧
        (tapCycle (vmod a.taps.chans (fin 64 (q.a0 5 0)) (fun _ => routeOf h q a.taps.chans[fin 64 (q.a0 5 0)])) (fin 64 (q.a0 5 0)) = none ∨ (q.isE = true ∧ q.a3 0 0 = 1)))
      (fun h q a => a.routeCommit h (fin 64 (q.a0 5 0)) (routeOf h q a.taps.chans[fin 64 (q.a0 5 0)]))) ∧
  (∀ (c : Fin 8) (p : Pkt), Answers (.tapRelease c p) c 0x901 (p.withA0 15 15 1)
      (fun h q a => (a.taps.chans[fin 64 (q.a0 5 0)].owner = .none ∨ a.taps.chans[fin 64 (q.a0 5 0)].owner = h.who) ∧ a.chanRuns a.taps.chans[fin 64 (q.a0 5 0)] = false ∧ q.units = 8)
      (fun h q a => (a.releaseChan (fin 64 (q.a0 5 0))).ok h)) ∧
  (∀ (c : Fin 8) (p : Pkt), Answers (.tapStatus c p) c 0x902 p
      (fun h q a => a.taps.chans[fin 64 (q.a0 5 0)].owner = h.who ∧ q.units = 0)
      (fun h q a => let n := fin 64 (q.a0 5 0)
        let x := a.taps.chans[n]
        (if q.b0 8 then x.consCodes.foldl (fun u k => if k = 0 then u else u.modIn (fin 161 k) (fun y => { y with coalesced := false, overrun := false, acts := 0, coalesce := 0, overrunCnt := 0, idle := 0 }))
            (a.modChan n (fun y => { y with raised := 0, lastTs := {}, lastHop := 0, loopDrops := 0, merged := 0 }))
          else a).replyAt h 0 0 0 (chanEntry n.val x ++ x.consCodes.flatMap a.inEntryOf) a.nowSI))

/-- The oldest raise that has come to the hub enters every enabled channel that it feeds under the route that then holds; two supervisor-island cycles later the taps of a channel that entered in one cycle leave the hub as one, with the earliest origin and the largest hop count, and the rest are counted as merged; a single tap usable at an input that is active and not busy activates it, counted; busy times end; a new level of an event pin reaches the interval units and raises its edge two ticks later with its own tick as origin, or takes back the edge of a level held for less than that; output pulses end low; released output pins return to input. -/
def Obligations.TapEventsFollowTheMatrix : Prop :=
  (∀ (s : State) (r : Raise), s.taps.raises.find? (fun r => decide (s.hubTime r ≤ s.metro)) = some r → exec .tapRaise s =
      .next ((s.chansOf r.prod r.only r.edge).foldl (fun t n =>
        (t.modChan n (fun y => { y with raised := min (y.raised + 1) (2 ^ 32 - 1), lastTs := r.ts, lastHop := r.hop })).modTaps (fun m =>
          { m with hub := m.hub ++ [{ ts := r.ts, hop := r.hop, chan := n, usable := t.hubTime r, consumers := (t.taps.chans[n]).cons.toList.filter (fun e => e.1 != 0) }] }))
        (s.modTaps (fun m => { m with raises := m.raises.erase r })))) ∧
  (∀ (ch : Fin 64) (s u : State) (t0 : Tap), u = s.enterAll → u.taps.hub.find? (fun t => t.chan == ch && decide (t.usable + 2560 ≤ u.metro)) = some t0 →
      exec (.tapHubRoute ch) s = .next (
        let same (t : Tap) : Bool := t.chan == t0.chan && u.cycleOf 1280 t.usable == u.cycleOf 1280 t0.usable
        let l := u.taps.hub.filter same
        (u.modTaps (fun m => { m with hub := m.hub.filter (fun t => !same t), deliver := m.deliver ++ t0.consumers.map (fun e => { ts := earliestTs t0.ts (l.map (fun t => t.ts)), hop := l.foldl (fun m t => max m t.hop) 0, chan := t0.chan, usable := u.consTime e.1 t0.usable, consumers := [e] }) })).modChan t0.chan
          (fun x => { x with merged := min (x.merged + (l.length - 1)) (2 ^ 32 - 1) }))) ∧
  (∀ (i : Fin 161) (s0 s : State) (t0 : Tap), s = s0.moveTaps → s.taps.deliver.find? (fun t => (t.consumers.any (fun e => e.1 == i.val)) && decide (t.usable ≤ s.metro)) = some t0 →
      let same (t : Tap) : Bool := (t.consumers.any (fun e => e.1 == i.val)) && decide (t.usable ≤ s.metro) &&
        s.cycleOf (inPeriod i.val) t.usable == s.cycleOf (inPeriod i.val) t0.usable && (decide (0x0C ≤ i.val) || t.chan == t0.chan)
      let l := if i.val = 0xA0 then [t0] else s.taps.deliver.filter same
      let live := l.filter (fun t => !s.inactive i.val t.chan)
      let u := (s.modTaps (fun m => { m with deliver := if i.val = 0xA0 then s.taps.deliver.erase t0 else s.taps.deliver.filter (fun t => !same t) })).modIn i
        (fun x => { x with idle := min (x.idle + (l.length - live.length)) (2 ^ 32 - 1) })
      (live = [] → exec (.tapActivation i) s0 = .next u) ∧
      (∀ t1 ts, live = t1 :: ts → s.inBusy i.val t1.chan t1.usable = true → exec (.tapActivation i) s0 = .next (live.foldl (fun v t => v.overrun i.val t) u)) ∧
      (∀ t1 ts, live = t1 :: ts → s.inBusy i.val t1.chan t1.usable = false → exec (.tapActivation i) s0 = .next
        ((u.modIn i (fun x => { x with acts := min (x.acts + 1) (2 ^ 32 - 1), coalesced := x.coalesced || decide (1 < live.length), coalesce := if 1 < live.length then min (x.coalesce + live.length) (2 ^ 32 - 1) else x.coalesce })).activate
          (((mergedTap t1 ts).consumers.find? (fun e => e.1 == i.val)).getD (i.val, false, 8)) (mergedTap t1 ts)))) ∧
  (∀ (i : Fin 161) (s : State) (t : Nat), s.taps.ins[i].busyTo = some t → t ≤ s.metro → exec (.consumerBusyEnd i) s = .next (s.modIn i (fun x => { x with busyTo := none }))) ∧
  (∀ (n : Fin 4) (level : Bool) (s : State), s.taps.gates[n].level ≠ level → 7 ≤ s.power.stepDone → exec (.eventPinEdge (.gate n) level) s =
      .next ((({ s with tmus := vmap s.tmus (fun _ x => x.gateEdge n level s.tick) } : State).modTaps (fun m => { m with gates := vmod m.gates n (fun e => { e with level := level }) })).modTaps (fun m => { m with
        raises := if m.raises.any (fun r => r.prod == 0x48 + n.val && decide (s.tick * 512 < r.ts.fine + 1024)) then m.raises.filter (fun r => !(r.prod == 0x48 + n.val && decide (s.tick * 512 < r.ts.fine + 1024)))
          else m.raises ++ [{ prod := 0x48 + n.val, ts := s.nowTick, fine := (s.tick + 2) * 512, edge := some level }] }))) ∧
  (∀ (n : Fin 8) (level : Bool) (s : State), s.taps.ios[n].level ≠ level → s.taps.ios[n].isOut = false → 7 ≤ s.power.stepDone → exec (.eventPinEdge (.io n) level) s =
      .next ((s.modIo n (fun e => { e with level := level })).modTaps (fun m => { m with
        raises := if m.raises.any (fun r => r.prod == 0x50 + n.val && decide (s.tick * 512 < r.ts.fine + 1024)) then m.raises.filter (fun r => !(r.prod == 0x50 + n.val && decide (s.tick * 512 < r.ts.fine + 1024)))
          else m.raises ++ [{ prod := 0x50 + n.val, ts := s.nowTick, fine := (s.tick + 2) * 512, edge := some level }] }))) ∧
  (∀ (n : Fin 8) (s : State) (t : Nat), s.taps.ios[n].pulseTo = some t → t ≤ s.tick → exec (.tapIoPulseEnd n) s = .next (s.modIo n (fun e => { e with out := false, pulseTo := none }))) ∧
  (∀ (n : Fin 8) (s : State) (t : Nat), s.taps.ios[n].releaseBy = some t → exec (.tapIoReturnInput n) s =
      .next (s.modIo n (fun e => { e with isOut := false, driving := false, out := false, pulseTo := none, releaseBy := none })))

/-- In a running burst whose vector due has its line, no fault and no stop, each opcode issues the vector: it is counted and the next one begins one committed period later at the successor of the opcode: CLRF (which clears the fail flag) the next address; RPT itself until it was issued n times; LPB and LPE as the loop stack says; CALL and RET as the call stack says; JMP its operand; JMPF and JMPG the next address with their decision pending; MATCH and a waiting TAPW themselves; TSET the next address with BASE and PF set; SYNC itself until the Downbeat that it aims at, and then one starting there. -/
def Obligations.VectorsFollowTheirOpcodes : Prop :=
  (∀ (q : Fin 4) (s : State) (l : VLine) (u : State), Issues s q 0x01 l u → ∃ t, exec (.rpt q) s = .next t ∧
      (let x := u.seqs[q]; let y := t.seqs[q]; let n := x.nextStart + u.period q; (x.reps + 1 < max 1 l.operand → y.went x x.addr n ∧ y.reps = x.reps + 1) ∧ (¬ x.reps + 1 < max 1 l.operand → y.went x (x.addr + 1) n ∧ y.reps = 0))) ∧
  (∀ (q : Fin 4) (s : State) (l : VLine) (u : State), Issues s q 0x02 l u → ∃ t, exec (.lpb q) s = .next t ∧
      (let x := u.seqs[q]; let y := t.seqs[q]; let n := x.nextStart + u.period q; y.went x (x.addr + 1) n ∧ y.loops = if x.lpbPlain then x.loops else { addr := x.addr, count := max 1 l.operand } :: x.loops)) ∧
  (∀ (q : Fin 4) (s : State) (l : VLine) (u : State), Issues s q 0x03 l u → ∃ t, exec (.lpe q) s = .next t ∧
      (let x := u.seqs[q]; let y := t.seqs[q]; let n := x.nextStart + u.period q; ∀ f fs, x.loops = f :: fs → (1 < f.count → y.went x f.addr n ∧ y.loops = { f with count := f.count - 1 } :: fs ∧ y.lpbPlain = true) ∧ (¬ 1 < f.count → y.went x (x.addr + 1) n ∧ y.loops = fs))) ∧
  (∀ (q : Fin 4) (s : State) (l : VLine) (u : State), Issues s q 0x04 l u → ∃ t, exec (.call q) s = .next t ∧
      (let x := u.seqs[q]; let y := t.seqs[q]; let n := x.nextStart + u.period q; y.went x l.operand n ∧ y.calls = { ret := x.addr + 1, depth := x.loops.length } :: x.calls)) ∧
  (∀ (q : Fin 4) (s : State) (l : VLine) (u : State), Issues s q 0x05 l u → ∃ t, exec (.ret q) s = .next t ∧
      (let x := u.seqs[q]; let y := t.seqs[q]; let n := x.nextStart + u.period q; ∀ f fs, x.calls = f :: fs → y.went x f.ret n ∧ y.calls = fs)) ∧
  (∀ (q : Fin 4) (s : State) (l : VLine) (u : State), Issues s q 0x06 l u → ∃ t, exec (.jmp q) s = .next t ∧
      (let x := u.seqs[q]; let y := t.seqs[q]; let n := x.nextStart + u.period q; y.went x l.operand n ∧ y.loops = x.loops ∧ y.calls = x.calls)) ∧
  (∀ (q : Fin 4) (s : State) (l : VLine) (u : State), Issues s q 0x07 l u → ∃ t, exec (.jmpf q) s = .next t ∧
      (let x := u.seqs[q]; let y := t.seqs[q]; let n := x.nextStart + u.period q; y.went x (x.addr + 1) n ∧ y.dec = .jmpf l.operand)) ∧
  (∀ (q : Fin 4) (s : State) (l : VLine) (u : State), Issues s q 0x08 l u → ∃ t, exec (.jmpg q) s = .next t ∧
      (let x := u.seqs[q]; let y := t.seqs[q]; let n := x.nextStart + u.period q; y.went x (x.addr + 1) n ∧ y.dec = .jmpg (bits l.operand 31 28 == 0) (fin 16 (bits l.operand 27 24)) (relTarget x.addr 24 (bits l.operand 23 0)))) ∧
  (∀ (q : Fin 4) (s : State) (l : VLine) (u : State), Issues s q 0x09 l u → ∃ t, exec (.matchRep q) s = .next t ∧
      (let x := u.seqs[q]; let y := t.seqs[q]; let n := x.nextStart + u.period q; y.went x x.addr n ∧ y.reps = x.reps + 1 ∧ y.wait = .matching ∧ y.dec = .matching (bits l.operand 27 16 * 2 ^ bits l.operand 31 28) (relTarget x.addr 16 (bits l.operand 15 0)) ∧ y.st = x.st)) ∧
  (∀ (q : Fin 4) (s : State) (l : VLine) (u : State), Issues s q 0x0A l u → ∃ t, exec (.tapw q) s = .next t ∧
      (let x := u.seqs[q]; let y := t.seqs[q]; let n := x.nextStart + u.period q; let ch := bits l.operand 29 24
        (x.wait = .tapw → y.went x x.addr n ∧ y.reps = x.reps + 1 ∧ y.wait = .tapw) ∧
        (x.wait ≠ .tapw → x.tapPend.testBit ch = true → y.went x (x.addr + 1) n ∧ y.tapPend = x.tapPend - 2 ^ ch) ∧
        (x.wait ≠ .tapw → x.tapPend.testBit ch = false → y.went x x.addr n ∧ y.wait = .tapw ∧ y.tapwChan = ch ∧ y.dec = .tapw (fin 64 ch) (bits l.operand 23 0)))) ∧
  (∀ (q : Fin 4) (s : State) (l : VLine) (u : State), Issues s q 0x0C l u → ∃ t, exec (.tset q) s = .next t ∧
      (let x := u.seqs[q]; let y := t.seqs[q]; let n := x.nextStart + u.period q; y.went x (x.addr + 1) n ∧ y.base = (if bit l.operand 31 then bits l.operand 5 0 else x.base) ∧ y.pf = (if bit l.operand 30 then fin 4 (bits l.operand 9 8) else x.pf))) ∧
  (∀ (q : Fin 4) (s : State) (l : VLine) (u : State), Issues s q 0x0E l u → ∃ t, exec (.clrf q) s = .next t ∧
      (let x := u.seqs[q]; let y := t.seqs[q]; let n := x.nextStart + u.period q; y.went x (x.addr + 1) n ∧ y.flag = false)) ∧
  (∀ (q : Fin 4) (s : State) (l : VLine) (u : State), Issues s q 0x0F l u → ∃ t, exec (.sync q) s = .next t ∧
      (let x := u.seqs[q]; let y := t.seqs[q]; let n := x.nextStart + u.period q; let aim := if x.wait = .sync then x.syncTo else syncStart u.ring.db x.nextStart (u.period q) (bits l.operand 15 0)
        (n + u.period q ≤ aim → y.went x x.addr n ∧ y.wait = .sync ∧ y.syncTo = aim) ∧
        (¬ n + u.period q ≤ aim → y.went x (x.addr + 1) (max n aim) ∧ y.wait = .none)))

/-- A vector that is due with opcode TAPR, MARK or HALT is issued and counted, and then acts with its own operand: TAPR raises its channel at the start of the vector, MARK gives the capture engines their USER mark, HALT ends the burst with END_REASON 1 one period after the start of the vector. COMMIT_APPLY_AT_VECTOR applies the commits that have reached the sequencer at the vector due. -/
def Obligations.VectorActsFollowTheirVector : Prop :=
  (∀ (q : Fin 4) (s : State) (l : VLine) (u : State), Issues s q 0x0B l u → ∃ w : State,
      (w.seqs[q]).went u.seqs[q] (u.seqs[q].addr + 1) (u.seqs[q].nextStart + u.period q) ∧
      exec (.tapr q) s = .next (w.tapr q (bits l.operand 29 24) u.seqs[q].nextStart)) ∧
  (∀ (q : Fin 4) (s : State) (l : VLine) (u : State), Issues s q 0x0D l u → ∃ w : State,
      (w.seqs[q]).went u.seqs[q] (u.seqs[q].addr + 1) (u.seqs[q].nextStart + u.period q) ∧
      exec (.mark q) s = .next (w.capUser q u.seqs[q].vecs u.seqs[q].addr l.mark l.operand u.seqs[q].nextStart)) ∧
  (∀ (q : Fin 4) (s : State) (l : VLine) (u : State), Issues s q 0x3F l u → ∃ w : State,
      (w.seqs[q]).went u.seqs[q] (u.seqs[q].addr + 1) (u.seqs[q].nextStart + u.period q) ∧
      exec (.halt q) s = .next (w.endBurst q 1 0 (u.seqs[q].nextStart + u.period q) (u.seqs[q].addr + 1) none)) ∧
  (∀ (q : Fin 4) (s : State) (l : VLine) (unw : Option Nat) (sl : Bool), s.seqs[q].st = .running → s.seqs[q].due ≤ s.metro → (s.prepare q).2.2 = .issue l unw sl →
      exec (.commitApplyAtVector q) s = .next (s.applyParts q s.seqs[q].due s.seqs[q].nextStart (some s.seqs[q].vecs)))

/-- GROUP_ASSIGN of groups and a sequencer that are free or the sender's, none of them running, in a Tuning pass or measuring, in a combination that passes the cross-register checks, gives the groups and the sequencer to the sender; with RELEASE the groups that are owned are released; BURST_START by the owner of an idle sequencer, with a descriptor that is present, well formed and admissible, and a start tick, if given, at least 8000 ticks ahead, starts the burst, after the errors that reading the descriptor meets are counted; BURST_STOP sends a stop, or with AT_RESTART a stop at a restart point, that reaches the sequencer 16 ns later unless one of its kind gets there first; SEQ_STATUS answers the snapshot. -/
def Obligations.GroupAndBurstCommandsComplete : Prop :=
  (∀ (c : Fin 8) (p : Pkt), Answers (.groupAssign c p) c 0x301 (p.withA0 15 15 0)
      (fun h q a => (∀ g ∈ pktGrps q, a.grps[g].owner = .none ∨ a.grps[g].owner = h.who) ∧ (a.seqs[assignSeq q].owner = .none ∨ a.seqs[assignSeq q].owner = h.who) ∧
        (a.seqs[assignSeq q].st = .idle ∧ ∀ g ∈ pktGrps q, a.grpRuns g = false ∧ a.tuned g = false) ∧ (∀ g ∈ pktGrps q, a.grpMeasures g = false) ∧ q.units = 0 ∧
        checksAssign a.cfg ((pktGrps q).map (fun g => (g, some (assignSeq q)))) = none)
      (fun h q a => (((pktGrps q).foldl (fun t g => t.assignGrp g (assignSeq q) h.who) (if (pktGrps q).isEmpty then a else a.setSeqOwner (assignSeq q) h.who)).dropIdleSeqs).ok h)) ∧
  (∀ (c : Fin 8) (p : Pkt), Answers (.groupRelease c p) c 0x301 (p.withA0 15 15 1)
      (fun h q a => (∀ g ∈ pktGrps q, a.grps[g].owner = .none ∨ a.grps[g].owner = h.who) ∧ (∀ g ∈ pktGrps q, a.grpRuns g = false ∧ a.tuned g = false) ∧
        (∀ g ∈ pktGrps q, a.grpMeasures g = false) ∧ q.units = 0)
      (fun h q a => (((pktGrps q).filter (fun g => a.grps[g].owner != .none)).foldl (fun t g => (t.releaseGrp g).tmuLoseGroup g) a).ok h)) ∧
  (∀ (c : Fin 8) (p : Pkt), Completes (.burstStart c p) c 0x303 p
      (fun h q a => seqMine h q a ∧ burstBusy h q a = none ∧ (q.isE = true ∨ q.units = if q.b0 7 then 1 else 0) ∧ (q.isE = true → q.b0 7 = true ∨ startTickOf q = 0) ∧ a.globalFail q (pktSeq q) = none ∧
        (∃ d, a.descImage h q = some d ∧ descOk d = true ∧ a.admitFail d (a.cfg.seqs[pktSeq q]).shortest = none) ∧
        (q.b0 7 = true → a.nowSI.tick + 8000 ≤ startTickOf q))
      (fun h q a t => ∃ d, a.descImage h q = some d ∧ t = (a.meetDesc q d).startBurst h q (pktSeq q) d)) ∧
  (∀ (c : Fin 8) (p : Pkt), Answers (.burstStop c p) c 0x304 (p.withA0 8 8 0)
      (fun h q a => seqMine h q a ∧ q.units = 0)
      (fun h q a => a.modSeq (pktSeq q) (fun x => { x with stops := x.stops ++ [(h, a.metro + 16 * 2048, false)], stopReq := earlier x.stopReq (a.metro + 16 * 2048) }))) ∧
  (∀ (c : Fin 8) (p : Pkt), Answers (.burstStopAtRestart c p) c 0x304 (p.withA0 8 8 1)
      (fun h q a => seqMine h q a ∧ q.units = 0)
      (fun h q a => a.modSeq (pktSeq q) (fun x => { x with stops := x.stops ++ [(h, a.metro + 16 * 2048, true)], restartReq := earlier x.restartReq (a.metro + 16 * 2048) }))) ∧
  (∀ (c : Fin 8) (p : Pkt), Answers (.seqStatus c p) c 0x305 p
      (fun h q a => q.units = 0)
      (fun h q a => a.reply h 0 0 0 (a.seqBlock (pktSeq q))))

/-- When the issue time of vector 0 of an admitted burst has come, the burst runs with empty stacks, BASE 0, PF0 and a clear fail flag; the address, the start, the owner and the command of the burst stay. Vector 0, as it is issued, stages the START record where a log is kept. When a burst has ended, every result of it is in, the engines have taken it and no final entry waits, its final entry is formed with the status of its end and the end record, in the ring of BURST_START if it is still there. Requests that have reached the sequencer are answered with RUNNING. -/
def Obligations.BurstEventsActAsTheirRulesSay : Prop :=
  (∀ (q : Fin 4) (s : State), s.seqs[q].st = .admitted → s.seqs[q].due ≤ s.metro → ∃ u : State, exec (.burstVector0 q) s = .next u ∧
      (let x := s.seqs[q]; let y := u.seqs[q]; y.st = .running ∧ y.loops = [] ∧ y.calls = [] ∧ y.base = 0 ∧ y.pf = 0 ∧ y.flag = false ∧ y.firstFlag = 2 ^ 64 - 1 ∧
        y.addr = x.addr ∧ y.nextStart = x.nextStart ∧ y.hdr = x.hdr ∧ y.owner = x.owner)) ∧
  (∀ (q : Fin 4) (s : State) (sl : Bool), (s.cfg.seqs[q]).logMode ≠ 0 → s.flogs[q].lost = none → s.flogs[q].staging.length < 2048 →
      ((s.vectorZero q sl).flogs[q]).staging = s.flogs[q].staging ++ [{ ts := { fine := s.seqs[q].startFine, flags := s.tsFlags 1 false false false }, type := 2, sealed := s.seqs[q].sealedVec.isSome || sl, seq := q, addr := s.seqs[q].startVa, vec := 0, usable := s.seqs[q].startFine + 8 * 2048 }]) ∧
  (∀ (q : Fin 4) (s : State), s.seqs[q].st = .ending → issueAt s.seqs[q].endFine ≤ s.metro → s.resultsIn q = true → s.capTaken q = true → s.finalQueued q = false → exec (.burstFinal q) s =
      .next (let u := s.capBurstEnd q; let h := s.seqs[q].hdr
        if (u.ctxs[h.mb].rings[h.ring]).isOpen && !h.gone then
          u.pushEntry h.mb h.ring { hdr := h, status := s.seqs[q].finalStatus.1, sub := s.seqs[q].finalStatus.2, ts := u.nowSI, payload := u.endRecord q, finishes := true, ends := some q }
        else u.releaseGone q)) ∧
  (∀ (q : Fin 4) (s : State), exec (.stopRequestArrive q) s =
      .next ((s.seqs[q].stops.filter (fun e => decide (e.2.1 ≤ s.metro))).foldl (fun t e => t.reply e.1 0 0 (if s.seqs[q].st = .idle then 0 else 1) [])
        (s.modSeq q (fun y => { y with stops := y.stops.filter (fun e => !decide (e.2.1 ≤ s.metro)) }))))

/-- Sent by the owner of the group in a form that their rule accepts: REFLEX_SET with QUERY answers sixteen status entries; GUARD_SET writes the guards of the pins selected, with CLEAR clears their latches, with QUERY answers the status block; PPMU_SET writes the entries, which take the driver off unless their mode is off, and lets a waiting measurement start; PPMU_MEASURE of pins whose PPMU is on, LEVEL_MEASURE and COMP_CHECK SWAP and TIE join the measurements of the group, each starting at once when the group measures nothing; COMP_CHECK STATUS answers the status block. -/
def Obligations.AnalogCommandsComplete : Prop :=
  (∀ (c : Fin 8) (p : Pkt), Answers (.reflexQuery c p) c 0x502 (p.withA0 15 15 1)
      (fun h q a => groupMine h q a ∧ q.units = 0)
      (fun h q a => a.reply h 0 0 0 ((List.finRange 16).flatMap (fun e => a.reflexEntry (pinOf (pktGroup q) e))))) ∧
  (∀ (c : Fin 8) (p : Pkt), Answers (.guardSet c p) c 0x505 (p.withA0 15 14 0)
      (fun h q a => groupMine h q a ∧ guardForm q = none)
      (fun h q a => (a.modEntries (pktGroup q) (pktMask q) (fun e x => x.guardWrite (entryAt 16 q.body e))).ok h)) ∧
  (∀ (c : Fin 8) (p : Pkt), Answers (.guardClear c p) c 0x505 (p.withA0 14 14 1)
      (fun h q a => groupMine h q a ∧ guardForm q = none ∧ q.b0 15 = false)
      (fun h q a => (a.modEntries (pktGroup q) (pktMask q) (fun _ x => x.guardClear a.tick)).ok h)) ∧
  (∀ (c : Fin 8) (p : Pkt), Answers (.guardQuery c p) c 0x505 (p.withA0 15 15 1)
      (fun h q a => groupMine h q a ∧ guardForm q = none)
      (fun h q a => ({ a with free := a.free + 51 }).reply h 0 0 0 (a.statusBlock (pktGroup q)))) ∧
  (∀ (c : Fin 8) (p : Pkt), Answers (.ppmuSet c p) c 0x506 p
      (fun h q a => groupMine h q a ∧ ppmuBusy h q a = none ∧ ppmuForm q = none)
      (fun h q a => ((a.modEntries (pktGroup q) (pktMask q) (fun e x =>
        let n := ppmuEntry q.isE (entryAt 32 q.body e)
        let y := { x with ppmu := { n with wroteTick := a.nowSI.tick, settled := n.mode == 0 } }
        if n.mode = 0 then y else ({ y with on := false } : Pin).replan)).startMeas (pktGroup q)).ok h)) ∧
  (∀ (c : Fin 8) (p : Pkt), Answers (.ppmuMeasure c p) c 0x507 p
      (fun h q a => groupMine h q a ∧ q.units = 0 ∧ (∀ e ∈ entriesOf (pktMask q), a.pins[pinOf (pktGroup q) e].ppmu.mode ≠ 0) ∧ 1 ≤ q.a2 16 0 ∧ q.a2 16 0 ≤ 65536)
      (fun h q a => let b := a.modGrp (pktGroup q) (fun x => { x with jobs := x.jobs ++ [.ppmu { hdr := h, mask := pktMask q, samples := q.a2 16 0 }] })
        if a.grps[pktGroup q].jobs = [] then b.startJob (pktGroup q) else b)) ∧
  (∀ (c : Fin 8) (p : Pkt), Answers (.levelMeasureRamp c p) c 0x508 (p.withA0 17 16 0)
      (fun h q a => groupMine h q a ∧ levelBusy h q a = none ∧ levelForm q = none)
      (fun h q a => let m : LevMeas := { hdr := h, pin := levPin q, slope := false, sel := q.b0 12, keepHyst := q.b0 20, vStart := sext 32 q.arg1.toNat, vEnd := sext 32 q.arg2.toNat, rate := q.a3 15 0, ramps := q.a3 31 16, count := q.arg1.toNat, timeout := q.arg2.toNat }
        let b := a.modGrp (pktGroup q) (fun x => { x with jobs := x.jobs ++ [.level m] })
        if a.grps[pktGroup q].jobs = [] then b.startJob (pktGroup q) else b)) ∧
  (∀ (c : Fin 8) (p : Pkt), Answers (.levelMeasureSlope c p) c 0x508 (p.withA0 17 16 1)
      (fun h q a => groupMine h q a ∧ levelForm q = none)
      (fun h q a => let m : LevMeas := { hdr := h, pin := levPin q, slope := true, sel := q.b0 12, keepHyst := q.b0 20, vStart := sext 32 q.arg1.toNat, vEnd := sext 32 q.arg2.toNat, rate := q.a3 15 0, ramps := q.a3 31 16, count := q.arg1.toNat, timeout := q.arg2.toNat }
        let b := a.modGrp (pktGroup q) (fun x => { x with jobs := x.jobs ++ [.level m] })
        if a.grps[pktGroup q].jobs = [] then b.startJob (pktGroup q) else b)) ∧
  (∀ (c : Fin 8) (p : Pkt), Answers (.compCheckStatus c p) c 0x509 (p.withA0 17 16 0)
      (fun h q a => groupMine h q a ∧ q.units = 0)
      (fun h q a => ({ a with free := a.free + 51 }).reply h 0 0 0 (a.statusBlock (pktGroup q)))) ∧
  (∀ (c : Fin 8) (p : Pkt), Answers (.compCheckSwap c p) c 0x509 (p.withA0 17 16 1)
      (fun h q a => groupMine h q a ∧ checkBusy h q a = none ∧ q.units = 0)
      (fun h q a => let b := a.modGrp (pktGroup q) (fun x => { x with jobs := x.jobs ++ [.check { hdr := h, tie := false, mask := q.a1 16 0 }] })
        if a.grps[pktGroup q].jobs = [] then b.startJob (pktGroup q) else b)) ∧
  (∀ (c : Fin 8) (p : Pkt), Answers (.compCheckTie c p) c 0x509 (p.withA0 17 16 2)
      (fun h q a => groupMine h q a ∧ checkBusy h q a = none ∧ q.units = 0)
      (fun h q a => let b := a.modGrp (pktGroup q) (fun x => { x with jobs := x.jobs ++ [.check { hdr := h, tie := true, mask := q.a1 16 0 }] })
        if a.grps[pktGroup q].jobs = [] then b.startJob (pktGroup q) else b))

/-- The oldest placed drive event of a pin, once its time has come, completes: an assignment turns the driver ON at its level, a release turns it OFF, and a turn-on keeps the level of a driver that is ON, unless a guard, safe pins or the PPMU hold the driver, which then changes nothing; before its time nothing happens. A crossing that can occur, in order and due, completes: it is recorded with the vector it falls in, changes the output of its comparator (or the one before an enable still to come), and meets the sixteen reflex units of its group in turn. ARM_WINDOW_CLOSE keeps exactly the windows whose close has not come. 200 ns after its enable a comparator becomes valid on the side of its input. A guard that is enabled and not latched trips its pin, drive events of the same tick without effect, is reported as GUARD_TRIP and raises its group's tap, or arms. -/
def Obligations.PinEventsActAsTheirRulesSay : Prop :=
  (∀ (p : Fin 128) (s : State) (e : DrvEv) (es : List DrvEv), s.pins[p].driveQ = e :: es → e.fine / 512 ≤ s.tick → ∃ t : State, exec (.driveEvent p) s = .next t ∧
      (let x := s.pins[p]
       let y := t.pins[p]
       (x.blocked = true → e.act.isFrame = false → y.on = x.on ∧ y.level = x.level ∧ y.driven = x.driven ∧ y.lastCode = x.lastCode) ∧
       (x.blocked = false → (∀ l, e.act = .assign l → y.on = true ∧ y.level = l ∧ y.driven = true) ∧
         (∀ c, e.act = .release c → y.on = false ∧ y.level = x.level ∧ y.lastCode = c) ∧
         (∀ o, e.act = .turnOn o → y.on = true ∧ y.level = (if x.on then x.level else o.getD x.level)))) ∧
      (∀ r : Fin 128, r ≠ p → t.pins[r] = s.pins[r]) ∧ t.seqs = s.seqs ∧ t.ctxs = s.ctxs ∧ t.cfg = s.cfg ∧ t.grps = s.grps ∧ t.metro = s.metro) ∧
  (∀ (p : Fin 128) (s : State), (∀ e ∈ s.pins[p].driveQ.head?, s.tick < e.fine / 512) → exec (.driveEvent p) s = .next s) ∧
  (∀ (p : Fin 128) (voh rising : Bool) (t : Nat) (s : State), (if voh then s.pins[p].voh else s.pins[p].vol).canCross rising t = true → (∀ c ∈ s.pins[p].crosses.head?, c.t ≤ t) → t / 512 ≤ s.tick →
      ∃ (u : State) (x : Cross), x = { t := t, voh := voh, rising := rising, vec := (s.grps[grpOf p].seq.bind (fun q => s.seqs[q].vecAt t)).map (fun r => r.vec) } ∧
        exec (.comparatorCrossing p voh rising t) s = .next (forFin 16 (fun e u => u.reflexMeet p (pinOf (grpOf p) e) x) u) ∧
        (u.pins[p]).crosses = x :: s.pins[p].crosses ∧
        (let k := if voh then (u.pins[p]).voh else (u.pins[p]).vol
         let j := if voh then s.pins[p].voh else s.pins[p].vol
         if t < j.enabledAt then k.prev = (if rising then .high else .low) ∧ k.out = j.out else k.out = (if rising then .high else .low)) ∧
        (∀ r : Fin 128, r ≠ p → u.pins[r] = s.pins[r]) ∧ u.metro = s.metro ∧ u.seqs = s.seqs ∧ u.cfg = s.cfg) ∧
  (∀ (p : Fin 128) (s : State), ∃ t : State, exec (.armWindowClose p) s = .next t ∧
      t = s.modPin p (fun x => { x with reflex := { x.reflex with wins := (t.pins[p]).reflex.wins } }) ∧
      (∀ w, w ∈ (t.pins[p]).reflex.wins ↔ w ∈ s.pins[p].reflex.wins ∧ ∀ c, s.pins[p].winClose w = some c → s.tick < c / 512)) ∧
  (∀ (p : Fin 128) (voh above : Bool) (s : State), let k := if voh then s.pins[p].voh else s.pins[p].vol
      k.out = .invalid → k.off = false → 7 ≤ s.power.stepDone → (k.enabledAt + 200 * 2048) / 512 ≤ s.tick → exec (.comparatorValid p voh above) s =
      .next (s.modPin p (fun x => let y := { k with out := if above then .high else .low, validAt := max s.metro (k.enabledAt + 200 * 2048) }; if voh then { x with voh := y } else { x with vol := y }))) ∧
  (∀ (p : Fin 128) (g : Guard) (s : State), 7 ≤ s.power.stepDone → s.pins[p].guardOn g = true → (s.pins[p].guard g).latched = false → ∃ t u : State, exec (.guardTrip p g) s = .next t ∧
      t = (u.report 0x12 (pinInst p) false (s.tsPin (grpOf p) (s.tick * 512) 0 false) (guardNo g) 0).raise (0x18 + (grpOf p).val) (s.tsPin (grpOf p) (s.tick * 512) 0 false) 0 none none ∧
      (let x := s.pins[p]
       let y := u.pins[p]
       (y.guard g).latched = true ∧ y.on = false ∧ y.lastCode = .k ∧ y.reflex.offBurst = true ∧ y.trips = min (x.trips + 1) (2 ^ 32 - 1) ∧
         (x.drvTick = some s.tick → y.level = x.preLevel) ∧ (x.drvTick ≠ some s.tick → y.level = x.level)) ∧
      (∀ r : Fin 128, r ≠ p → u.pins[r] = s.pins[r]) ∧ u.seqs = s.seqs ∧ u.cfg = s.cfg ∧ u.ctxs = s.ctxs) ∧
  (∀ (p : Fin 128) (g : Guard) (s : State), 7 ≤ s.power.stepDone → s.pins[p].guardOn g = true → (s.pins[p].guard g).latched = false →
      exec (.guardArmed p g) s = .next (s.modPin p (fun x => x.modGuard g (fun y => { y with armed := true }))))

/-- A PPMU entry settles after its settling time and lets the waiting measurement start. A PPMU measurement whose conversions are done, a SLOPE measurement whose edges are in or whose timeout has come, a RAMP measurement after its ramps, and a self-check after 40 or 120 microseconds each complete: the measurement leaves its group, its response waits in its ring, comparators that it took are enabled again, and the next measurement of the group begins. A response value that no sample, no pair or a zero interval leaves open is a free value (log 62). -/
def Obligations.MeasurementsEndWithTheirResponse : Prop :=
  (∀ (p : Fin 128) (s : State), s.pins[p].ppmu.mode ≠ 0 → s.pins[p].ppmu.settled = false → s.pins[p].ppmu.wroteTick + 4000 * s.pins[p].ppmu.settling ≤ s.tick →
      exec (.ppmuSettled p) s = .next ((s.modPin p (fun y => { y with ppmu := { y.ppmu with settled := true } })).startMeas (grpOf p))) ∧
  (∀ (g : Fin 8) (samples : List (List Sample)) (s : State) (m : Meas) (js : List MeasJob) (t : Nat), s.grps[g].jobs = .ppmu m :: js → m.started = some t → samples.length = (entriesOf m.mask).length →
      (∀ l ∈ samples, l.length = m.samples) → t + 4000 * ((entriesOf m.mask).length * (5 + m.samples)) ≤ s.tick → exec (.ppmuMeasureDone g samples) s =
      .next ((((({ s with free := s.free + 3 * (entriesOf m.mask).length } : State).modGrp g (fun x => { x with jobs := js })).pushEntry m.hdr.mb m.hdr.ring { hdr := m.hdr, ts := s.nowSI, payload := ((entriesOf m.mask).zip samples).zipIdx.flatMap (fun (y : (Fin 16 × List Sample) × Nat) => s.measPin g t m.samples y.2 y.1.1 y.1.2), wrap := m.hdr.isS, finishes := true, locks := some (g, m.mask) }).startJob g).resumeAssign g)
) ∧
  (∀ (g : Fin 8) (ramps : List (Option Nat)) (s : State) (m : LevMeas) (js : List MeasJob), s.grps[g].jobs = .level m :: js → m.slope = true → m.count ≤ m.dts.length ∨ m.startTick + 4000 * m.timeout ≤ s.tick →
      ∃ (u : State) (m1 : LevMeas), u = s.lastEdges m.pin ∧ u.grps[g].jobs = .level m1 :: js ∧ m1.hdr = m.hdr ∧ m1.count = m.count ∧ exec (.levelMeasureDone g ramps) s =
      .next ((((({ u with free := s.free + 3 } : State).modGrp g (fun x => { x with jobs := js })).pushEntry m.hdr.mb m.hdr.ring { hdr := m.hdr, ts := s.nowSI, payload := m1.slopeReply s.free, wrap := m.hdr.isS, finishes := true }).startJob g).resumeAssign g)
) ∧
  (∀ (g : Fin 8) (ramps : List (Option Nat)) (s : State) (m : LevMeas) (js : List MeasJob), s.grps[g].jobs = .level m :: js → m.slope = false → ramps.length = m.ramps → (∀ d, some d ∈ ramps → d ≤ m.sweep) →
      m.startTick * 512 + m.ramps * (1000 * 2048 + m.sweep) ≤ s.metro → exec (.levelMeasureDone g ramps) s =
      .next (((((s.modPin m.pin (fun y => if m.sel then { y with vol := y.vol.enable s.metro } else { y with voh := y.voh.enable s.metro })).modGrp g (fun x => { x with jobs := js })).pushEntry m.hdr.mb m.hdr.ring { hdr := m.hdr, ts := s.nowSI, payload := m.rampReply ramps, wrap := m.hdr.isS, finishes := true }).startJob g).resumeAssign g)
) ∧
  (∀ (g : Fin 8) (errs : List (Int × Int)) (s : State) (m : CompChk) (js : List MeasJob), s.grps[g].jobs = .check m :: js → errs.length = (chansOfMask m.mask).length →
      m.startTick + 4000 * (if m.tie then 120 else 40) ≤ s.tick → ∃ u : State, u = ((chansOfMask m.mask).zip errs).foldl (fun t x => t.checkReport g x.1 x.2) ((chansOfMask m.mask).foldl (fun t k => t.modChanPin g k (fun y => y.enableComps t.metro)) s) ∧
      exec (.compCheckDone g errs) s = .next (((((u.modGrp g (fun x => { x with jobs := x.jobs.drop 1 })).pushEntry m.hdr.mb m.hdr.ring
        { hdr := m.hdr, ts := s.nowSI, payload := ((chansOfMask m.mask).zip errs).flatMap (fun x => checkEntry x.1 x.2), wrap := m.hdr.isS, finishes := true }).startJob g).resumeAssign g)))

/-- A strobe that is due yields its result byte, joins the fail record of its pin if it is a counted fail, and reaches the sequencer of its group, raising FAIL_Gg where it is flag-setting; results 14 ns old reach the flag in the order of their closes; results that have come to the capture island update the Fail Map, vector by vector, then go to the Fail Log and the engines, and then edges and finished vectors; a FLOG slot moves the staged records of the sequencer in turn into its sub-ring. FAIL_READ answers sixteen fail records (sealed ones only to a sealed command); FAILMAP_READ of an aligned range in the map answers it and, with SIZE 0, the status; FAILLOG_DRAIN answers its status at once when there is nothing to drain or no size asked for, and is queued otherwise. -/
def Obligations.CompareAndFailCommandsComplete : Prop :=
  (∀ (c : Fin 8) (p : Pkt), Answers (.failRead c p) c 0x602 p
      (fun h q a => groupMine h q a ∧ q.units = 0 ∧ (a.grpSealed (pktGroup q) = false ∨ h.isS = true))
      (fun h q a => a.reply h 0 0 0 ((List.finRange 16).flatMap (fun e => (a.pins[pinOf (pktGroup q) e].fail).bytes)))) ∧
  (∀ (c : Fin 8) (p : Pkt), Answers (.failmapRead c p) c 0x603 p
      (fun h q a => seqMine h q a ∧ q.units = 0 ∧ q.arg1.toNat % 64 = 0 ∧ q.arg3.toNat % 64 = 0 ∧ q.arg3.toNat ≤ 8388608 ∧ q.arg3.toNat ≠ 0 ∧ q.arg1.toNat + q.arg3.toNat ≤ (a.cfg.seqs[pktSeq q]).mapBytes ∧
        (a.fmaps[pktSeq q].sealed = false ∨ h.isS = true))
      (fun h q a => a.mapRead h (pktSeq q) q.arg1.toNat q.arg3.toNat)) ∧
  (∀ (c : Fin 8) (p : Pkt), Answers (.failmapStatus c p) c 0x603 { p with arg3 := 0 }
      (fun h q a => seqMine h q a ∧ q.units = 0 ∧ q.arg1.toNat % 64 = 0 ∧ q.arg1.toNat ≤ (a.cfg.seqs[pktSeq q]).mapBytes)
      (fun h q a => a.reply h 0 0 0 (a.mapStatus (pktSeq q)))) ∧
  (∀ (c : Fin 8) (p : Pkt), Answers (.faillogDrain c p) c 0x604 p
      (fun h q a => seqMine h q a ∧ q.units = 0)
      (fun h q a => if q.arg1.toNat = 0 ∨ (a.flogs[pktSeq q].drains = [] ∧ a.flogs[pktSeq q].ring = []) then a.reply h 0 0 0 (a.logStatus (pktSeq q) 0)
        else a.modFlog (pktSeq q) (fun f => { f with drains := f.drains ++ [{ hdr := h, left := q.arg1.toNat }] }))) ∧
  (∀ (p : Fin 128) (s : State) (e : StrobeEv) (es : List StrobeEv), s.pins[p].strobeQ = e :: es → (e.closes + 4096) / 512 ≤ s.tick → exec (.strobe p) s =
      .next (let o := s.pins[p].outcome e s.free
        let byte := resultByte e.code o.cls e.masked e.isMatch o.h o.l
        let s0 := { s with free := o.free }
        let ts := s0.tsPin (grpOf p) o.t o.src e.clash
        let s1 := s0.modPin p (fun x => { x with strobeQ := es, fail := if countedFail byte then x.freshen.fail.add e byte ts else x.freshen.fail, stale := false, sealNext := false })
        match s.grps[grpOf p].seq with
        | none => s1
        | some q =>
          let fr : FlagRes := { vec := e.vec, ts := ts, close := e.closes, isFail := (o.cls == 1 || o.cls == 2) && !e.masked, isMatch := e.isMatch, noflag := e.noflag, expects := e.code != .cp && !e.masked, grp := grpOf p }
          let cr : CapRes := { pin := p, result := byte, beat := e.beat, ts := ts, close := e.closes, vec := e.vec, addr := e.addr, mark := e.mark, beatLog2 := e.beatLog2, noflag := e.noflag, sealed := e.sealed, vstart := e.vstart }
          let s2 := s1.modSeq q (fun x => { x with strobesOut := x.strobesOut - 1, results := x.results ++ [fr], capQ := x.capQ ++ [cr] })
          if flagSetting s2.seqs[q] fr then s2.raiseFailG q (grpOf p) e.vec e.closes ts else s2)) ∧
  (∀ (q : Fin 4) (s : State), exec (.failFlagSet q) s = .next ((sortBy (fun r => r.close) (s.seqs[q].results.filter (fun r => decide (r.close + 14 * 2048 ≤ s.tick * 512 + 511)))).foldl (fun u r => u.absorbOne q r)
      (s.modSeq q (fun x => { x with results := x.results.filter (fun r => !decide (r.close + 14 * 2048 ≤ s.tick * 512 + 511)) })))) ∧
  (∀ s : State, s.slotFree = true → s.slot ∈ [4, 20, 36, 52] → ∀ q, s.flogTurn = some q → exec .flogSlotDrain s =
      .next { (s.flogReady q).foldl (fun t r => t.ringRec q r) (s.useSlot.modFlog q (fun f => { f with staging := f.staging.drop (s.flogReady q).length })) with flogNext := q + 1 }) ∧
  (∀ (q : Fin 4) (s : State), exec (.resultToCapture q) s = .next (
      let rs := sortBy (fun (r : CapRes) => r.close) (s.seqs[q].capQ.filter (fun r => s.due (r.close + 14 * 2048)))
      let s1 := s.modSeq q (fun x => { x with capQ := x.capQ.filter (fun r => !s.due (r.close + 14 * 2048)) })
      let s2 := (sortNat (rs.map (fun r => r.vec))).foldl (fun t v => t.mapUpdate q (rs.filter (fun r => r.vec == v))) s1
      let s3 := rs.foldl (fun t r => (t.takers q).foldl (fun u i => u.capResult i r) (t.logFail q r)) s2
      let s4 := (s3.pinsOf q).foldl (fun t p => t.capEdges q p) s3
      (s4.takers q).foldl (fun t i => t.capVecs q i) s4))

/-- CAP_ARM of an engine of the sender that is not armed, with lanes, pins that the sender owns, segment space and slots, arms it from the next Bar; CAP_DISARM of a held engine disarms it, and of a free one only releases it if asked; CAP_QUERY answers the status block. The engine becomes READY, or waits for its tap, at its first Bar, with a mark; its pattern is evaluated while it is armed and its burst runs; AUTO triggers after AUTO_US; a capture ends after its last post-trigger vector or with its burst; the engine is READY 64 ns later; a drained SINGLE capture disarms; the ladder steps down at a Bar start when a store or the staging is too full and 16 Bars have passed since the last step down; a CAP slot writes staged items. -/
def Obligations.CaptureCommandsComplete : Prop :=
  (∀ (c : Fin 8) (p : Pkt), Answers (.capArm c p) c 0x702 p
      (fun h q a => a.caps[pktEng q].owner = h.who ∧ a.caps[pktEng q].held = false ∧ q.units = 0 ∧ (a.cfg.caps[pktEng q]).lanes ≠ 0 ∧ a.seqs[(a.cfg.caps[pktEng q]).seq].owner = h.who ∧
        a.ownsPins (a.cfg.caps[pktEng q]).seq ((a.cfg.caps[pktEng q]).selPins ||| (a.cfg.caps[pktEng q]).care) = true ∧ (a.caps.toList.map (fun e => e.segHeld)).sum + (a.cfg.caps[pktEng q]).seg ≤ a.store.capUnits * 16 ∧
        (a.cfg.caps[pktEng q]).kCap ≤ min (16 - a.capHeld) a.placeable)
      (fun h q a => let i := pktEng q; let k := a.cfg.caps[i]; let tick := (a.tick / 256 + 1) * 256
        let b := a.modCap i (fun e => { owner := e.owner, admitted := true, armOnTap := q.b0 9, hdr := some h, slots := a.placeSlots k.kCap, segHeld := k.seg, kHeld := k.kCap, armTick := tick, endCause := e.endCause, stateTick := e.stateTick, level := k.startLevel, lastStep := tick })
        b.pushEntry h.mb h.ring { hdr := h, more := true, ts := a.nowSI, payload := armRecord i k tick })) ∧
  (∀ (c : Fin 8) (p : Pkt), Answers (.capDisarm c p) c 0x703 (p.withA0 10 10 0)
      (fun h q a => a.caps[pktEng q].owner = h.who ∧ q.units = 0)
      (fun h q a => let i := pktEng q
        if a.caps[i].held then (a.modCap i (fun x => { x with disarms := x.disarms ++ [h], releaseAfter := x.releaseAfter || q.b0 8 })).capDisarm i 0 (q.b0 9)
        else (if q.b0 8 then a.modCap i Cap.released else a).ok h)) ∧
  (∀ (c : Fin 8) (p : Pkt), Answers (.capQuery c p) c 0x703 (p.withA0 10 10 1)
      (fun h q a => a.caps[pktEng q].owner = h.who ∧ q.units = 0)
      (fun h q a => a.reply h 0 0 0 (a.capBlock (pktEng q)))) ∧
  (∀ (i : Fin 8) (s : State), s.caps[i].admitted = true → s.caps[i].armTick ≤ s.tick → ∃ u : State, exec (.capArmed i) s = .next (u.putMark i (s.tickTs (s.caps[i].armTick * 512)) 0x19 0
        ((s.seqs[(s.cfg.caps[i]).seq].hist.find? (fun r => decide (r.start ≤ s.caps[i].armTick * 512))).map (fun r => r.vec)) 0 0) ∧
      (u.caps[i]).admitted = false ∧ (u.caps[i]).stateTick = s.caps[i].armTick ∧ (u.caps[i]).st = (if s.caps[i].armOnTap then .waitTap else .ready)) ∧
  (∀ (i : Fin 8) (s : State), s.caps[i].armed = true → s.capRuns i = true → exec (.triggerEval i) s =
      .next (let u := (s.capSync (s.cfg.caps[i]).seq).rearmed i
        (List.range (u.evalsDue i)).foldl (fun t _ => if (s.cfg.caps[i]).trigRaw then t.evalRaw (s.cfg.caps[i]).seq i else t.evalResult (s.cfg.caps[i]).seq i) u)) ∧
  (∀ (i : Fin 8) (s : State), let u := s.trigEval i
      (u.cfg.caps[i]).mode = 2 → (u.caps[i]).st = .ready → (u.caps[i]).readyTick + 4000 * (u.cfg.caps[i]).autoUs ≤ u.tick → exec (.autoTrigger i) s = .next (u.forced i u.nowGHz false true 0 (u.edge 2048))) ∧
  (∀ (i : Fin 8) (s : State), s.caps[i].st = .post → let u := s.capSync (s.cfg.caps[i]).seq
      (u.caps[i]).st = .post → ((u.caps[i]).postVec < (u.caps[i]).vecsIn →
        exec (.captureEnd i) s = .next (u.capEnd i 0 (some (u.caps[i]).postVec) (u.startTs i ((u.caps[i]).postVec + 1)
          ((((u.seqs[(s.cfg.caps[i]).seq]).vecRec (u.caps[i]).postVec).map (fun r => r.fin)).getD (u.seqs[(s.cfg.caps[i]).seq]).nextStart)))) ∧
      (¬ (u.caps[i]).postVec < (u.caps[i]).vecsIn → (u.seqs[(s.cfg.caps[i]).seq]).st ≠ .running → (u.seqs[(s.cfg.caps[i]).seq]).st ≠ .admitted → (u.seqs[(s.cfg.caps[i]).seq]).vecs ≤ (u.caps[i]).vecsIn →
        exec (.captureEnd i) s = .next (u.capEnd i 1 (some ((u.seqs[(s.cfg.caps[i]).seq]).vecs - 1)) (u.tickTs (u.seqs[(s.cfg.caps[i]).seq]).endFine)))) ∧
  (∀ (i : Fin 8) (s : State), s.caps[i].st = .rearm → s.caps[i].rearmAt ≤ s.tick → exec (.rearmDone i) s =
      .next (let u := s.capSync (s.cfg.caps[i]).seq; if s.caps[i].armOnTap then u.modCap i (fun x => { x with st := .waitTap }) else u.capReady i)) ∧
  (∀ (i : Fin 8) (s : State), s.caps[i].st = .done → s.caps[i].undrained = false → exec (.singleDrained i) s = .next (s.capDisarm i 2 false)) ∧
  (∀ (i : Fin 8) (s : State), s.caps[i].armed = true → s.tick % 256 = 0 → s.caps[i].missedBar = s.tick / 256 →
      let e := s.caps[i]; let high := decide (3 * e.room < 4 * e.ringUnits)
      (high = true ∨ 1536 < e.stageUnits) → e.level < 3 → (∀ b, e.lastDown = some b → b + 16 ≤ s.tick / 256) → ∃ u : State,
        exec (.ladderEval i) s = .next (u.ladderStep i (if high then 0 else 1) (e.level + 1)) ∧ (u.caps[i]).level = e.level ∧ u.metro = s.metro ∧ u.cfg = s.cfg) ∧
  (∀ (i : Fin 8) (s : State), s.slotFree = true → s.slot ∈ s.caps[i].slots → s.caps[i].staging ≠ [] → exec (.capSlotWrite i) s = .next (s.useSlot.modCap i (fun x => (x.writeUnits 32 32).noteFill)))

/-- TMU_CONFIG of a free unit or the sender's, not armed, in an accepted form over pins of the sender, takes effect at once; TMU_ARM of a configured idle unit with free lanes enters SETTING with its counters clear; DISARM and RELEASE answer whether it ran; TMU_RESULT answers the status and up to 256 last results. A unit is READY with fresh codes 16 ns after it enters SETTING (a code span off by more than 3 % is flagged); what is on its way to a unit takes effect in order: an edge or a tap opens a window, its end closes it, and an endpoint event counts as its time and the window say; 2^40 ticks after an endpoint the range expires; a latched result is counted, and either starts the next cycle or disarms the unit after the last one and raises its tap. -/
def Obligations.IntervalMeasurementActsAsItsRulesSay : Prop :=
  (∀ (c : Fin 8) (p : Pkt), Answers (.tmuConfig c p) c 0x801 p
      (fun h q a => tmuCfgOwns h q a = none ∧ tmuCfgBusy h q a = none ∧ tmuForm q = none)
      (fun h q a => (a.modTmu (cfgUnit q) (fun x => { x with owner := h.who, cfg := tmuCfgOf q, configured := true })).ok h)) ∧
  (∀ (c : Fin 8) (p : Pkt), Answers (.tmuArm c p) c 0x802 (p.withA0 9 8 0)
      (fun h q a => a.tmus[armUnit q].owner = h.who ∧ a.tmus[armUnit q].st = .idle ∧ q.units = 0 ∧ a.tmus[armUnit q].configured = true ∧
        a.tmuPins h a.tmus[armUnit q].cfg = none ∧ a.lanesLack a.tmus[armUnit q].cfg = none)
      (fun h q a => a.tmuStart h (armUnit q))) ∧
  (∀ (c : Fin 8) (p : Pkt), Answers (.tmuDisarm c p) c 0x802 (p.withA0 9 8 1)
      (fun h q a => a.tmus[armUnit q].owner = h.who ∧ q.units = 0)
      (fun h q a => ((a.latchTie (armUnit q)).tmuOff (armUnit q) 1).reply h 0 0 (if a.tmus[armUnit q].st = .idle then 0 else 1) [])) ∧
  (∀ (c : Fin 8) (p : Pkt), Answers (.tmuRelease c p) c 0x802 (p.withA0 9 9 1)
      (fun h q a => a.tmus[armUnit q].owner = h.who ∧ q.units = 0)
      (fun h q a => ((((a.latchTie (armUnit q)).tmuOff (armUnit q) 1).modTmu (armUnit q) Tmu.released).forgetGong (fun src inst => src == 0x1C && inst == (armUnit q).val)).reply h 0 0 (if a.tmus[armUnit q].st = .idle then 0 else 1) [])) ∧
  (∀ (c : Fin 8) (p : Pkt), Answers (.tmuResult c p) c 0x803 p
      (fun h q a => a.tmus[armUnit q].owner = h.who ∧ q.units = 0 ∧ q.a1 8 0 ≤ 256)
      (fun h q a => a.reply h 0 0 0 (a.tmus[armUnit q].block (armUnit q) ++ ((a.tmus[armUnit q].recent.take (q.a1 8 0)).reverse.flatMap (fun r => r.bytes (armUnit q)))))) ∧
  (∀ (u : Fin 16) (c1s c2s c1p c2p : Nat) (s : State), s.tmus[u].st = .setting → s.tmus[u].enterAt + 16 * 2048 ≤ s.metro → ∃ z : Tmu,
      (let x := s.tmus[u]; z.st = .ready ∧ z.enterAt = x.enterAt + 16 * 2048 ∧ z.c1s = c1s ∧ z.c2s = c2s ∧ z.c1p = c1p ∧ z.c2p = c2p ∧ z.calBad = (s.spanBad u 0 (c2s - c1s) || s.spanBad u 1 (c2p - c1p)) ∧ z.cfg = x.cfg ∧ z.results = x.results ∧
        (x.gateAtArm = false → z.wins = x.wins) ∧ (x.gateAtArm = true → ∃ w, z.wins = w :: x.wins ∧ w.from_ = x.enterAt + 16 * 2048 ∧ w.used = false ∧ w.ended = false)) ∧
      exec (.tmuSettingDone u c1s c2s c1p c2p) s = .next (let s1 := s.modTmu u (fun _ => z)
        let s2 := if s.spanBad u 0 (c2s - c1s) then s1.report 0x1C u.val false s1.nowGHz (c2s - c1s) 0 else s1
        if s.spanBad u 1 (c2p - c1p) then s2.report 0x1C u.val false s2.nowGHz (c2p - c1p) 1 else s2)) ∧
  (∀ (u : Fin 16) (i : TmuIn) (rest : List TmuIn) (s : State), s.tmus[u].inq = i :: rest → s.tmus[u].st ≠ .idle → i.due / 512 ≤ s.tick → s.tmus[u].waits i.t = false →
      (i.sig = .opens → exec (.tmuWindowOpen u (i.t / 512)) s = .next (s.modTmu u (fun x => ({ x with inq := x.inq.drop 1 } : Tmu).winStart i.t))) ∧
      (i.sig = .closes → exec (.tmuWindowClose u (i.t / 512)) s = .next (s.modTmu u (fun x => ({ x with inq := x.inq.drop 1 } : Tmu).winEnd i.t))) ∧
      (∀ code, i.sig = .start ∨ i.sig = .stop → exec (.tmuEndpointEvent u code) s =
        .next (s.modTmu u (fun x => ({ x with inq := x.inq.drop 1 } : Tmu).event (i.sig == .stop) (s.tmuTake u i code) none)))) ∧
  (∀ (u : Fin 16) (s : State), s.tmus[u].st = .measuring → (laterOf s.tmus[u].start s.tmus[u].stop + 2 ^ 49) / 512 ≤ s.tick →
      exec (.tmuRangeExpire u) s = .next (s.modTmu u (fun y => y.toLatch ((y.win.map (fun w => w.from_)).getD 0) (laterOf s.tmus[u].start s.tmus[u].stop + 2 ^ 49) none))) ∧
  (∀ (u : Fin 16) (s : State), s.tmus[u].st = .latch → (s.tmus[u].doneAt + 4 * 2048) / 512 ≤ s.tick → let x := s.tmus[u]; let y := x.formed (s.tsFlags 0 false false false); let ts : Ts := { fine := (x.doneAt + 4 * 2048) / 512 * 512, flags := s.tsFlags 0 false false false }
      y.results = x.results + 1 ∧
      (y.results = y.cfg.nM1 + 1 → x.byTap = none → exec (.tmuLatch u) s = .next (((s.modTmu u (fun _ => y)).tmuOff u 0).raise (0x30 + u.val) ts 0 none none)) ∧
      (y.results = y.cfg.nM1 + 1 → ∀ n, x.byTap = some n → exec (.tmuLatch u) s = .next (((s.modTmu u (fun _ => y)).tmuOff u 0).reRaise (0x30 + u.val) ts (n + 1))) ∧
      (y.results ≠ y.cfg.nM1 + 1 → exec (.tmuLatch u) s = .next (s.modTmu u (fun _ => { y with st := .setting, enterAt := x.doneAt + 4 * 2048, start := none, stop := none, skipped := 0, byTap := none }))))

/-- SCRATCH_ACCESS of a range inside the sender's window (for SECURE the whole scratchpad, firmware region read only), of 1 to 262144 bytes, aligned to 64 in the basic form, READ answers the bytes as decoded, WRITE replaces them, SET and CLR (expert) modify the bytes that decode and answer MEM_UE with the first uncorrectable address if there is one. ECC_DIAG in an accepted form answers, writes or flips raw codewords; the Exchange Bank is written through port B. BRUSH_STATUS answers the nine entries, and with CLEAR from SECURE clears the counters. -/
def Obligations.SramCommandsComplete : Prop :=
  (∀ (c : Fin 8) (p : Pkt), Answers (.scratchRead c p) c 0xA01 (p.withA0 1 0 0)
      (fun h q a => (h.context = 15 → scratchAddr q + scratchSize q ≤ 2 ^ 22) ∧ (h.context ≠ 15 → 0x200000 + h.mb.val * 0x40000 ≤ scratchAddr q ∧ scratchAddr q + scratchSize q ≤ 0x200000 + h.mb.val * 0x40000 + 0x40000) ∧
        1 ≤ scratchSize q ∧ scratchSize q ≤ 262144 ∧ (q.isE = false → scratchAddr q % 64 = 0 ∧ scratchSize q % 64 = 0) ∧ q.units = 0)
      (fun h q a => let bad := a.badBytes 0 0 (scratchAddr q) (scratchSize q)
        (a.meetRange 0 0 (scratchAddr q) (scratchSize q)).reply h (if bad = [] then (if 16000 < a.scratchWait (scratchAddr q) (scratchSize q) then 0x002 else 0) else 0x060) 0 (if bad = [] then 0 else ueDetail (scratchAddr q) bad) (a.sramBytes 0 0 (scratchAddr q) (scratchSize q)))) ∧
  (∀ (c : Fin 8) (p : Pkt), Answers (.scratchWrite c p) c 0xA01 (p.withA0 1 0 1)
      (fun h q a => (h.context = 15 → scratchAddr q + scratchSize q ≤ 2 ^ 22 ∧ 0x200000 ≤ scratchAddr q) ∧ (h.context ≠ 15 → 0x200000 + h.mb.val * 0x40000 ≤ scratchAddr q ∧ scratchAddr q + scratchSize q ≤ 0x200000 + h.mb.val * 0x40000 + 0x40000) ∧
        1 ≤ scratchSize q ∧ scratchSize q ≤ 262144 ∧ (q.isE = false → scratchAddr q % 64 = 0 ∧ scratchSize q % 64 = 0) ∧ q.units = (scratchSize q + 7) / 8)
      (fun h q a => (a.plainBytes 0 0 (scratchAddr q) (q.body.take (scratchSize q))).ok h)) ∧
  (∀ (c : Fin 8) (p : Pkt), Answers (.scratchSet c p) c 0xA01 (p.withA0 1 0 2)
      (fun h q a => (h.context = 15 → scratchAddr q + scratchSize q ≤ 2 ^ 22 ∧ 0x200000 ≤ scratchAddr q) ∧ (h.context ≠ 15 → 0x200000 + h.mb.val * 0x40000 ≤ scratchAddr q ∧ scratchAddr q + scratchSize q ≤ 0x200000 + h.mb.val * 0x40000 + 0x40000) ∧
        1 ≤ scratchSize q ∧ scratchSize q ≤ 262144 ∧ (q.isE = false → scratchAddr q % 64 = 0 ∧ scratchSize q % 64 = 0) ∧ q.isE = true ∧ q.units = (scratchSize q + 7) / 8)
      (fun h q a => let u := ((q.body.take (scratchSize q)).zipIdx).foldl (fun t (x : Byte × Nat) => t.aliasByte 0 0 (scratchAddr q + x.2) (fun b => b ||| x.1)) a
        let bad := a.badBytes 0 0 (scratchAddr q) (scratchSize q)
        if bad = [] then u.ok h else u.reply h 0x060 0 (min bad.length (2 ^ 16 - 1)) (le 8 (bad.headD 0)))) ∧
  (∀ (c : Fin 8) (p : Pkt), Answers (.scratchClr c p) c 0xA01 (p.withA0 1 0 3)
      (fun h q a => (h.context = 15 → scratchAddr q + scratchSize q ≤ 2 ^ 22 ∧ 0x200000 ≤ scratchAddr q) ∧ (h.context ≠ 15 → 0x200000 + h.mb.val * 0x40000 ≤ scratchAddr q ∧ scratchAddr q + scratchSize q ≤ 0x200000 + h.mb.val * 0x40000 + 0x40000) ∧
        1 ≤ scratchSize q ∧ scratchSize q ≤ 262144 ∧ (q.isE = false → scratchAddr q % 64 = 0 ∧ scratchSize q % 64 = 0) ∧ q.isE = true ∧ q.units = (scratchSize q + 7) / 8)
      (fun h q a => let u := ((q.body.take (scratchSize q)).zipIdx).foldl (fun t (x : Byte × Nat) => t.aliasByte 0 0 (scratchAddr q + x.2) (fun b => b &&& ~~~x.1)) a
        let bad := a.badBytes 0 0 (scratchAddr q) (scratchSize q)
        if bad = [] then u.ok h else u.reply h 0x060 0 (min bad.length (2 ^ 16 - 1)) (le 8 (bad.headD 0)))) ∧
  (∀ (c : Fin 8) (p : Pkt), Answers (.eccDiagReadRaw c p) c 0xA02 (p.withA0 1 0 0)
      (fun h q a => diagOwns h q a = none ∧ diagBusy h q a = none ∧ a.diagForm q = true)
      (fun h q a => a.reply h 0 0 0 ((List.range (q.a2 8 0)).flatMap (fun i => le 2 ((a.cmem (diagMem q) (diagSeq q)).code (q.arg1.toNat + i)).toNat)))) ∧
  (∀ (c : Fin 8) (p : Pkt), Answers (.eccDiagWriteRaw c p) c 0xA02 (p.withA0 1 0 1)
      (fun h q a => diagOwns h q a = none ∧ diagBusy h q a = none ∧ a.diagForm q = true)
      (fun h q a => let upd (t : State) : State := t.putCmem (diagMem q) (diagSeq q) ((List.range (q.a2 8 0)).foldl (fun k i =>
          k.setCode (q.arg1.toNat + i) (BitVec.ofNat 13 (rd q.body (2 * i) 2))) (t.cmem (diagMem q) (diagSeq q)))
        (if diagMem q = 1 then a.portBUnit (q.arg1.toNat / 4) upd else upd a).ok h)) ∧
  (∀ (c : Fin 8) (p : Pkt), Answers (.eccDiagFlip c p) c 0xA02 (p.withA0 1 0 2)
      (fun h q a => diagOwns h q a = none ∧ diagBusy h q a = none ∧ a.diagForm q = true)
      (fun h q a => let upd (t : State) : State := t.putCmem (diagMem q) (diagSeq q) ((List.range (q.a2 8 0)).foldl (fun k i =>
          k.setCode (q.arg1.toNat + i) (k.code (q.arg1.toNat + i) ^^^ BitVec.ofNat 13 (rd q.body (2 * i) 2))) (t.cmem (diagMem q) (diagSeq q)))
        (if diagMem q = 1 then a.portBUnit (q.arg1.toNat / 4) upd else upd a).ok h)) ∧
  (∀ (c : Fin 8) (p : Pkt), Answers (.brushStatus c p) c 0xA03 p
      (fun h q a => q.units = 0 ∧ (q.b0 0 = false ∨ h.context = 15))
      (fun h q a => (if q.b0 0 then { a with brush := vmap a.brush (fun _ b => b.cleared) } else a).reply h 0 0 0 ((List.finRange 9).flatMap (fun m => (a.brush[m]).entry m.val a.tick))))

/-- With the link up, the bank open and a byte enabled, a host access of BAR2 reads or writes its word through port B, plainly or through the SET or CLR alias; a board agent's access of an open bank that meets no collision reads the word onto XD, or writes it. Brush uses an opportunity of an on-die memory at its pace, and of the Pattern Store in a free idle slot that no host read waits for, once in a Bar; 1 ms without an opportunity is a stall; an idle slot serves a host read first and Brush otherwise. Collisions are not part of this statement. -/
def Obligations.BankAndBrushAccessesComplete : Prop :=
  (∀ (off be : Nat) (s : State), s.link.linkUp = true → s.xbOpen = true → off < 0x30000 → be % 16 ≠ 0 → exec (.xbHostRead off be) s = .next (s.portB (off % 0x10000 / 4) false (fun t =>
      (t.meetRange 1 0 (4 * (off % 0x10000 / 4)) 4).modLink (fun l => { l with readData := unle ((List.range 4).map (fun i => if be.testBit i then BitVec.ofNat 8 ((s.xbReadWord (off % 0x10000 / 4)).1 / 256 ^ i) else 0)), readPoison := (s.xbReadWord (off % 0x10000 / 4)).2.1 })))) ∧
  (∀ (off be : Nat) (v : Word) (s : State), s.link.linkUp = true → s.xbOpen = true → off < 0x30000 → be % 16 ≠ 0 → exec (.xbHostWrite off be v) s = .next (s.portB (off % 0x10000 / 4) true (fun t => if off < 0x10000 then t.xbPlain (off % 0x10000 / 4) be v else if off < 0x20000 then t.xbAlias (off % 0x10000 / 4) be v true else t.xbAlias (off % 0x10000 / 4) be v false))) ∧
  (∀ (off be : Nat) (v : Word) (s : State), s.link.linkUp = true → s.xbOpen = true → off < 0x30000 → be % 16 ≠ 0 → exec (.xbSetAliasWrite off be v) s = .next (s.portB (off % 0x10000 / 4) true (fun t => if off < 0x10000 then t.xbPlain (off % 0x10000 / 4) be v else if off < 0x20000 then t.xbAlias (off % 0x10000 / 4) be v true else t.xbAlias (off % 0x10000 / 4) be v false))) ∧
  (∀ (off be : Nat) (v : Word) (s : State), s.link.linkUp = true → s.xbOpen = true → off < 0x30000 → be % 16 ≠ 0 → exec (.xbClrAliasWrite off be v) s = .next (s.portB (off % 0x10000 / 4) true (fun t => if off < 0x10000 then t.xbPlain (off % 0x10000 / 4) be v else if off < 0x20000 then t.xbAlias (off % 0x10000 / 4) be v true else t.xbAlias (off % 0x10000 / 4) be v false))) ∧
  (∀ (w : Fin 16384) (pt2 : Bool) (s : State), s.xbOpen = true → s.sram.lastB.hits s.bankCycle w.val false = false → exec (.xpRead w pt2) s = .next ((s.meetRange 1 0 (4 * w.val) 4).modSram (fun x =>
      { x with lastA := { cycle := some s.bankCycle, word := w.val, write := false, pt2 := pt2, before := s.xbWord w.val }, xd := unle (s.sramBytes 1 0 (4 * w.val) 4), xdDriven := true, xbusy := !(s.badBytes 1 0 (4 * w.val) 4).isEmpty }))) ∧
  (∀ (w : Fin 16384) (v : Word) (pt2 : Bool) (s : State), s.xbOpen = true → s.sram.lastB.hits s.bankCycle w.val true = false → exec (.xpWrite w v pt2) s = .next ((s.modSram (fun x =>
      { x with lastA := { cycle := some s.bankCycle, word := w.val, write := true, pt2 := pt2, before := s.xbWord w.val }, xdDriven := false, xbusy := false })).xbPlain w.val 15 v)) ∧
  (∀ (m : Fin 9) (errs : List MemErr) (s : State), s.brush[m].initDone = true → m ≠ 8 → s.brush[m].lastOpp + brushPace m.val ≤ s.tick → (m = 1 → s.sram.lastB.cycle ≠ some s.bankCycle) → exec (.brushScrub m errs) s = .next (s.brushSram m)) ∧
  (∀ (errs : List MemErr) (s : State), s.brush[(8 : Fin 9)].initDone = true → s.idleSlot = true → s.slotFree = true → s.store.reads = [] → s.brushUsedBar = false →
      exec (.brushScrub 8 errs) s = .next (s.useSlot.brushStore errs)) ∧
  (∀ (m : Fin 9) (s : State), s.brush[m].initDone = true → s.brush[m].stalling = false → s.brush[m].lastOpp + 4000000 ≤ s.tick → exec (.brushStall m) s =
      .next (s.modBrush m (fun b => { b with stalling := true, lapStalled := true }))) ∧
  (∀ (errs : List MemErr) (s : State), s.idleSlot = true → s.slotFree = true → (∀ r rs, s.store.reads = r :: rs → exec (.idleSlot errs) s = .next (s.useSlot.readAccess r errs).settleStore) ∧
      (s.store.reads = [] → s.brushUsedBar = false → s.brush[(8 : Fin 9)].initDone = true → exec (.idleSlot errs) s = .next (s.useSlot.brushStore errs)))

/-- An unused slot that a burst holds fetches the sixteen lines of one aligned 1,024-byte access; a HOSTIN slot serves the host write that is next, demanded pages first, and answers it when all its data is written; a HOSTOUT slot serves a drain of a Fail Log or of a capture segment, in turn where both wait; a MAINT slot carries the upkeep that is due, a refresh moving on to the next bank, and slot 63 reads on in a page plan, 64 entries at a time, or serves firmware. Each use marks the slot as used. -/
def Obligations.BarSlotsServeTheirUsers : Prop :=
  (∀ (q : Fin 4) (alt : Bool) (addr : Nat) (errs : List MemErr) (s : State), (s.seqs[q].st = .admitted ∨ s.seqs[q].st = .running) → s.slotFree = true → s.slot ∈ s.seqs[q].slots → addr < 2 ^ 42 →
      exec (.seqSlotFetch q alt addr errs) s = .next ((List.range 16).foldl (fun t i => t.fetchLine q alt (addr / 1024 * 1024 + 64 * i))
        ((s.useSlot.upset (addr / 1024 * 1024) 1024 errs).modSeq q (fun y => if alt then { y with altPtr := addr } else { y with fetchPtr := addr })))) ∧
  (∀ (s : State) (w : HostIn), s.slotFree = true → s.slot ∈ [0, 16, 32, 48] → s.nextHostIn = some w → exec .hostinSlot s =
      .next (let r := s.store.hostInAccess w
        let t : State := { s with store := { r.1 with hostin := r.1.hostin.map (fun x => if x == w then r.2 else x), lastSlot := some s.absSlot } }
        if r.2.data = [] then ((t.modStore (fun x => { x with hostin := x.hostin.filter (fun y => y != r.2) })).hostInDone r.2).settleStore else t)) ∧
  (∀ (s : State) (q : Fin 4) (d : DrainOp) (ds : List DrainOp), s.slotFree = true → s.slot ∈ [8, 24, 40, 56] → s.drainTurn = some q → s.flogs[q].drains = d :: ds → (s.capTurn = none ∨ s.outFlog = true) →
      exec .hostoutSlot s = .next { s.drawn.useSlot.drainAccess q d (Config.freeDrainErrs s.free) with outFlog := false }) ∧
  (∀ (s : State) (i : Fin 8) (h : Hdr), s.slotFree = true → s.slot ∈ [8, 24, 40, 56] → s.capTurn = some (i, h) → (s.drainTurn = none ∨ s.outFlog = false) →
      exec .hostoutSlot s = .next { s.drawn.useSlot.capDrain i h (Config.freeDrainErrs s.free) with outFlog := true }) ∧
  (∀ (s : State), s.slotFree = true → s.slot ∈ [12, 15, 28, 31, 44, 47, 60] → exec .maintSlot s = .next (match Config.freeUpkeep s.free with
      | none => s.drawn
      | some w => s.drawn.useSlot.modStore (fun t => { t with maintUsed := t.maintUsed + 1, refreshBank := if w = .refresh then (t.refreshBank + 1) % max 1 Config.hbmBanks else t.refreshBank }))) ∧
  (∀ (s : State), s.slotFree = true → s.slot = 63 → let t := s.useSlot.modStore (fun t => { t with supUsed := t.supUsed + 1 })
      (∀ q, s.planTurn = some q → exec .supSlot s = .next (t.modSeq q (fun x => { x with plan := x.plan ++ x.planRest.take 64, planRest := x.planRest.drop 64 }))) ∧
      (s.planTurn = none → exec .supSlot s = .next (let errs := Config.freeMemErrs s.free
        let t1 := t.drawn.modStore (fun x => { x with supErrs := errs.foldl errAdd x.supErrs })
        t1.storeErrs 0 (t1.store.supErrs.filter (fun e => errs.any (fun f => f.addr / 8 * 8 == e.addr))))))

/-- Where ownership, running state and form allow it, TUNE_RUN FULL queues a pass over the dies named, REFLECT a reflection over the pins selected, and LIVE sets live Tuning and, if given, the cycle of the groups named; TUNE_STATUS answers the device block and the eight group entries; CAL_STORE chooses the copy that is not valid or the older one, marks it not valid and starts to write it. -/
def Obligations.TuningCommandsComplete : Prop :=
  (∀ (c : Fin 8) (p : Pkt), Answers (.tuneRunFull c p) c 0xB01 (p.withA0 17 16 0)
      (fun h q a => tuneOwns h q a = none ∧ tuneBusy h q a = none ∧ tuneForm q = none)
      (fun h q a => a.modTune (fun t => { t with full := t.full ++ [{ hdr := h, dies := pktDies q, dieTick := a.tick, external := q.a1 0 0 == 1, vref := q.arg2.toNat }] }))) ∧
  (∀ (c : Fin 8) (p : Pkt), Answers (.tuneRunReflect c p) c 0xB01 (p.withA0 17 16 1)
      (fun h q a => tuneOwns h q a = none ∧ tuneBusy h q a = none ∧ tuneForm q = none)
      (fun h q a => a.modTune (fun t => { t with reflects := t.reflects ++ [{ hdr := h, grp := ((pktGrps q).head?).getD 0, mask := q.a2 15 0, startTick := a.tick }] }))) ∧
  (∀ (c : Fin 8) (p : Pkt), Answers (.tuneRunLive c p) c 0xB01 (p.withA0 17 16 2)
      (fun h q a => tuneOwns h q a = none ∧ tuneBusy h q a = none ∧ tuneForm q = none)
      (fun h q a => ((pktGrps q).foldl (fun t g => t.modGrp g (fun x => { x with take := { x.take with live := q.a1 1 1 == 1, ms := if q.a1 31 16 = 0 then x.take.ms else q.a1 31 16 } })) a).ok h)) ∧
  (∀ (c : Fin 8) (p : Pkt), Answers (.tuneStatus c p) c 0xB02 p
      (fun h q a => q.units = 0)
      (fun h q a => a.reply h 0 0 0 (a.tuneBlock ++ (List.finRange 8).flatMap a.tuneEntry))) ∧
  (∀ (c : Fin 8) (p : Pkt), Answers (.calStore c p) c 0xB03 p
      (fun h q a => calStoreOwns h q a = none ∧ calStoreBusy h q a = none ∧ q.units = 0)
      (fun h q a => ({ a with flash := vmod a.flash a.storeCopy (fun x => { x with valid := false, present := true }) }).modTune (fun t => { t with storing := some h, storeTo := a.storeCopy.val })))

/-- A die of a full pass is judged, applied and dated 2 s after its start, the last one with the response; a fault or a lost sender ends the pass at once. A reflection ends with its pins judged. A stored copy carries the next sequence number and answers, or MEM_UE. A gap moves a trim by one toward the measured value, or is discarded; a cell without a gap for 10 ms is starved. A takeover cycle starts on the next eligible pin, or directly with an idle sequencer; it searches after a residual of at most 2 ps, hands off at the armed vector, is deferred without one in 100 us, judges the channel's results, and hands back, at the latest 100 ns after the burst. -/
def Obligations.TuningEventsActAsTheirRulesSay : Prop :=
  (∀ (res : List TuneRes) (s : State) (f : FullPass) (fs : List FullPass) (d : Fin 4) (ds : List (Fin 4)), s.tune.full = f :: fs → f.dies = d :: ds →
      (s.fullFault f = true → exec (.tuneFullDieDone res) s = .next (s.nextFull.fullReply f true)) ∧
      (s.fullFault f = false → s.senderGone f.hdr = true → exec (.tuneFullDieDone res) s = .next (s.nextFull.fullReply f false)) ∧
      (s.fullFault f = false → s.senderGone f.hdr = false → f.dieTick + 4000000000 * 2 ≤ s.tick → (diesGrps [d]).any s.adcBusy = false →
        (ds ≠ [] → exec (.tuneFullDieDone res) s = .next (s.fullApply f d res)) ∧
        (ds = [] → ∀ g gs, (s.fullApply f d res).tune.full = g :: gs → exec (.tuneFullDieDone res) s = .next ((s.fullApply f d res).nextFull.fullReply g false)))) ∧
  (∀ (g : Fin 8) (trips : List (Option Nat)) (s : State) (r : Reflect), s.tune.reflects.find? (fun r => r.grp == g) = some r → trips.length = (setBits 16 r.mask).length →
      r.startTick + 4000 * (10 * (setBits 16 r.mask).length) ≤ s.tick → exec (.reflectDone g trips) s = .next (let x := (s.modTune (fun t => { t with reflects := t.reflects.erase r })).reflectAll g r.mask trips
        if x.2.2 = 0 then x.1.reply r.hdr 0 0 0 x.2.1 else x.1.reply r.hdr 0x080 0xB035 x.2.2 x.2.1)) ∧
  (∀ (ok : Bool) (s : State) (h : Hdr), s.tune.storing = some h → let k := fin 2 s.tune.storeTo; let o := s.flash[k + 1]; let n := if o.valid then (o.seqNo + 1) % 2 ^ 32 else 1; let u := s.modTune (fun t => { t with storing := none })
      (ok = true → exec (.calStoreDone ok) s = .next ((({ u with flash := vmod u.flash k (fun _ => u.tableCopy n) } : State).modTune (fun t => { t with tableSeq := n, lastStore := s.tick })).ok h)) ∧
      (ok = false → exec (.calStoreDone ok) s = .next (u.refuse h (0x060, 0xB020)))) ∧
  (∀ (p : Fin 128) (cell : Fin 7) (meas gain : Int) (s : State), s.grps[grpOf p].take.live = true → s.tuned (grpOf p) = false → s.pins[p].gap cell s.tick = true → (∀ t, (s.pins[p].cells[cell]).lastUpd = some t → t + 4000 * 10 ≤ s.tick) →
      (gain.natAbs ≤ 30000 → exec (.gapCalibration p cell meas gain) s = .next (s.modPin p (fun x => { x with cells := vmod x.cells cell (fun y => { y with trim := nudge y.trim meas, lastUpd := some s.tick, lastGap := s.tick, starved := false }) }))) ∧
      (30000 < gain.natAbs → exec (.gapCalibration p cell meas gain) s = .next ((s.modPin p (fun x => { x with cells := vmod x.cells cell (fun y => { y with lastGap := s.tick, starved := false }) })).discard (grpOf p) (entOf p).val 0xB031 gain 30000))) ∧
  (∀ (p : Fin 128) (cell : Fin 7) (s : State), cell.val < 6 → s.grps[grpOf p].take.live = true → (s.pins[p].cells[cell]).lastGap + 4000000 * 10 ≤ s.tick →
      exec (.edgeCellStarved p cell) s = .next (s.modPin p (fun x => { x with cells := vmod x.cells cell (fun y => { y with starved := true }) }))) ∧
  (∀ (g : Fin 8) (s : State), s.grps[g].take.live = true → s.gong.fault = false → s.tuned g = false → s.grps[g].take.st = .idle → s.grps[g].take.carried = none →
      (s.grps[g].take.tapBusy = true ∨ s.grps[g].take.cycleTick + 4000000 * s.grps[g].take.ms ≤ s.tick) →
      (s.grpRuns g = false → exec (.takeoverCycle g) s = .next (s.modTake g (fun x => { x with st := .carry, direct := true, cand := x.next, next := x.next + 1, phaseTick := s.tick, cycleTick := s.tick }))) ∧
      (s.grpRuns g = true → ∀ e, ((List.finRange 16).map (fun i => s.grps[g].take.next + i)).find? (s.eligible g) = some e → exec (.takeoverCycle g) s =
        .next (s.modTake g (fun x => { x with st := .prepare, cand := e, next := e + 1, phaseTick := s.tick, cycleTick := s.tick, handAddr := none, endAt := none })))) ∧
  (∀ (g : Fin 8) (r : Int) (o : Option Nat) (s : State), s.grps[g].take.st = .prepare → s.tuned g = false → s.tick ≤ s.grps[g].take.phaseTick + 4000 * 250 → s.adcBusy g = false → let y := s.pins[pinOf g s.grps[g].take.cand]
      (r.natAbs ≤ 2000 → exec (.takeoverPrepareDone g r o) s = .next (s.modGrp g (fun x => { x with rv := { x.rv with voh := y.voh, vol := y.vol }, take := { x.take with st := .search, handAddr := o, phaseTick := s.tick } }))) ∧
      (¬ r.natAbs ≤ 2000 → exec (.takeoverPrepareDone g r o) s = .next ((s.modTake g Take.over).discard g 16 0xB034 r 2000))) ∧
  (∀ (g : Fin 8) (s : State), s.grps[g].take.direct = false → s.tuned g = false → s.handoffNow g = true →
      (s.grps[g].take.st = .search → s.eligible g s.grps[g].take.cand = true → exec (.handoff g) s = .next (s.modTake g (fun x => { x with st := .carry, carried := some x.cand, phaseTick := s.tick, handAddr := none }))) ∧
      (s.grps[g].take.st = .handback → s.slowEnough g = true → s.grps[g].take.stuck = false → exec (.handoff g) s = .next (s.modTake g (fun x => { x.over with carried := none, takeovers := min (x.takeovers + 1) (2 ^ 32 - 1) })))) ∧
  (∀ (g : Fin 8) (o : Option Nat) (s : State), let late := s.grps[g].take.handAddr = none ∨ s.grps[g].take.phaseTick + 4000 * 100 ≤ s.tick ∨ s.issuing g = false
      late → (s.grps[g].take.st = .search → exec (.takeoverDefer g o) s = .next (s.modTake g (fun x => { x.over with deferrals := min (x.deferrals + 1) (2 ^ 32 - 1) }))) ∧
      (s.grps[g].take.st = .handback → s.issuing g = true → exec (.takeoverDefer g o) s = .next (s.modTake g (fun x => { x with handAddr := o, phaseTick := s.tick })))) ∧
  (∀ (g : Fin 8) (res : List TuneRes) (o : Option Nat) (s : State), s.grps[g].take.st = .carry → s.tuned g = false → s.adcBusy g = false → s.tick ≤ s.grps[g].take.phaseTick + 4000 * 300 → exec (.carryDone g res o) s =
      .next ((s.applyAll (res.filter (fun r => r.chan == chanOf g s.grps[g].take.cand.val))).modTake g (fun x => if x.direct then x.over else { x with st := .handback, handAddr := o, phaseTick := s.tick }))) ∧
  (∀ (g : Fin 8) (s : State) (e : Fin 16) (t : Nat), s.grps[g].take.carried = some e → s.grps[g].take.endAt = some t → (t + 100 * 2048) / 512 ≤ s.tick →
      exec (.handbackAfterBurst g) s = .next (s.modTake g (fun x => { x.over with carried := none, takeovers := min (x.takeovers + 1) (2 ^ 32 - 1) })))

/-- On a ring that is not bypassed, an enumeration gives a device its position and begins its training, gives the master N, fails the training of more than 32 devices, or shows the master another one. A measured loop that fits gives flight times, frame and GDL, one that is too long fails the training. The count load sets the Metronome of a non-master to the master's count plus its delay. A loaded training ends, for a non-master after three good Downbeats, with the ring ready and its commands answered; one that takes too long fails. Control blocks carry a position's status, the training's results and a link's figures. -/
def Obligations.RingTrainingActsAsItsRulesSay : Prop :=
  (∀ (count : Nat) (own : Bool) (s : State), s.ring.bypass = false →
      (s.ring.master = false → exec (.enumeration count own) s = .next (s.devEvents (s.modBeat (fun b => { b.begin .training s.metro (s.tick - 4000000 * 2) with posNew := count % 32 })))) ∧
      (s.ring.master = true → own = true → s.ring.inTraining = true → 1 ≤ count → count ≤ 32 → exec (.enumeration count own) s = .next (s.modBeat (fun b => { b with st := .training, posNew := 0, countNew := count - 1 }))) ∧
      (s.ring.master = true → own = true → s.ring.inTraining = true → 32 < count → exec (.enumeration count own) s = .next (s.failTraining 0x071 0x1003 0)) ∧
      (s.ring.master = true → own = false → s.ring.conflict = false → s.ring.inTraining = false → exec (.enumeration count own) s =
        .next ((s.modBeat (fun b => { b with conflict := true, idleOnly := true })).report 0x09 0 false s.nowSI 0 0))) ∧
  (∀ (raw : Nat) (passes : List Nat) (s : State), s.ring.master = true → s.ring.inTraining = true → s.ring.st = .training →
      let b := s.ring; let n := b.countNew + 1; let ps := (List.range n).map (fun k => passes.getD k 0)
      let decl := (List.range n).map (fun k => (fsToFine b.flights[fin 32 k]).toNat)
      let rem : Int := (raw : Int) - (ps.sum : Nat) - (decl.sum : Nat)
      let fs := shareFlights decl rem; let frames := max 1 (raw / (1024 * n)); let ui := ceilDiv (raw * 25) (4096 * frames); let loop := (2 * frames * ui * 4096 + 25) / 50
      (18432 * n < loop → exec (.loopMeasured raw passes) s = .next (s.failTraining 0x071 0x1004 0)) ∧
      (loop ≤ 18432 * n → (∀ k, k < n → ps.getD k 0 + fs.getD k 0 ≤ 18432) → 0 ∈ decl → exec (.loopMeasured raw passes) s = .next (s.modBeat (fun b =>
        { b with loop := loop, frames := frames, tfUi := ui, pad := loop - raw, gdl := ceilDiv (40960 + 18432 * n) b.gdlPeriod * b.gdlPeriod, gdlPTrained := b.gdlPeriod, dbTrained := b.dbLog2,
                 table := vmap b.table (fun k e => if k.val < n then { e with present := true, pass := ps.getD k.val 0, flight := fs.getD k.val 0 } else {}) })))) ∧
  (∀ (m dk : Nat) (s : State), s.ring.inTraining = true → s.ring.loaded = false →
      (s.ring.master = true → exec (.countLoad m dk) s = .next (s.modBeat (fun b => { b with loaded := true, ringBit := true, trainTick := m / 512 }))) ∧
      (s.ring.master = false → ∃ t : State, exec (.countLoad m dk) s = .next (forFin 8 (fun n u => u.fireAlarm n) t) ∧ t.metro = m + dk ∧ t.ring.loaded = true ∧ t.ring.delay = dk ∧ t.ring.trainTick = m / 512 ∧
        t.ring.phi = s.ring.phi + ((m + dk : Nat) - (s.metro : Int)) ∧ t.tmus = vmap s.tmus (fun _ u => if u.st == .measuring then { u with timebase := true } else u))) ∧
  (∀ s : State, s.ring.inTraining = true → s.ring.loaded = true → (s.ring.master = true ∨ 3 ≤ s.ring.goodDbs) → ∃ u : State,
      exec .trainingEnd s = .next (s.devEvents (s.ring.trainHdrs.foldl (fun t x => t.reply x.1 0 0 0 t.ringBlock) u)) ∧
      u.ring.trained = true ∧ u.ring.st = .ready ∧ u.ring.inTraining = false ∧ u.ring.pos = s.ring.posNew ∧ u.ring.countM1 = s.ring.countNew ∧ u.ring.hold = false ∧ u.metro = s.metro) ∧
  (∀ s : State, s.ring.inTraining = true → s.ring.trainStart + 4000000 * 4 + 8 * 2 ^ (if s.ring.master then s.ring.dbLog2 else s.ring.db) ≤ s.tick →
      exec .trainTimeout s = .next ((s.failTraining 0x071 0x1005 0).failTrains (fun x => !x.2.2 && decide (x.2.1 + 4000000 * 1000 ≤ s.tick)) 0x071 0x1005 0)) ∧
  (∀ (cb : CtlBlock) (s : State), s.ring.bypass = false →
      (cb.kind = 0 → s.ring.inTraining = false → exec (.controlBlock cb) s = .next (s.modBeat (fun b => { b with table := vmod b.table (fin 32 cb.pos) (fun e => { e with present := true, running := cb.running, global := cb.global, hold := cb.hold, grade := cb.grade }) }))) ∧
      (cb.kind = 0 → s.ring.master = true → s.ring.inTraining = true → cb.running = true → exec (.controlBlock cb) s = .next (s.failTraining 0x010 0x0030 cb.pos)) ∧
      (cb.kind = 1 → s.ring.master = false → s.ring.inTraining = true → exec (.controlBlock cb) s = .next (s.modBeat (fun b => { b with loop := cb.loop, countNew := (cb.count - 1) % 32, frames := cb.frames, tfUi := cb.tfUi, pad := cb.pad, gdl := cb.gdl, gdlPTrained := cb.gdlPeriod, dbTrained := cb.dbLog2 }))) ∧
      (cb.kind = 2 → s.ring.master = false → s.ring.inTraining = true → exec (.controlBlock cb) s = .next (s.modBeat (fun b => { b with table := vmod b.table (fin 32 cb.pos) (fun e => { e with present := true, pass := cb.pass, flight := cb.flight }) }))))

/-- A decision word leaves with the device's own bit put in and every other bit as it came. A tap slot of the device's own position sends a waiting raise, one of another position raises its global tap, or marks its time as bad. A Downbeat of a trained or loading ring gives a non-master its alignment error: within 64 fine LSB a correction, beyond that a missed Downbeat. An alignment step moves the count by one fine LSB, at most once in a Bar and eight times in a period. An error block is counted and reported; a lost lane, a loop change or another cause drops the ring; a lane locked again ends its condition. -/
def Obligations.RingStreamActsAsItsRulesSay : Prop :=
  (∀ (w : Word) (valid : Bool) (s : State), s.ring.trained = true → ∃ (u : State) (mine : Bool) (seen : List (Nat × Nat × Bool × Bool)),
      mine = (match windowAt s.metro with | none => false | some x => u.contribution x) ∧ exec (.decisionWord w valid) s =
      .next (u.modBeat (fun b => { b with words := seen ++ b.words, wordOut := w.toNat - b2n (w.toNat.testBit s.ring.pos) * 2 ^ s.ring.pos + b2n mine * 2 ^ s.ring.pos }))) ∧
  (∀ (pos : Fin 32) (slot : BitVec 16) (valid : Bool) (s : State), s.ring.trained = true → pos.val ≤ s.ring.countM1 →
      let leave := (s.metro + s.ring.table[fin 32 s.ring.pos].pass - s.ring.since pos.val + 256) / 512
      (pos.val = s.ring.pos → exec (.gtSlot pos slot valid) s = .next s.gtSend) ∧
      (pos.val ≠ s.ring.pos → valid = false → exec (.gtSlot pos slot valid) s = .next (s.modBeat (fun b => { b with gtBad := ((leave - 76) * 512, leave * 512) :: b.gtBad }))) ∧
      (pos.val ≠ s.ring.pos → valid = true → bit slot.toNat 15 = true → exec (.gtSlot pos slot valid) s =
        .next (s.gtRaise (fin 16 (bits slot.toNat 13 10)) (leave - bits slot.toNat 6 0) (bits slot.toNat 9 7) (s.metro + 2048)))) ∧
  (∀ (tick carried measured : Nat) (s : State), s.ring.follows = true → tick % 2 ^ s.ring.db = 0 →
      let e : Int := (measured : Int) - (((tick + carried) * 512 + s.ring.delay : Nat) : Int)
      (s.ring.master = true → exec (.downbeat tick carried measured) s = .next (s.modBeat (fun b => { b with missedRow := 0 }))) ∧
      (s.ring.master = false → 64 < e.natAbs → exec (.downbeat tick carried measured) s = .next (s.modBeat (fun b => { b with alignErr := e })).missDb) ∧
      (s.ring.master = false → e.natAbs ≤ 64 → exec (.downbeat tick carried measured) s = .next (s.modBeat (fun b =>
        { b with alignErr := e, corr := -e, corrDone := 0, missedRow := 0, hold := b.hold && decide (16 < e.natAbs), goodDbs := if e.natAbs ≤ 16 then min 3 (b.goodDbs + 1) else 0 })))) ∧
  (∀ s : State, s.ring.corr ≠ 0 → s.ring.corrDone < 8 → s.ring.corrBar ≠ s.tick / 256 → let d : Int := if 0 < s.ring.corr then 1 else -1
      ∃ t, exec .alignStep s = .next t ∧ t.metro = ((s.metro : Int) + d).toNat ∧ t.ring.corr = s.ring.corr - d ∧ t.ring.corrDone = s.ring.corrDone + 1 ∧ t.ring.corrBar = s.tick / 256 ∧
        t.ring.phi = s.ring.phi + d ∧ t.seqs = s.seqs ∧ t.ctxs = s.ctxs) ∧
  (∀ s : State, s.ring.follows = true → exec .downbeatMissed s = .next s.missDb) ∧
  (∀ (lane : Fin 4) (s : State), s.ring.bypass = false → exec (.ringErrorBlock lane) s =
      .next ((s.modBeat (fun b => { b with linkErrs := min (b.linkErrs + 1) (2 ^ 32 - 1), invalidWin := min (b.invalidWin + 1) (2 ^ 32 - 1) })).report 0x0A lane.val false s.nowSI 1 0)) ∧
  (∀ s : State, (∀ lane : Fin 4, exec (.ringLoss (.laneUnlock lane)) s = .next (s.devEvents ((s.modBeat (fun b => { b with laneLock := vmod b.laneLock lane (fun _ => false) })).report 0x0A lane.val false s.nowSI 2 0).ringDrop.syncBypass)) ∧
      exec (.ringLoss .loopChange) s = .next (s.devEvents (s.report 0x0A 0 false s.nowSI 3 0).ringDrop.syncBypass) ∧
      (∀ c, (∀ lane, c ≠ .laneUnlock lane) → c ≠ .loopChange → exec (.ringLoss c) s = .next (s.devEvents s.ringDrop.syncBypass))) ∧
  (∀ (lane : Fin 4) (s : State), s.laneReported lane = true → s.ring.laneLock[lane] = false → exec (.ringLaneLock lane) s =
      .next ((s.modBeat (fun b => { b with laneLock := vmod b.laneLock lane (fun _ => true) })).report 0x0A lane.val true s.nowSI 0 0))

/-- CHALLENGE answers and keeps 32 random bytes; PROVE with a valid challenge, a verifying signature and the right key, with no lockout and no other officer, makes the sender the officer, with PROVISION writing the key's hash; POLICY sets and records the masks; RELINQUISH gives the role up. ATTEST answers the signed report, or the certificates. OFFER answers a signed key and nonce; ACCEPT of a valid offer opens the session with keys derived from both nonces and answers sealed; CLOSE closes it once its work is done. ZEROIZE starts the erasure, and a verifying DEBUG_UNLOCK token too. -/
def Obligations.SecurityCommandsComplete : Prop :=
  (∀ (c : Fin 8) (p : Pkt), Answers (.officerAuthChallenge c p) c 0xD01 (p.withA0 1 0 0)
      (fun h q a => q.units = 0)
      (fun h q a => ((a.random 32).2.modCtx h.mb (fun x => { x with challenge := (a.random 32).1, challengeTick := a.tick })).reply h 0 0 0 (a.random 32).1)) ∧
  (∀ (c : Fin 8) (p : Pkt), Answers (.officerAuthPolicy c p) c 0xD01 (p.withA0 1 0 2)
      (fun h q a => q.units = 0)
      (fun h q a => (a.modSec (fun x => { x with expertOk := q.a1 7 0, cycleOk := q.a1 15 8, policyRec := some (q.a1 7 0, q.a1 15 8), policyValid := true, otp := { x.otp with policySet := true } })).ok h)) ∧
  (∀ (c : Fin 8) (p : Pkt), Answers (.officerAuthRelinquish c p) c 0xD01 (p.withA0 1 0 3)
      (fun h q a => q.units = 0)
      (fun h q a => (a.modCtx h.mb (fun x => { x with officer := false })).ok h)) ∧
  (∀ (c : Fin 8) (p : Pkt), Answers (.officerAuthProve c p) c 0xD01 (p.withA0 1 0 1)
      (fun h q a => q.units = 467 ∧ (∀ t, a.sec.lockTick = some t → t + 4000000000 ≤ a.tick) ∧ (∀ d : Fin 8, d ≠ h.mb → a.officer d = false) ∧
        (q.b0 8 = true → a.sec.otp.officerHash = none ∧ a.sole { h with context := 0 } = true) ∧ a.challengeOk h.mb = true ∧
        Config.verify (q.body.take 1312) (a.ctxs[h.mb].challenge ++ le 8 Config.serial ++ le 1 h.mb.val) ((q.body.drop 0x520).take 2420) = true ∧
        (q.b0 8 = true ∨ a.sec.otp.officerHash = some (Config.sha3 (q.body.take 1312))))
      (fun h q a => let u := a.modCtx h.mb (fun y => { y with challenge := [] })
        let v := if q.b0 8 then u.modSec (fun z => { z with otp := { z.otp with officerHash := some (Config.sha3 (q.body.take 1312)) } }) else u
        (v.modCtx h.mb (fun y => { y with officer := true })).ok h)) ∧
  (∀ (c : Fin 8) (p : Pkt), Answers (.attestReport c p) c 0xD02 (p.withA0 0 0 0)
      (fun h q a => q.units = 4 ∧ a.sec.otp.seedGone = false)
      (fun h q a => a.reply h 0 0 0 (a.report256 h q.body ++ Config.sign (a.report256 h q.body) ++ zeros 4))) ∧
  (∀ (c : Fin 8) (p : Pkt), Answers (.attestCert c p) c 0xD02 (p.withA0 0 0 1)
      (fun h q a => q.units = 0 ∧ Config.certOk = true)
      (fun h q a => a.reply h 0 0 0 Config.certChain)) ∧
  (∀ (c : Fin 8) (p : Pkt), Answers (.sealOpenOffer c p) c 0xD03 (p.withA0 1 0 0)
      (fun h q a => q.units = 0 ∧ a.sec.otp.seedGone = false ∧ a.sec.zeroPin = false ∧ Config.kemPairOk a.sec.drbg = true)
      (fun h q a => let r := (a.modSec (fun x => { x with drbg := x.drbg + 1 })).random 32
        (r.2.modCtx h.mb (fun x => { x with session := { x.session with offered := true, offerTick := a.tick, kemSeed := a.sec.drbg, nonceD := r.1 } })).reply h 0 0 0
          (Config.kemKey a.sec.drbg ++ r.1 ++ Config.sign (Config.kemKey a.sec.drbg ++ r.1 ++ le 8 Config.serial ++ le 1 h.mb.val) ++ zeros 4))) ∧
  (∀ (c : Fin 8) (p : Pkt), Completes (.sealOpenAccept c p) c 0xD03 (p.withA0 1 0 1)
      (fun h q a => q.units = 140 ∧ a.sec.otp.seedGone = false ∧ a.ctxs[h.mb].session.isOpen = false ∧ a.ctxs[h.mb].session.offered = true ∧ a.tick < a.ctxs[h.mb].session.offerTick + 4000000000 * 10 ∧
        (Config.kemDecap a.ctxs[h.mb].session.kemSeed (q.body.take 1088)).isSome = true)
      (fun h q a t => ∃ ss, Config.kemDecap a.ctxs[h.mb].session.kemSeed (q.body.take 1088) = some ss ∧ t = (
        let x := a.ctxs[h.mb].session; let nh := (q.body.drop 1088).take 32; let n := a.sec.nextSession
        let k := Config.shake64 (ss ++ x.nonceD ++ nh ++ Config.sha3 (Config.kemKey x.kemSeed))
        let u := (a.modSec (fun z => { z with nextSession := nextSeq n })).modCtx h.mb (fun y => { y with session := { y.session with isOpen := true, session := n, kH2d := k.take 32, kD2h := (k.drop 32).take 32, lastH2d := 0, nextD2h := 1, offered := false, kemSeed := 0, nonceD := [] } })
        u.pushEntry h.mb h.ring { hdr := { h with sess := n }, ts := a.nowSI, payload := nh, wrap := true, finishes := true }))) ∧
  (∀ (c : Fin 8) (p : Pkt), Answers (.sealOpenClose c p) c 0xD03 (p.withA0 1 0 2)
      (fun h q a => q.units = 0 ∧ a.sec.otp.seedGone = false)
      (fun h q a => (a.modCtx h.mb (fun x => { x with session := { x.session with closing := some h } })).settle h.mb)) ∧
  (∀ (c : Fin 8) (p : Pkt), Answers (.zeroize c p) c 0xD04 p
      (fun h q a => q.units = 0)
      (fun h q a => (a.modSec (fun x => { x with zeroHdrs := x.zeroHdrs ++ [h] })).startZero (q.a0 0 0))) ∧
  (∀ (c : Fin 8) (p : Pkt), Answers (.debugUnlock c p) c 0xD06 p
      (fun h q a => q.units = 512 ∧ a.tokenOk h.mb q.body = true)
      (fun h q a => ((a.modCtx h.mb (fun x => { x with challenge := [] })).modSec (fun x => { x with debugHdr := some (h, rd q.body 8 4 % 4) })).startZero 0))

/-- FW_UPDATE WRITE of up to 256 KiB inside 16 MiB, with the flash free, writes the image that does not run; VERIFY and ADVANCE (which raises the counter to the running image's version, at most 64) start their operation; REVOKE of another slot than the running image's, with one slot left, revokes it; the operation ends with OK, or for VERIFY with SEC_FAIL if the other image is not valid. Challenges, lockout and offers expire. The ZEROIZE_N pin starts a session zeroization, or one that waits for start-up step 3. When no sealed burst runs any more an erasure ends: sealed data is gone, its commands complete, and a DEBUG_UNLOCK that waited opens access. -/
def Obligations.FirmwareAndEnclaveEventsComplete : Prop :=
  (∀ (c : Fin 8) (p : Pkt), Answers (.fwUpdateWrite c p) c 0xD05 (p.withA0 1 0 0)
      (fun h q a => q.payload ≠ [] ∧ q.units ≤ 32768 ∧ q.arg1.toNat + q.body.length ≤ 2 ^ 24 ∧ a.flashBusy = false)
      (fun h q a => a.modSec (fun x => if x.runB then { x with fwHdr := some (h, 0), imgA := x.imgA.write false q.arg1.toNat q.body } else { x with fwHdr := some (h, 0), imgB := x.imgB.write true q.arg1.toNat q.body }))) ∧
  (∀ (c : Fin 8) (p : Pkt), Answers (.fwUpdateVerify c p) c 0xD05 (p.withA0 1 0 1)
      (fun h q a => q.units = 0 ∧ a.flashBusy = false)
      (fun h q a => a.modSec (fun x => { x with fwHdr := some (h, 1) }))) ∧
  (∀ (c : Fin 8) (p : Pkt), Answers (.fwUpdateAdvance c p) c 0xD05 (p.withA0 1 0 2)
      (fun h q a => q.units = 0 ∧ a.flashBusy = false)
      (fun h q a => a.modSec (fun x => { x with fwHdr := some (h, 2), otp := { x.otp with counter := max x.otp.counter (min 64 x.running.svn) } }))) ∧
  (∀ (c : Fin 8) (p : Pkt), Answers (.fwUpdateRevoke c p) c 0xD05 (p.withA0 1 0 3)
      (fun h q a => q.units = 0 ∧ q.arg1.toNat ≤ 2 ∧ q.arg1.toNat ≠ a.sec.running.slot ∧ (∃ i, i < 3 ∧ i ≠ q.arg1.toNat ∧ a.sec.otp.slotGone i = false))
      (fun h q a => (a.modSec (fun x => { x with otp := { x.otp with revoked := vmod x.otp.revoked (fin 3 q.arg1.toNat) (fun _ => true) } })).ok h)) ∧
  (∀ (s : State) (h : Hdr) (op : Nat), s.sec.fwHdr = some (h, op) → exec .fwUpdateDone s =
      .next (if op = 1 ∧ s.sec.otp.valid s.sec.spare = false then (s.modSec (fun x => { x with fwHdr := none })).refuse h (0x090, 0xD020) else (s.modSec (fun x => { x with fwHdr := none })).ok h)) ∧
  (∀ (c : Fin 8) (s : State), s.challengeOk c = false → exec (.challengeExpire c) s = .next (s.modCtx c (fun x => { x with challenge := [] }))) ∧
  (∀ (s : State) (t : Nat), s.sec.lockTick = some t → t + 4000000000 ≤ s.tick → exec .lockoutExpire s = .next (s.modSec (fun x => { x with lockTick := none }))) ∧
  (∀ (c : Fin 8) (s : State), s.ctxs[c].session.offered = true → s.ctxs[c].session.offerTick + 4000000000 * 10 ≤ s.tick → exec (.offerExpire c) s =
      .next (s.modCtx c (fun y => { y with session := { y.session with offered := false, kemSeed := 0, nonceD := [] } }))) ∧
  (∀ s : State, (3 ≤ s.power.stepDone → exec .zeroizeNAssert s = .next ((s.modSec (fun x => { x with zeroPin := true })).startZero 0)) ∧
      (s.power.stepDone < 3 → exec .zeroizeNAssert s = .next (s.modSec (fun x => { x with zeroPin := true, zeroLater := true })))) ∧
  (∀ s : State, exec .zeroizeNRelease s = .next (s.modSec (fun x => { x with zeroPin := false }))) ∧
  (∀ (s : State) (l : Nat), s.sec.zeroing = some l → s.sealedRuns = false →
      let u := s.sec.zeroHdrs.foldl (fun t h => t.ok h) (s.eraseSealed.modSec (fun x => { x with zeroing := none, zeroHdrs := [], debugHdr := none }))
      (s.sec.debugHdr = none → exec .zeroizeDone s = .next u) ∧
      (∀ h sc, s.sec.debugHdr = some (h, sc) → exec .zeroizeDone s = .next ((u.modSec (fun x => { x with approved := false, debug := true, debugScope := sc })).ok h)))

/-- VIN on begins start-up at step 1 from the reset state, but for what survives a reset; a start-up step that is in progress ends with its effect: the Metronome at zero and locked after step 2, a stop with code 3 without a valid image, every Brush memory released after step 5, the tables restored after step 5. A rail or REFCLK that is late stops start-up or is noted. A brown-out, an overvoltage and RESET_N reset the device, the last one resuming after step 2; a held device is let go by the end of its cause. PERST_N resets the link; the link comes up once it trains, with vector 0. Losses of a locked clock are reported. That only one step runs at a time is the model's reading (log 129). -/
def Obligations.StartUpAndResetsActAsTheirRulesSay : Prop :=
  (∀ (m : Bool) (s : State), s.power.vin = false → exec (.powerOn m) s = .next (s.hardReset false m (s.power.fromOff true false (if s.power.cause = 2 then 2 else 0) 0))) ∧
  (∀ (r : StepResult) (s : State), s.power.vin = true → s.power.held = false → s.power.failed = false → s.power.stepDone < 7 → (2 ≤ s.power.stepDone → s.power.locked = true) →
      exec (.startupStepDone r) s = .next (s.endStep r) ∧
      (s.power.stepDone = 0 → s.endStep r = (s.stepTo 1).modPower (fun p => { p with flashHiz := false })) ∧
      (s.power.stepDone = 1 → s.power.refclkOk = true → r.fail ≠ 1 → (s.endStep r).metro = 0 ∧ (s.endStep r).power.stepDone = 2 ∧ (s.endStep r).power.locked = true) ∧
      (s.power.stepDone = 2 → r.fail ≠ 4 → s.sec.bootPick = none → (s.endStep r).power.bootFail = 3 ∧ (s.endStep r).power.failed = true) ∧
      (s.power.stepDone = 4 → r.fail ≠ 6 → ∀ m : Fin 9, ((s.endStep r).brush[m]).initDone = true) ∧
      (s.power.stepDone = 5 → s.endStep r = s.restoreTables.stepTo 6)) ∧
  (∀ (rail : Fin 11) (s : State), s.power.vin = true → s.power.held = false → s.power.failed = false → s.power.stepDone = 1 → exec (.railTimeout rail) s =
      .next ((s.bootStop 1).modPower (fun p => { p with rails := vmap p.rails (fun i x => { x with enabled := false, out := x.out || i == rail }) }))) ∧
  (∀ s : State, s.power.vin = true → s.power.held = false → s.power.failed = false → s.power.stepDone = 1 → s.power.refclkOk = false → exec .refclkWaitTimeout s = .next (s.modPower (fun p => { p with bootFail := 2 }))) ∧
  (∀ s : State, s.power.vin = true → exec .brownOut s = .next (s.hardReset false s.ring.master (s.power.fromOff false false 2 0)) ∧
      exec .overvoltage s = .next (s.hardReset false s.ring.master (s.power.fromOff true true 3 0))) ∧
  (∀ (m : Bool) (s : State), s.power.held = true → (s.power.cause = 3 → exec (.overvoltageRelease m) s = .next ((s.modPower (fun p => { p with held := false })).modBeat (fun b => { b with master := m }))) ∧
      (s.power.cause = 4 → s.power.cooled = true → exec (.thermalRestart m) s = .next ((s.modPower (fun p => { p with held := false })).modBeat (fun b => { b with master := m })))) ∧
  (∀ (m : Bool) (s : State), s.power.vin = true → s.power.held = false → exec (.resetNAssert m) s = .next (s.hardReset true m s.power.afterPin)) ∧
  (∀ s : State, s.link.perstLow = false → s.power.vin = true → s.power.held = false → exec .perstNAssert s =
      .next ((s.linkReset.modPower (fun p => { p with resets := min (p.resets + 1) (2 ^ 32 - 1) })).modLink (fun l => { l with perstLow := true, training := false }))) ∧
  (∀ s : State, exec .perstNRelease s = .next (s.modLink (fun l => { l with perstLow := false, training := decide (s.power.stepDone = 7) }))) ∧
  (∀ s : State, s.link.training = true → s.link.perstLow = false → s.link.linkUp = false → exec .pcieLinkUp s = .next ((s.modLink (fun l => { l with linkUp := true })).msix 0)) ∧
  (∀ s : State, s.power.locked = true → exec .refclkLoss s = .next ((s.modPower (fun p => { p with refclkOk := false, locked := false })).report 0x03 0 false s.nowSI 0 0) ∧
      (∀ d : Fin 4, exec (.clockLockLoss d) s = .next (s.report 0x02 d.val false s.nowSI 0 0)))

/-- A returned REFCLK ends its reported condition; a rail that leaves its tolerance or returns is reported once; a sensor at 125 C or more resets and holds the device, below that TEMP_HIGH and TEMP_CRIT begin at 100 and 110 C and end 5 C lower, each change reported, and a pin die's band is found anew; a subsystem reset whose time has come acts and is recorded; the sideband returns what its codes give and answers every write with NACK; HEALTH_READ answers device, sensors and rails, with values that nothing gives left free (log 126). -/
def Obligations.SuppliesTemperatureAndSidebandActAsTheirRulesSay : Prop :=
  (∀ s : State, s.power.refclkOk = false → s.refclkReported = true → exec .refclkReturn s =
      .next ((s.modPower (fun p => { p with refclkOk := true, locked := p.vin && !p.held && decide (2 ≤ p.stepDone) })).report 0x03 0 true s.nowSI 0 0)) ∧
  (∀ (rail : Fin 11) (out : Bool) (mv : Int) (s : State), s.power.vin = true → s.power.held = false → 2 ≤ s.power.stepDone → (s.power.rails[rail]).out ≠ out → exec (.supplyCondition rail out mv) s =
      .next ((s.modPower (fun p => { p with rails := vmod p.rails rail (fun x => { x with mv := some mv, out := out }) })).report 0x08 rail.val (!out) s.nowSI (enc 32 mv) 0)) ∧
  (∀ (sensor : Fin 16) (temp : Int) (s : State), s.power.vin = true → s.power.held = false → 2 ≤ s.power.stepDone →
      (2000 ≤ temp → ∃ u : State, exec (.tempSample sensor temp) s = .next (u.hardReset false u.ring.master (u.power.fromOff true true 4 u.power.resets)) ∧ u.sec = s.sec ∧ u.flash = s.flash) ∧
      (temp < 2000 → ∃ u v : State, exec (.tempSample sensor temp) s = .next (if 4 ≤ sensor.val ∧ sensor.val < 12 then v.bandOf (fin 4 ((sensor.val - 4) / 2)) else v) ∧
        (u.power.sensors[sensor]).temp = temp ∧ (u.power.sensors[sensor]).high = (if s.power.sensors[sensor].high then decide (1520 ≤ temp) else decide (1600 ≤ temp)) ∧
        (u.power.sensors[sensor]).crit = (if s.power.sensors[sensor].crit then decide (1680 ≤ temp) else decide (1760 ≤ temp)) ∧
        v = (u.reportChange 0x06 sensor.val s.power.sensors[sensor].crit (u.power.sensors[sensor]).crit temp).reportChange 0x07 sensor.val s.power.sensors[sensor].high (u.power.sensors[sensor]).high temp)) ∧
  (∀ (s : State) (r : Nat × Nat × Nat), s.gong.resets.find? (fun r => decide (r.2.2 ≤ s.tick)) = some r → exec .subsysReset s =
      .next (((s.modGong (fun g => { g with resets := g.resets.erase r })).resetTarget r.1 r.2.1).report 0x0B r.1 false s.nowSI 0 0)) ∧
  (∀ (code : Byte) (s : State), (∀ bs, s.power.vin = true → s.smbData code.toNat = some bs → exec (.smbusRead code) s = .next (({ s with free := s.free + 3 } : State).modPower (fun p => { p with smbOut := bs, smbNack := false }))) ∧
      ((s.power.vin = false ∨ s.smbData code.toNat = none) → exec (.smbusRead code) s = .next (s.modPower (fun p => { p with smbOut := [], smbNack := true }))) ∧
      (∀ d, exec (.smbusWrite code d) s = .next (s.modPower (fun p => { p with smbOut := [], smbNack := true })))) ∧
  (∀ (c : Fin 8) (p : Pkt), Answers (.healthRead c p) c 0xE01 p
      (fun h q a => q.units = 0)
      (fun h q a => ({ a with free := a.free + 24 } : State).reply h 0 0 0 (a.healthBlock ++ a.power.sensors.toList.flatMap Sensor.bytes ++ (List.finRange 11).flatMap a.railBytes)))

/-- For every packet p that LENGTH can describe and every 12-bit opcode: once the host has written the encoded packet behind MB_PROD of an empty mailbox and rung the doorbell (also across the end of the 1 MiB window), taking the front packet frames it, passes its CRC-32C check, recovers opcode, every header field and the payload exactly, advances MB_CONS by the packet units, and runs the command of that opcode on exactly p. The window being in canonical form is the invariant of EveryStepKeepsMemoriesCanonical. -/
def Obligations.EncodedPacketIsReadBackFromTheMailbox : Prop :=
  ∀ (s : State) (c : Fin 8) (op : Nat) (p : Pkt), op < 4096 → p.wf = true → s.ctxs[c].window.wf = true →
    s.ctxs[c].prod < 32768 → s.ctxs[c].cons < 32768 → s.ctxs[c].pending = 0 → pktUnits p.units ≤ 32767 →
    (s.place c op p).ctxs[c].pending = pktUnits p.units ∧
    headOp (s.place c op p).ctxs[c].frontHead = op ∧
    crcOk (s.place c op p).ctxs[c].frontHead ((s.place c op p).ctxs[c].frontPay p.units) = true ∧
    parsePkt (s.place c op p).ctxs[c].frontHead ((s.place c op p).ctxs[c].frontPay (headLen (s.place c op p).ctxs[c].frontHead)) = p ∧
    (s.place c op p).takeFront c = takePkt c op p (s.fetched c op p)

/-- Each staged write, sent by the owner in a form that its rule accepts, also with C, whose sender's set already holds 1,024 writes, or whose payload of LENGTH × 8 bytes would take the set past 1 MiB, is answered REFUSED_INFLIGHT (0x021) with subcode STAGE_FULL (0x0022), and the set is as before; DISCARD empties the set with no other effect; every write in the set counts as one write and with its whole payload. -/
def Obligations.FullStagingSetRefusesStagedWrites : Prop :=
  (∀ (c : Fin 8) (p : Pkt), Completes (.seqConfig c p) c 0x302 p
      (fun h q a => seqMine h q a ∧ seqConfigForm q = none ∧ ¬ stageRoom h q a)
      (fun h q a t => t = a.refuse h (0x021, 0x0022) ∧ t.ctxs[h.mb].stage = a.ctxs[h.mb].stage)) ∧
  (∀ (c : Fin 8) (p : Pkt), Completes (.tsetWrite c p) c 0x401 p
      (fun h q a => groupMine h q a ∧ tsetForm q = none ∧ ¬ stageRoom h q a)
      (fun h q a t => t = a.refuse h (0x021, 0x0022) ∧ t.ctxs[h.mb].stage = a.ctxs[h.mb].stage)) ∧
  (∀ (c : Fin 8) (p : Pkt), Completes (.periodSet c p) c 0x402 p
      (fun h q a => seqMine h q a ∧ periodForm q = none ∧ ¬ stageRoom h q a)
      (fun h q a t => t = a.refuse h (0x021, 0x0022) ∧ t.ctxs[h.mb].stage = a.ctxs[h.mb].stage)) ∧
  (∀ (c : Fin 8) (p : Pkt), Completes (.deskewWrite c p) c 0x403 p
      (fun h q a => groupMine h q a ∧ deskewForm q = none ∧ ¬ stageRoom h q a)
      (fun h q a t => t = a.refuse h (0x021, 0x0022) ∧ t.ctxs[h.mb].stage = a.ctxs[h.mb].stage)) ∧
  (∀ (c : Fin 8) (p : Pkt), Completes (.formatSet c p) c 0x501 p
      (fun h q a => groupMine h q a ∧ formatForm q = none ∧ ¬ stageRoom h q a)
      (fun h q a t => t = a.refuse h (0x021, 0x0022) ∧ t.ctxs[h.mb].stage = a.ctxs[h.mb].stage)) ∧
  (∀ (c : Fin 8) (p : Pkt), Completes (.reflexSet c p) c 0x502 (p.withA0 15 15 0)
      (fun h q a => groupMine h q a ∧ reflexForm q = none ∧ ¬ stageRoom h q a)
      (fun h q a t => t = a.refuse h (0x021, 0x0022) ∧ t.ctxs[h.mb].stage = a.ctxs[h.mb].stage)) ∧
  (∀ (c : Fin 8) (p : Pkt), Completes (.loadSet c p) c 0x503 p
      (fun h q a => groupMine h q a ∧ loadForm q = none ∧ ¬ stageRoom h q a)
      (fun h q a t => t = a.refuse h (0x021, 0x0022) ∧ t.ctxs[h.mb].stage = a.ctxs[h.mb].stage)) ∧
  (∀ (c : Fin 8) (p : Pkt), Completes (.levelsSet c p) c 0x504 p
      (fun h q a => groupMine h q a ∧ levelsForm q = none ∧ ¬ stageRoom h q a)
      (fun h q a t => t = a.refuse h (0x021, 0x0022) ∧ t.ctxs[h.mb].stage = a.ctxs[h.mb].stage)) ∧
  (∀ (c : Fin 8) (p : Pkt), Completes (.maskSetPinMask c p) c 0x601 (p.withA0 13 12 0)
      (fun h q a => groupMine h q a ∧ maskForm q = none ∧ ¬ stageRoom h q a)
      (fun h q a t => t = a.refuse h (0x021, 0x0022) ∧ t.ctxs[h.mb].stage = a.ctxs[h.mb].stage)) ∧
  (∀ (c : Fin 8) (p : Pkt), Completes (.maskSetRanges c p) c 0x601 (p.withA0 13 12 1)
      (fun h q a => groupMine h q a ∧ maskForm q = none ∧ ¬ stageRoom h q a)
      (fun h q a t => t = a.refuse h (0x021, 0x0022) ∧ t.ctxs[h.mb].stage = a.ctxs[h.mb].stage)) ∧
  (∀ (c : Fin 8) (p : Pkt), Completes (.maskSetFailproc c p) c 0x601 (p.withA0 13 12 2)
      (fun h q a => seqMine h q a ∧ maskForm q = none ∧ ¬ stageRoom h q a)
      (fun h q a t => t = a.refuse h (0x021, 0x0022) ∧ t.ctxs[h.mb].stage = a.ctxs[h.mb].stage)) ∧
  (∀ (c : Fin 8) (p : Pkt), Completes (.fixtureDelay c p) c 0xB04 p
      (fun h q a => groupMine h q a ∧ fixtureForm q = none ∧ ¬ stageRoom h q a)
      (fun h q a t => t = a.refuse h (0x021, 0x0022) ∧ t.ctxs[h.mb].stage = a.ctxs[h.mb].stage)) ∧
  (∀ (c : Fin 8) (p : Pkt), Completes (.capConfig c p) c 0x701 p
      (fun h q a => (a.caps[pktEng q].owner = .none ∨ a.caps[pktEng q].owner = h.who) ∧ a.seqs[(capOf q).seq].owner = h.who ∧ capForm q = none ∧ ¬ stageRoom h q a)
      (fun h q a t => t = (a.modCap (pktEng q) (fun e => { e with owner := h.who })).refuse h (0x021, 0x0022) ∧ t.ctxs[h.mb].stage = a.ctxs[h.mb].stage)) ∧
  (∀ (c : Fin 8) (p : Pkt), Answers (.discard c p) c 0x004 p
      (fun h q a => q.units = 0)
      (fun h q a => (a.modCtx h.mb (fun x => { x with stage := [] })).ok h)) ∧
  (∀ (ws : List Staged) (op : Nat) (q : Pkt), (ws ++ [({ opcode := op, pkt := q } : Staged)]).length = ws.length + 1 ∧
      stageBytes (ws ++ [{ opcode := op, pkt := q }]) = stageBytes ws + 8 * q.units)

/-- In a running burst whose vector due has its line with opcode NOP, no fault and no stop, NOP issues that vector: one more vector is counted, the vector's address is kept as the last one, the next vector is at the next address, one committed period later, and the loop and call stacks are as before. -/
def Obligations.NopIssuesItsVectorOnce : Prop :=
  ∀ (q : Fin 4) (s : State) (l : VLine) (u : State), Issues s q 0x00 l u → ∃ t, exec (.nop q) s = .next t ∧
      (let x := u.seqs[q]; let y := t.seqs[q]; let n := x.nextStart + u.period q; y.went x (x.addr + 1) n ∧ y.loops = x.loops ∧ y.calls = x.calls)

/-- In a running burst whose vector due has its line with opcode TAPR, no fault and no stop, and whose operand names a channel that is disabled or whose producer is not SEQn_TAPR of the issuing sequencer: the vector is issued as usual, no raise joins the Tap Matrix, and what follows the issue is only the report TAP_UNROUTED with the sequencer as instance and the channel as detail, of default class Note. -/
def Obligations.UnroutedTaprRaisesNothing : Prop :=
  ∀ (q : Fin 4) (s : State) (l : VLine) (u : State), Issues s q 0x0B l u → ∃ w : State,
      (w.seqs[q]).went u.seqs[q] (u.seqs[q].addr + 1) (u.seqs[q].nextStart + u.period q) ∧
      (let c := w.taps.chans[fin 64 (bits l.operand 29 24)]; c.enabled = false ∨ c.prod ≠ 8 + q.val →
        exec (.tapr q) s = .next (w.report 0x19 q.val false w.nowGHz (bits l.operand 29 24) 0)) ∧
      gongDefault 0x19 = 0

/-- A plain write of byte b stores D7 to D0 with C0 to C4 as the rule's exclusive ors, zero with check bits of zero, in every SRAM whose memory is in canonical form, and leaves the codeword of every other byte of that memory as it is. -/
def Obligations.EccCheckBitsOfEveryByte : Prop :=
  (∀ b : Byte, let c := eccEnc b; let d := fun i : Nat => b.getLsbD i
      (∀ i < 8, c.getLsbD i = d i) ∧
      c.getLsbD 8 = (d 0 ^^ d 1 ^^ d 3 ^^ d 4 ^^ d 6) ∧
      c.getLsbD 9 = (d 0 ^^ d 2 ^^ d 3 ^^ d 5 ^^ d 6) ∧
      c.getLsbD 10 = (d 1 ^^ d 2 ^^ d 3 ^^ d 7) ∧
      c.getLsbD 11 = (d 4 ^^ d 5 ^^ d 6 ^^ d 7) ∧
      c.getLsbD 12 = (d 0 ^^ d 1 ^^ d 2 ^^ d 3 ^^ d 4 ^^ d 5 ^^ d 6 ^^ d 7 ^^ c.getLsbD 8 ^^ c.getLsbD 9 ^^ c.getLsbD 10 ^^ c.getLsbD 11)) ∧
  eccEnc 0 = 0 ∧
  (∀ (s : State) (mem : Nat) (q : Fin 4) (a x : Nat) (b : Byte), mem < 8 → s.memWf →
      ((s.plainByte mem q a b).cmem mem q).code x = if x = a then eccEnc b else (s.cmem mem q).code x)

/-- For every 13-bit codeword, with S the 4-bit exclusive or of stored and recomputed C0 to C3 (C0 as bit 0) and P the exclusive or of all 13 stored bits: S 0 and P 0 is no error; S 0 and P 1 corrects C4; S 1 to 12 and P 1 corrects the bit at position S; S 13 to 15 with P 1, and S 1 to 15 with P 0, are uncorrectable. -/
def Obligations.EccJudgesEveryCodeword : Prop :=
  ∀ c : Codeword, let g := fun i : Nat => c.getLsbD i
    let S := b2n (g 8 ^^ (g 0 ^^ g 1 ^^ g 3 ^^ g 4 ^^ g 6)) + 2 * b2n (g 9 ^^ (g 0 ^^ g 2 ^^ g 3 ^^ g 5 ^^ g 6)) +
      4 * b2n (g 10 ^^ (g 1 ^^ g 2 ^^ g 3 ^^ g 7)) + 8 * b2n (g 11 ^^ (g 4 ^^ g 5 ^^ g 6 ^^ g 7))
    let P := g 0 ^^ g 1 ^^ g 2 ^^ g 3 ^^ g 4 ^^ g 5 ^^ g 6 ^^ g 7 ^^ g 8 ^^ g 9 ^^ g 10 ^^ g 11 ^^ g 12
    judge c = (match P, S with
      | false, 0 => .good
      | true, 0 => .corr (c ^^^ 0x1000)
      | true, 1 => .corr (c ^^^ 0x100)
      | true, 2 => .corr (c ^^^ 0x200)
      | true, 3 => .corr (c ^^^ 0x001)
      | true, 4 => .corr (c ^^^ 0x400)
      | true, 5 => .corr (c ^^^ 0x002)
      | true, 6 => .corr (c ^^^ 0x004)
      | true, 7 => .corr (c ^^^ 0x008)
      | true, 8 => .corr (c ^^^ 0x800)
      | true, 9 => .corr (c ^^^ 0x010)
      | true, 10 => .corr (c ^^^ 0x020)
      | true, 11 => .corr (c ^^^ 0x040)
      | true, 12 => .corr (c ^^^ 0x080)
      | _, _ => .bad)

/-- For every SRAM, address and byte, from any state whose memories are canonical: after a plain write the byte reads back and a read counts nothing; after any one of its 13 stored bits has flipped it still reads back, a read counts one CE in the memory's Brush log and rewrites nothing, and an alias write stores the modified byte's fresh codeword; after any two of them have flipped it is uncorrectable: a read counts one UE and reports SRAM_UE with the memory and address, and an alias write leaves the stored bits as they are. -/
def Obligations.SramSurvivesOneFlippedBit : Prop :=
  ∀ (s : State) (mem : Fin 8) (q : Fin 4) (a : Nat) (b : Byte) (i j : Fin 13) (f : Byte → Byte), s.memWf → i ≠ j →
    let t := s.plainByte mem q a b
    let hit := fun (c : Codeword) => t.putCmem mem q ((t.cmem mem q).setCode a c)
    let one := hit (eccEnc b ^^^ BitVec.ofNat 13 (2 ^ i.val))
    let two := hit (eccEnc b ^^^ BitVec.ofNat 13 (2 ^ i.val) ^^^ BitVec.ofNat 13 (2 ^ j.val))
    (t.cmem mem q).code a = eccEnc b ∧ t.sramBytes mem q a 1 = [b] ∧ t.meet mem q a = t ∧
    one.sramBytes mem q a 1 = [b] ∧
    one.meet mem q a = one.countCe (fin 9 mem) a ∧ ((one.meet mem q a).cmem mem q).code a = (one.cmem mem q).code a ∧
    ((one.aliasByte mem q a f).cmem mem q).code a = eccEnc (f b) ∧
    two.badBytes mem q a 1 = [a] ∧
    two.meet mem q a = two.countUe (fin 9 mem) a ∧ two.aliasByte mem q a f = two.countUe (fin 9 mem) a ∧
    ((two.aliasByte mem q a f).cmem mem q).code a = (two.cmem mem q).code a

/-- For every command that the host sends by packet: while the link is down it changes nothing; with the link up, while intake of its context is paused, packets wait before it, or it is larger than the mailbox, it is only written into the mailbox of its context behind MB_PROD, which moves past it if it fits and else counts a bad doorbell; no other part of the state changes. That one command stands for the packet and its doorbell is the model's choice (log 6). -/
def Obligations.HostCommandsWaitForTheDevice : Prop :=
  (∀ (i : Instr) (c : Fin 8) (op : Nat) (p : Pkt) (s : State), i.sends = some (c, op, p) → s.link.linkUp = false → exec i s = .next s) ∧
  (∀ (i : Instr) (c : Fin 8) (op : Nat) (p : Pkt) (s : State), i.sends = some (c, op, p) → s.link.linkUp = true → (s.takes c = false ∨ s.ctxs[c].pending ≠ 0 ∨ 32767 < pktUnits p.units) →
      exec i s = .next (s.modCtx c (fun x =>
        let x1 := x.writeWindow (32 * x.prod) (p.encode op)
        if x.pending + pktUnits p.units ≤ 32767 then { x1 with prod := (x.prod + pktUnits p.units) % 32768 } else x1.noteErr (0x030, 0x000B))))

/-- Of the packet in front of a closed context's mailbox: a LENGTH beyond the doorbell, or a wrong CRC, discards the batch (MB_CONS moves to MB_PROD), increments the BAD_PACKET or BAD_CRC count and records the status in LAST_ERR; CTX_OPEN that passes both steps is handled as CTX_OPEN; every other packet is taken and dropped: DROPPED increments and LAST_ERR records BAD_PACKET with CTX_CLOSED. In each case nothing else changes: nothing is posted. A host command of a closed context whose packet the device takes at once does the same. -/
def Obligations.ClosedContextDropsItsPackets : Prop :=
  (∀ (s : State) (c : Fin 8), s.ctxs[c].isOpen = false → let x := s.ctxs[c]; let hd := x.frontHead; let len := headLen hd
      (x.pending < pktUnits len → s.takeFront c = s.modCtx c (fun y =>
        { y with cons := y.prod, lastStatus := 0x030, lastSub := 0x0001, badPacket := sat 16 (y.badPacket + 1) })) ∧
      (pktUnits len ≤ x.pending → crcOk hd (x.frontPay len) = false → s.takeFront c = s.modCtx c (fun y =>
        { y with cons := y.prod, lastStatus := 0x031, lastSub := 0, badCrc := sat 16 (y.badCrc + 1) })) ∧
      (pktUnits len ≤ x.pending → crcOk hd (x.frontPay len) = true → headOp hd = 0x001 →
        s.takeFront c = (s.modCtx c (fun y => { y with cons := (y.cons + pktUnits len) % 32768 })).openClosed c (parsePkt hd (x.frontPay len))) ∧
      (pktUnits len ≤ x.pending → crcOk hd (x.frontPay len) = true → headOp hd ≠ 0x001 → s.takeFront c = s.modCtx c (fun y =>
        { y with cons := (y.cons + pktUnits len) % 32768, dropped := sat 32 (y.dropped + 1), lastStatus := 0x030, lastSub := 0x000E }))) ∧
  (∀ (i : Instr) (c : Fin 8) (op : Nat) (p : Pkt) (s : State), i.sends = some (c, op, p) → s.takes c = true → s.ctxs[c].pending = 0 → pktUnits p.units ≤ 32767 → s.ctxs[c].isOpen = false → op ≠ 0x001 →
      exec i s = .next ((s.fetched c op p).modCtx c (fun y => { y with dropped := sat 32 (y.dropped + 1), lastStatus := 0x030, lastSub := 0x000E })))

/-- For every command that the host sends by packet to an open context, taken at once: if a step 3 to 8 of intake fails, its failure is noted in INTAKE_ERR and LAST_ERR, the response with its status and subcode joins ring 0, and the packet is never in flight; else if a step 9 or 10 fails, the response joins the ring of RSEL, unsealed, and nothing else happens. -/
def Obligations.IntakeRejectsBeforeTheCommand : Prop :=
  (∀ (i : Instr) (c : Fin 8) (op : Nat) (p : Pkt) (s : State), i.sends = some (c, op, p) → s.takes c = true → s.ctxs[c].pending = 0 → pktUnits p.units ≤ 32767 → s.ctxs[c].isOpen = true → ∀ f, intakeFail s c op p = some f →
      exec i s = .next (((s.fetched c op p).modCtx c (fun x => x.noteErr f)).pushEntry c 0
        { hdr := p.hdr c op 0, status := f.1, sub := f.2, detail := 0, ts := (s.fetched c op p).nowSI })) ∧
  (∀ (i : Instr) (c : Fin 8) (op : Nat) (p : Pkt) (s : State), i.sends = some (c, op, p) → s.takes c = true → s.ctxs[c].pending = 0 → pktUnits p.units ≤ 32767 → s.ctxs[c].isOpen = true → intakeFail s c op p = none → ∀ f, roleFail s c op p = some f →
      exec i s = .next (((s.fetched c op p).enter c op p).pushEntry c p.rsel
        { hdr := p.hdr c op p.rsel, status := f.1, sub := f.2, ts := ((s.fetched c op p).enter c op p).nowSI, finishes := !uncounted op }))

/-- For every command that the host sends unsealed to an open context and that passes intake and the role checks: in the fault state BURST_START, CAP_ARM, TMU_ARM without DISARM or RELEASE, TUNE_RUN and RING_TRAIN, and in a Fatal fault state every command except CTX_OPEN, CTX_CLOSE, DEVICE_INFO, GONG_READ, HEALTH_READ, ATTEST, CAP_DISARM and TMU_ARM with DISARM or RELEASE, are refused: the command is answered and nothing else of it happens. Each of the commands that start work, from a sender that passes its ownership check, is answered FAULT_STATE (0x0F0). -/
def Obligations.FaultStateRefusesWhatItMust : Prop :=
  (∀ (i : Instr) (c : Fin 8) (op : Nat) (p : Pkt) (s : State), i.sends = some (c, op, p) → s.takes c = true → s.ctxs[c].pending = 0 → pktUnits p.units ≤ 32767 → s.ctxs[c].isOpen = true →
    intakeFail s c op p = none → roleFail s c op p = none → p.isS = false →
    ((s.gong.fatal = true ∧ op ∉ [0x001, 0x002, 0x007, 0xC02, 0xE01, 0xD02, 0x703] ∧ (op = 0x802 → p.b0 8 = false ∧ p.b0 9 = false)) ∨
      (s.gong.fault = true ∧ (op ∈ [0x303, 0x702, 0xB01, 0x102] ∨ (op = 0x802 ∧ p.b0 8 = false ∧ p.b0 9 = false)))) →
    ∃ g, exec i s = .next (((s.fetched c op p).enter c op p).refuse (p.hdr c op p.rsel) g)) ∧
  (∀ (c : Fin 8) (r : Pkt) (x : Instr × Nat × Pkt × (Hdr → Pkt → State → Option Fail)),
    x ∈ [(.burstStart c r, 0x303, r, ownSeq), (.capArm c r, 0x702, r, engOwns), (.tmuArm c r, 0x802, r.withA0 9 8 0, tmuArmOwns),
      (.tuneRunFull c r, 0xB01, r.withA0 17 16 0, tuneOwns), (.tuneRunReflect c r, 0xB01, r.withA0 17 16 1, tuneOwns),
      (.tuneRunLive c r, 0xB01, r.withA0 17 16 2, tuneOwns), (.ringTrain c r, 0x102, r, noFail)] →
    let op := x.2.1; let p := x.2.2.1
    ∀ s : State, s.takes c = true → s.ctxs[c].pending = 0 → pktUnits p.units ≤ 32767 → s.ctxs[c].isOpen = true → intakeFail s c op p = none → roleFail s c op p = none → p.isS = false →
      (s.gong.fatal = true ∨ s.gong.fault = true) →
      x.2.2.2 (p.hdr c op p.rsel) p ((s.fetched c op p).enter c op p) = none →
      exec x.1 s = .next (((s.fetched c op p).enter c op p).refuse (p.hdr c op p.rsel) (0x0F0, 0)))

/-- ECHO, DEVICE_INFO, RING_STATUS, SEQ_STATUS, the QUERY forms of ALARM_SET, REFLEX_SET, GUARD_SET and CAP_DISARM, COMP_CHECK with OP STATUS, TMU_RESULT, TUNE_STATUS, both forms of GONG_READ, HEALTH_READ, both forms of ATTEST, FAIL_READ and ECC_DIAG with OP READ_RAW, from any state that admits the packet and also where their own checks refuse them: the next state differs from the present one only in the context of the sender (its mailbox, its in-flight tags and its rings), and in how many free values were drawn (HEALTH_READ and the status blocks draw some, the model's own field, log 2). Every group, sequencer, pin, unit, memory, and every other context is as before. -/
def Obligations.QueriesChangeNothingButTheirAnswer : Prop :=
  (∀ (c : Fin 8) (p : Pkt) (s : State), s.Admits c 0x006 p → ∃ k n, exec (.echo c p) s = .next ({ s with free := n }.modCtx c k)) ∧
  (∀ (c : Fin 8) (p : Pkt) (s : State), s.Admits c 0x007 p → ∃ k n, exec (.deviceInfo c p) s = .next ({ s with free := n }.modCtx c k)) ∧
  (∀ (c : Fin 8) (p : Pkt) (s : State), s.Admits c 0x103 p → ∃ k n, exec (.ringStatus c p) s = .next ({ s with free := n }.modCtx c k)) ∧
  (∀ (c : Fin 8) (p : Pkt) (s : State), s.Admits c 0x305 p → ∃ k n, exec (.seqStatus c p) s = .next ({ s with free := n }.modCtx c k)) ∧
  (∀ (c : Fin 8) (p : Pkt) (s : State), s.Admits c 0x404 (p.withA0 15 15 1) → ∃ k n, exec (.alarmQuery c p) s = .next ({ s with free := n }.modCtx c k)) ∧
  (∀ (c : Fin 8) (p : Pkt) (s : State), s.Admits c 0x502 (p.withA0 15 15 1) → ∃ k n, exec (.reflexQuery c p) s = .next ({ s with free := n }.modCtx c k)) ∧
  (∀ (c : Fin 8) (p : Pkt) (s : State), s.Admits c 0x505 (p.withA0 15 15 1) → ∃ k n, exec (.guardQuery c p) s = .next ({ s with free := n }.modCtx c k)) ∧
  (∀ (c : Fin 8) (p : Pkt) (s : State), s.Admits c 0x509 (p.withA0 17 16 0) → ∃ k n, exec (.compCheckStatus c p) s = .next ({ s with free := n }.modCtx c k)) ∧
  (∀ (c : Fin 8) (p : Pkt) (s : State), s.Admits c 0x703 (p.withA0 10 10 1) → ∃ k n, exec (.capQuery c p) s = .next ({ s with free := n }.modCtx c k)) ∧
  (∀ (c : Fin 8) (p : Pkt) (s : State), s.Admits c 0x803 p → ∃ k n, exec (.tmuResult c p) s = .next ({ s with free := n }.modCtx c k)) ∧
  (∀ (c : Fin 8) (p : Pkt) (s : State), s.Admits c 0xB02 p → ∃ k n, exec (.tuneStatus c p) s = .next ({ s with free := n }.modCtx c k)) ∧
  (∀ (c : Fin 8) (p : Pkt) (s : State), s.Admits c 0xC02 (p.withA0 0 0 0) → ∃ k n, exec (.gongReadLog c p) s = .next ({ s with free := n }.modCtx c k)) ∧
  (∀ (c : Fin 8) (p : Pkt) (s : State), s.Admits c 0xC02 (p.withA0 0 0 1) → ∃ k n, exec (.gongReadCounters c p) s = .next ({ s with free := n }.modCtx c k)) ∧
  (∀ (c : Fin 8) (p : Pkt) (s : State), s.Admits c 0xE01 p → ∃ k n, exec (.healthRead c p) s = .next ({ s with free := n }.modCtx c k)) ∧
  (∀ (c : Fin 8) (p : Pkt) (s : State), s.Admits c 0xD02 (p.withA0 0 0 0) → ∃ k n, exec (.attestReport c p) s = .next ({ s with free := n }.modCtx c k)) ∧
  (∀ (c : Fin 8) (p : Pkt) (s : State), s.Admits c 0xD02 (p.withA0 0 0 1) → ∃ k n, exec (.attestCert c p) s = .next ({ s with free := n }.modCtx c k)) ∧
  (∀ (c : Fin 8) (p : Pkt) (s : State), s.Admits c 0x602 p → ∃ k n, exec (.failRead c p) s = .next ({ s with free := n }.modCtx c k)) ∧
  (∀ (c : Fin 8) (p : Pkt) (s : State), s.Admits c 0xA02 (p.withA0 1 0 0) → ∃ k n, exec (.eccDiagReadRaw c p) s = .next ({ s with free := n }.modCtx c k))

/-- SEQ_CONFIG, TSET_WRITE, PERIOD_SET, DESKEW_WRITE, FORMAT_SET, REFLEX_SET, LOAD_SET, LEVELS_SET, the three tables of MASK_SET and FIXTURE_DELAY without C and N, from any state that admits the packet and also where their own checks refuse them, change only the context of the sender: the committed configuration, every block that the fields configure, and every other context are as before. -/
def Obligations.StagedWritesHaveNoEffectBeforeTheirCommit : Prop :=
  (∀ (c : Fin 8) (p : Pkt) (s : State), s.Admits c 0x302 p → p.isN = false → p.isC = false → ∃ k, exec (.seqConfig c p) s = .next (s.modCtx c k)) ∧
  (∀ (c : Fin 8) (p : Pkt) (s : State), s.Admits c 0x401 p → p.isN = false → p.isC = false → ∃ k, exec (.tsetWrite c p) s = .next (s.modCtx c k)) ∧
  (∀ (c : Fin 8) (p : Pkt) (s : State), s.Admits c 0x402 p → p.isN = false → p.isC = false → ∃ k, exec (.periodSet c p) s = .next (s.modCtx c k)) ∧
  (∀ (c : Fin 8) (p : Pkt) (s : State), s.Admits c 0x403 p → p.isN = false → p.isC = false → ∃ k, exec (.deskewWrite c p) s = .next (s.modCtx c k)) ∧
  (∀ (c : Fin 8) (p : Pkt) (s : State), s.Admits c 0x501 p → p.isN = false → p.isC = false → ∃ k, exec (.formatSet c p) s = .next (s.modCtx c k)) ∧
  (∀ (c : Fin 8) (p : Pkt) (s : State), s.Admits c 0x502 (p.withA0 15 15 0) → p.isN = false → p.isC = false → ∃ k, exec (.reflexSet c p) s = .next (s.modCtx c k)) ∧
  (∀ (c : Fin 8) (p : Pkt) (s : State), s.Admits c 0x503 p → p.isN = false → p.isC = false → ∃ k, exec (.loadSet c p) s = .next (s.modCtx c k)) ∧
  (∀ (c : Fin 8) (p : Pkt) (s : State), s.Admits c 0x504 p → p.isN = false → p.isC = false → ∃ k, exec (.levelsSet c p) s = .next (s.modCtx c k)) ∧
  (∀ (c : Fin 8) (p : Pkt) (s : State), s.Admits c 0x601 (p.withA0 13 12 0) → p.isN = false → p.isC = false → ∃ k, exec (.maskSetPinMask c p) s = .next (s.modCtx c k)) ∧
  (∀ (c : Fin 8) (p : Pkt) (s : State), s.Admits c 0x601 (p.withA0 13 12 1) → p.isN = false → p.isC = false → ∃ k, exec (.maskSetRanges c p) s = .next (s.modCtx c k)) ∧
  (∀ (c : Fin 8) (p : Pkt) (s : State), s.Admits c 0x601 (p.withA0 13 12 2) → p.isN = false → p.isC = false → ∃ k, exec (.maskSetFailproc c p) s = .next (s.modCtx c k)) ∧
  (∀ (c : Fin 8) (p : Pkt) (s : State), s.Admits c 0xB04 p → p.isN = false → p.isC = false → ∃ k, exec (.fixtureDelay c p) s = .next (s.modCtx c k))

/-- STORE_PARTITION from SECURE or the only open context, with no sequencer active and no engine armed, in a form that its rule accepts, once no earlier store command is left that it waits for: the next state is one, before the store commands that waited for it start, in which the store holds no page of any context, every written bit is clear, the capture segment of every engine is empty and so is the Fail Log of every sequencer; what was there is lost. -/
def Obligations.PartitionEmptiesTheStore : Prop :=
  ∀ (c : Fin 8) (p : Pkt), Completes (.storePartition c p) c 0x201 p
      (fun h q a => storeStarts 0x201 h q a ∧ a.sole h = true ∧ a.storeRuns = false ∧ q.units = 0 ∧ 4 ≤ q.a0 15 8 ∧ 1 ≤ q.a0 7 0 ∧ q.a0 15 8 + q.a0 7 0 + 16 ≤ 142 ∧
        (q.isE = true → q.a1 7 0 ≤ 52 ∧ 100 ≤ q.a2 16 0 ∧ q.a2 16 0 ≤ 100000))
      (fun h q a t => ∃ u : State, t = u.settleStore ∧ u.store.pages = [] ∧ u.store.written = [] ∧ (∀ e : Fin 8, u.caps[e].segment = []) ∧ (∀ n : Fin 4, u.flogs[n].ring = []) ∧
        (u.store.waits = [] → t = u.modStore (fun x => { x with waits := [] })))

/-- At reset nothing is listed in any memory of the block, so each is in the canonical form that the memory laws rest on (log 9). -/
def Obligations.ResetMemoriesAreCanonical : Prop :=
  State.reset.memWf

/-- From every state whose Pattern Store, mailbox windows, Fail Maps, scratchpad, Exchange Bank, pin-die tables and control SRAM are each in canonical form (addresses strictly rising, no entry equal to what an unlisted address reads as), whatever command is at the front of the queue, a step that answers a next state answers one in which they all are (log 9). Equal memories are then equal data, and a read after a write gives the value written. -/
def Obligations.EveryStepKeepsMemoriesCanonical : Prop :=
  ∀ s t : State, s.memWf → step s = .next t → t.memWf

/-- In a canonical store, a write of bytes that stay within one 4 KiB block sets the written bit of that block and of no other; each written byte reads back; every other byte of that block reads as before if the block was written before and as zero if it was not; every byte outside the block is as before; and the store stays canonical. -/
def Obligations.PatternWritesReadBack : Prop :=
  ∀ (t : Store) (a : Nat) (bs : List Byte), t.mem.wf = true → a % 4096 + bs.length ≤ 4096 →
    let u := t.writeBlock a bs
    u.mem.wf = true ∧ u.pages = t.pages ∧
    (∀ x, u.isWritten x = (t.isWritten x || decide (x / 4096 = a / 4096))) ∧
    ∀ x, u.mem.byte x = if a ≤ x ∧ x < a + bs.length then bs.getD (x - a) 0
      else if x / 4096 = a / 4096 ∧ t.isWritten a = false then 0 else t.mem.byte x

/-- Whatever the state, each of these commands answers a next state that differs from the present one in one part only: arm windows, comparator and guard arming and starved edge cells in the pins; the ends of busy times, of TAP_IO pulses and TAP_IO outputs in the Tap Matrix; gate windows, endpoints and range limits in the interval units; TIME0 reads, XB_BUSY clears and PERST_N release in the host link; TICK, heartbeats and SUP_HANG in the Gong; the lockout end and ZEROIZE_N release in the enclave; expiring challenges and offers in the contexts; BRUSH_STALL in the Brush logs; the takeover steps named here in the groups; start-up timeouts in power; and the slots of upkeep in the Pattern Store's scheduler, where the model's count of free values drawn may also change (log 2, log 163). -/
def Obligations.EventsChangeOnlyTheirUnit : Prop :=
  (∀ (p : Fin 128) (s : State), ∃ w, exec (.armWindowClose p) s = .next { s with pins := w }) ∧
  (∀ (p : Fin 128) (voh : Bool) (above : Bool) (s : State), ∃ w, exec (.comparatorValid p voh above) s = .next { s with pins := w }) ∧
  (∀ (p : Fin 128) (g : Guard) (s : State), ∃ w, exec (.guardArmed p g) s = .next { s with pins := w }) ∧
  (∀ (p : Fin 128) (cell : Fin 7) (s : State), ∃ w, exec (.edgeCellStarved p cell) s = .next { s with pins := w }) ∧
  (∀ (i : Fin 161) (s : State), ∃ w, exec (.consumerBusyEnd i) s = .next { s with taps := w }) ∧
  (∀ (n : Fin 8) (s : State), ∃ w, exec (.tapIoPulseEnd n) s = .next { s with taps := w }) ∧
  (∀ (n : Fin 8) (s : State), ∃ w, exec (.tapIoReturnInput n) s = .next { s with taps := w }) ∧
  (∀ (u : Fin 16) (t : Nat) (s : State), ∃ w, exec (.tmuWindowOpen u t) s = .next { s with tmus := w }) ∧
  (∀ (u : Fin 16) (t : Nat) (s : State), ∃ w, exec (.tmuWindowClose u t) s = .next { s with tmus := w }) ∧
  (∀ (u : Fin 16) (code : Nat) (s : State), ∃ w, exec (.tmuEndpointEvent u code) s = .next { s with tmus := w }) ∧
  (∀ (u : Fin 16) (s : State), ∃ w, exec (.tmuRangeExpire u) s = .next { s with tmus := w }) ∧
  (∀ (s : State), ∃ w, exec (.time0Read) s = .next { s with link := w }) ∧
  (∀ (v : Word) (s : State), ∃ w, exec (.xbBusyClear v) s = .next { s with link := w }) ∧
  (∀ (s : State), ∃ w, exec (.perstNRelease) s = .next { s with link := w }) ∧
  (∀ (s : State), ∃ w, exec (.tickToggle) s = .next { s with gong := w }) ∧
  (∀ (core : Fin 4) (s : State), ∃ w, exec (.heartbeat core) s = .next { s with gong := w }) ∧
  (∀ (core : Fin 4) (s : State), ∃ w, exec (.supHang core) s = .next { s with gong := w }) ∧
  (∀ (s : State), ∃ w, exec (.lockoutExpire) s = .next { s with sec := w }) ∧
  (∀ (s : State), ∃ w, exec (.zeroizeNRelease) s = .next { s with sec := w }) ∧
  (∀ (c : Fin 8) (s : State), ∃ w, exec (.challengeExpire c) s = .next { s with ctxs := w }) ∧
  (∀ (c : Fin 8) (s : State), ∃ w, exec (.offerExpire c) s = .next { s with ctxs := w }) ∧
  (∀ (m : Fin 9) (s : State), ∃ w, exec (.brushStall m) s = .next { s with brush := w }) ∧
  (∀ (g : Fin 8) (handoff : Option Nat) (s : State), ∃ w, exec (.takeoverDefer g handoff) s = .next { s with grps := w }) ∧
  (∀ (g : Fin 8) (s : State), ∃ w, exec (.handbackAfterBurst g) s = .next { s with grps := w }) ∧
  (∀ (g : Fin 8) (s : State), ∃ w, exec (.handoff g) s = .next { s with grps := w }) ∧
  (∀ (rail : Fin 11) (s : State), ∃ w, exec (.railTimeout rail) s = .next { s with power := w }) ∧
  (∀ (s : State), ∃ w, exec (.refclkWaitTimeout) s = .next { s with power := w }) ∧
  (∀ (s : State), ∃ w k, exec (.maintSlot) s = .next { s with store := w, free := k })

/-- With power applied and the device not yet held, a sensor reading of 125 °C or more (in 1/16 °C) gives a device in reset: held, RESET_CAUSE THERMAL (4), no start-up step done and not ready, every regulator off, the clock unit not locked, the link down and every context closed, whatever firmware was doing. Held for that cause, it begins start-up again at step 1 when sensors 14 and 15 both read below 85 °C, and not before. -/
def Obligations.OverheatingResetsTheDevice : Prop :=
  (∀ (n : Fin 16) (temp : Int) (s : State), 2000 ≤ temp → s.power.vin = true → s.power.held = false →
      ∃ t, exec (.tempSample n temp) s = .next t ∧ t.power.held = true ∧ t.power.cause = 4 ∧ t.power.stepDone = 0 ∧ t.power.ready = false ∧
        (∀ r : Fin 11, (t.power.rails[r]).enabled = false) ∧ t.power.locked = false ∧ t.link.linkUp = false ∧
        (∀ c : Fin 8, (t.ctxs[c]).isOpen = false) ∧ (t.power.sensors[n]).temp = temp) ∧
  (∀ (m : Bool) (s : State), s.power.held = true → s.power.cause = 4 →
      ((s.power.sensors[(14 : Fin 16)]).temp < 85 * 16 → (s.power.sensors[(15 : Fin 16)]).temp < 85 * 16 →
        ∃ t, exec (.thermalRestart m) s = .next t ∧ t.power = { s.power with held := false } ∧ t.ring = { s.ring with master := m }) ∧
      (85 * 16 ≤ (s.power.sensors[(14 : Fin 16)]).temp ∨ 85 * 16 ≤ (s.power.sensors[(15 : Fin 16)]).temp →
        exec (.thermalRestart m) s = .next s))

/-- At reset the queue is empty, no start-up step is done and the device is not ready; the link is down, the TIME latch and XB_BUSY are zero; every context is closed with its mailbox empty; no group, engine, unit, alarm or tap channel has an owner and no sequencer runs; every driver and load is off with the pin at high impedance; QUIET_MS is 100 and there is no fault state; the ring is not trained; Brush has initialized nothing. -/
def Obligations.ResetLeavesTheDeviceAtItsFirstStep : Prop :=
  let s := State.reset;
    s.pending = [] ∧ s.power.stepDone = 0 ∧ s.power.ready = false ∧ s.link.linkUp = false ∧ s.link.timeLatch = 0 ∧ s.link.xbCollided = false ∧
    (∀ c : Fin 8, (s.ctxs[c]).isOpen = false ∧ (s.ctxs[c]).prod = 0 ∧ (s.ctxs[c]).cons = 0) ∧
    (∀ g : Fin 8, (s.grps[g]).owner = .none ∧ (s.grps[g]).seq = none) ∧ (∀ q : Fin 4, (s.seqs[q]).st = .idle) ∧
    (∀ e : Fin 8, (s.caps[e]).owner = .none) ∧ (∀ u : Fin 16, (s.tmus[u]).owner = .none) ∧ (∀ n : Fin 8, (s.alarms[n]).owner = .none) ∧
    (∀ n : Fin 64, (s.taps.chans[n]).owner = .none) ∧
    (∀ p : Fin 128, (s.pins[p]).on = false ∧ (s.pins[p]).haltHiz = true ∧ (s.pins[p]).ppmu.mode = 0) ∧
    s.gong.quietMs = 100 ∧ s.gong.fault = false ∧ s.gong.fatal = false ∧ s.ring.trained = false ∧
    (∀ m : Fin 9, (s.brush[m]).initDone = false) ∧ s.commits = []

/-- CTX_OPEN of a closed context, taken at once and passing intake: if its rings and permissions are in order and it asks for more than the pool has left it is refused REFUSED_INFLIGHT (0x021) with QUOTA_POOL (0x0021), on the ring of descriptor 0; and if the quotas of the open contexts together are at most 4,096 before it, they are at most 4,096 after it, whatever its outcome. The default quota is 512, and eight of them are the pool. -/
def Obligations.OpenContextsShareTheQuotaPool : Prop :=
  (∀ (c : Fin 8) (p : Pkt) (s : State), s.takes c = true → s.ctxs[c].pending = 0 → pktUnits p.units ≤ 32767 →
      s.ctxs[c].isOpen = false → intakeFail s c 0x001 p = none →
      (1 ≤ openRings p ∧ openRings p ≤ 4 ∧ p.units = 4 * openRings p ∧ p.a0 12 0 ≤ 4096 ∧ (∀ k < openRings p, descInRange (openDesc p k) = true) ∧
        s.permits c p = true) →
      s.quotaFree < openQuota p →
      exec (.ctxOpen c p) s = .next ((s.fetched c 0x001 p).openRefused c p (0x021, 0x0021))) ∧
  (∀ (c : Fin 8) (p : Pkt) (s : State), s.takes c = true → s.ctxs[c].pending = 0 → pktUnits p.units ≤ 32767 →
      s.ctxs[c].isOpen = false → (s.ctxs.toList.map (fun x => if x.isOpen then x.quota else 0)).sum ≤ 4096 →
      ∃ t, exec (.ctxOpen c p) s = .next t ∧ (t.ctxs.toList.map (fun x => if x.isOpen then x.quota else 0)).sum ≤ 4096) ∧
  (∀ p : Pkt, p.a0 12 0 = 0 → 8 * openQuota p = 4096)
end

