-- ==== Sys2Proof/Laws/Intake.lean ====
section
/-! SUPPORT. What the intake of an admitted packet comes to: the body of its command, run on the state in which the packet
is in flight. Every completion statement of a host command goes through `completes_of_body`. -/

namespace Sys2Proof.Machine

open Sys2Proof

/-- Element `i` of a file after it was changed. -/
theorem vmod_self {α : Type} {n : Nat} (v : Vector α n) (i : Fin n) (f : α → α) : (vmod v i f)[i] = f v[i] := by
  simp [vmod]

/-- Element `i` of a file after it was changed, with the index as a number. -/
@[simp] theorem vmod_self_val {α : Type} {n : Nat} (v : Vector α n) (i : Fin n) (f : α → α) :
    (vmod v i f)[(i : Nat)] = f v[(i : Nat)] := by
  simp [vmod]

/-- Another element of a file after element `i` was changed. -/
theorem vmod_other {α : Type} {n : Nat} (v : Vector α n) (i j : Fin n) (f : α → α) (h : j ≠ i) : (vmod v i f)[j] = v[j] := by
  have hv : i.val ≠ j.val := fun e => h (Fin.ext e.symm)
  simp [vmod, hv]

/-- The context that was changed. -/
theorem State.modCtx_self (s : State) (c : Fin 8) (f : Ctx → Ctx) : (s.modCtx c f).ctxs[c] = f s.ctxs[c] :=
  vmod_self s.ctxs c f

/-- Two changes of one context make one. -/
theorem State.modCtx_modCtx (s : State) (c : Fin 8) (f g : Ctx → Ctx) : (s.modCtx c f).modCtx c g = s.modCtx c (fun x => g (f x)) := by
  simp [State.modCtx, vmod]

/-- What fetching an admitted packet does to its context: window, producer and consumer offsets only. -/
def Ctx.fetch (x : Ctx) (op : Nat) (p : Pkt) : Ctx :=
  { (x.writeWindow (32 * x.prod) (p.encode op)) with prod := (x.prod + pktUnits p.units) % 32768, cons := (x.cons + pktUnits p.units) % 32768 }

/-- A fetched packet changes its context and nothing else. -/
theorem State.fetched_eq (s : State) (c : Fin 8) (op : Nat) (p : Pkt) (hf : s.ctxs[c].pending = 0)
    (hu : pktUnits p.units ≤ 32767) : s.fetched c op p = s.modCtx c (fun _ => s.ctxs[c].fetch op p) := by
  have h : s.ctxs[c].pending + pktUnits p.units ≤ 32767 := by omega
  simp only [State.fetched, State.place, State.modCtx_modCtx]
  simp only [State.modCtx, vmod, h, if_true]
  rfl

/-- Steps 3 to 8 of R38 look at nothing that fetching a packet changes. -/
theorem intakeFail_fetched (s : State) (c : Fin 8) (op : Nat) (p q : Pkt) :
    intakeFail (s.modCtx c (fun _ => s.ctxs[c].fetch op q)) c op p = intakeFail s c op p := by
  simp only [intakeFail, State.officer, State.modCtx_self]
  rfl

/-- Counting a packet in flight changes only its context's tags. -/
theorem State.enter_eq (s : State) (c : Fin 8) (op : Nat) (p : Pkt) :
    ∃ f : Ctx → Ctx, s.enter c op p = s.modCtx c f ∧ ∀ x : Ctx, (f x).isOpen = x.isOpen ∧ (f x).expert = x.expert ∧ (f x).officer = x.officer := by
  unfold State.enter
  split
  · exact ⟨id, by simp [State.modCtx, vmod], fun x => ⟨rfl, rfl, rfl⟩⟩
  · exact ⟨_, rfl, fun x => ⟨rfl, rfl, rfl⟩⟩

/-- Steps 9 and 10 of R38 look at nothing that the intake before them changes. -/
theorem roleFail_entered (s : State) (c : Fin 8) (op : Nat) (p q r : Pkt) :
    roleFail ((s.modCtx c (fun _ => s.ctxs[c].fetch op q)).enter c op r) c op p = roleFail s c op p := by
  obtain ⟨f, hf, hx⟩ := State.enter_eq (s.modCtx c (fun _ => s.ctxs[c].fetch op q)) c op r
  have h := hx (s.ctxs[c].fetch op q)
  rw [hf]
  simp only [roleFail, State.officer, State.modCtx_self, h]
  rfl

/-- An admitted packet runs the checks and the body of its command. -/
theorem State.deliver_admitted (s : State) (c : Fin 8) (op : Nat) (p : Pkt) (h : s.Admits c op p)
    (owns busy : Hdr → Pkt → State → Option Fail) (body : Hdr → Pkt → State → State)
    (ho : owns (s.answer c op p) (s.plain c op p) (s.taken c op p) = none)
    (hb : busy (s.answer c op p) (s.plain c op p) (s.taken c op p) = none) :
    (s.fetched c op p).deliver c op p owns busy body = body (s.answer c op p) (s.plain c op p) (s.taken c op p) := by
  have hfe := State.fetched_eq s c op p h.front h.fits
  have hop : (s.fetched c op p).ctxs[c].isOpen = true := by
    rw [hfe, State.modCtx_self]; exact h.opened
  have hin : intakeFail (s.fetched c op p) c op p = none := by rw [hfe, intakeFail_fetched]; exact h.intake
  have hro : roleFail ((s.fetched c op p).enter c op p) c op p = none := by rw [hfe, roleFail_entered]; exact h.role
  have hh := h.health
  have hs := h.seals
  unfold State.deliver
  simp only [hop, hin, hro, Bool.not_true, Bool.false_eq_true, if_false]
  have hsplit : ((s.fetched c op p).enter c op p).openSeal c op p = (s.taken c op p, s.plain c op p, none) := by
    unfold State.taken State.plain
    by_cases hp : p.isS = true
    · rw [← (hs hp).1]
    · simp [State.openSeal, hp]
  have hpay : ((s.plain c op p).isS && !payOk op (s.plain c op p) (s.plain c op p).payload) = false := by
    by_cases hp : p.isS = true
    · simp [(hs hp).2]
    · have : s.plain c op p = p := by simp [State.plain, State.openSeal, hp]
      simp [this, hp]
  rw [hsplit]
  simp only [hpay, State.runChecked]
  show (match owns (s.answer c op p) _ _ with | some f => _ | none => _) = _
  rw [ho]
  simp only [hh]
  show (match busy (s.answer c op p) _ _ with | some f => _ | none => _) = _
  rw [hb]
  rfl

/-- An admitted packet is sent and taken in one go. -/
theorem hostCmd_admitted (s : State) (c : Fin 8) (op : Nat) (p : Pkt) (h : s.Admits c op p) (take : Pkt → State → State) :
    hostCmd s c op p take = .next (take p (s.fetched c op p)) := by
  have hl : s.link.linkUp = true := by
    have := h.takes; simp only [State.takes, Bool.and_eq_true] at this; exact this.1.1.1.1
  have hf := h.front
  simp only [hostCmd, State.send, hl, h.takes, hf, h.fits, State.fetched, Bool.not_true, Bool.false_eq_true, if_false, decide_true, Bool.and_self, if_true]

/-- The packet in plain differs from the packet in its payload only. -/
theorem State.plain_eq (s : State) (c : Fin 8) (op : Nat) (p : Pkt) : ∃ bs, s.plain c op p = { p with payload := bs } := by
  unfold State.plain State.openSeal
  split
  · exact ⟨p.payload, rfl⟩
  · dsimp only
    split
    · exact ⟨_, rfl⟩
    · exact ⟨p.payload, rfl⟩

/-- A host command whose meaning delivers its packet completes where its own checks pass and its body gives what is asked. -/
theorem completes_of_body (i : Instr) (c : Fin 8) (op : Nat) (p : Pkt) (pre : Hdr → Pkt → State → Prop)
    (post : Hdr → Pkt → State → State → Prop) (owns busy : Hdr → Pkt → State → Option Fail) (body : Hdr → Pkt → State → State)
    (hi : ∀ s, exec i s = hostCmd s c op p (fun q s => s.deliver c op q owns busy body))
    (hp : ∀ h bs a, let q : Pkt := { p with payload := bs }; pre h q a → owns h q a = none ∧ busy h q a = none ∧ post h q a (body h q a)) :
    Completes i c op p pre post := by
  intro s ha hpre
  obtain ⟨bs, hq⟩ := s.plain_eq c op p
  rw [hq] at hpre
  obtain ⟨ho, hb, hpost⟩ := hp _ bs _ hpre
  rw [← hq] at ho hb hpost
  refine ⟨_, ?_, hpost⟩
  rw [hi, hostCmd_admitted s c op p ha, State.deliver_admitted s c op p ha owns busy body ho hb]

/-- The field that a row selects has the row's value. -/
theorem Pkt.a0_withA0 (p : Pkt) (hi lo v : Nat) (hl : lo ≤ hi) (hh : hi < 32) (hv : v < 2 ^ (hi + 1 - lo)) :
    (p.withA0 hi lo v).a0 hi lo = v := by
  have hw : p.arg0.toNat < 2 ^ 32 := p.arg0.isLt
  generalize hwg : p.arg0.toNat = w at hw
  obtain ⟨k, hk⟩ : ∃ k, hi + 1 - lo = k := ⟨_, rfl⟩
  have hb : bits w hi lo = w / 2 ^ lo % 2 ^ k := by simp [bits, Nat.shiftRight_eq_div_pow, hk]
  have h1 : w = w % 2 ^ lo + 2 ^ lo * (w / 2 ^ lo) := (Nat.mod_add_div w (2 ^ lo)).symm
  have h2 : w / 2 ^ lo = w / 2 ^ lo % 2 ^ k + 2 ^ k * (w / 2 ^ lo / 2 ^ k) := (Nat.mod_add_div _ _).symm
  have hC : w % 2 ^ lo < 2 ^ lo := Nat.mod_lt _ (by positivity)
  generalize w % 2 ^ lo = C at *
  generalize w / 2 ^ lo = D at *
  have hB : D % 2 ^ k < 2 ^ k := Nat.mod_lt _ (by positivity)
  generalize D % 2 ^ k = B at *
  generalize D / 2 ^ k = A at *
  rw [hk] at hv
  have hpow : 2 ^ lo * 2 ^ k = 2 ^ (hi + 1) := by rw [← pow_add]; congr 1; omega
  have hsub : w - B * 2 ^ lo + v * 2 ^ lo = C + 2 ^ lo * (v + 2 ^ k * A) := by
    rw [h1, h2]
    have : C + 2 ^ lo * (B + 2 ^ k * A) - B * 2 ^ lo = C + 2 ^ lo * (2 ^ k * A) := by
      rw [Nat.mul_add, Nat.mul_comm B]; omega
    rw [this]; ring
  have hlt : C + 2 ^ lo * (v + 2 ^ k * A) < 2 ^ 32 := by
    obtain ⟨m, hm⟩ : ∃ m, 2 ^ 32 = 2 ^ lo * (2 ^ k * m) ∧ 0 < m := by
      refine ⟨2 ^ (31 - hi), ?_, by positivity⟩
      rw [← Nat.mul_assoc, hpow, ← pow_add]; congr 1; omega
    have hA : A < m := by
      by_contra hc
      have : m ≤ A := Nat.le_of_not_lt hc
      have h3 : 2 ^ lo * (2 ^ k * m) ≤ 2 ^ lo * (2 ^ k * A) := Nat.mul_le_mul_left _ (Nat.mul_le_mul_left _ this)
      have h4 : 2 ^ lo * (2 ^ k * A) ≤ w := by
        rw [h1, h2, Nat.mul_add]; omega
      omega
    have h5 : v + 2 ^ k * A + 1 ≤ 2 ^ k * m := by
      have : 2 ^ k * (A + 1) ≤ 2 ^ k * m := Nat.mul_le_mul_left _ hA
      rw [Nat.mul_add] at this; omega
    have h6 : 2 ^ lo * (v + 2 ^ k * A + 1) ≤ 2 ^ lo * (2 ^ k * m) := Nat.mul_le_mul_left _ h5
    rw [Nat.mul_add] at h6
    omega
  simp only [Pkt.a0, Pkt.withA0, hwg, hb]
  rw [hsub, BitVec.toNat_ofNat, Nat.mod_eq_of_lt hlt]
  simp only [bits, hk, Nat.shiftRight_eq_div_pow]
  rw [Nat.add_comm, Nat.mul_add_div (by positivity), Nat.div_eq_of_lt hC]
  simp [Nat.add_mul_mod_self_left, Nat.mod_eq_of_lt hv]

/-- A selected single bit is set as the row says. -/
theorem Pkt.b0_withA0 (p : Pkt) (i : Nat) (b : Bool) (hi : i < 32) : (p.withA0 i i (b2n b)).b0 i = b := by
  have h := Pkt.a0_withA0 p i i (b2n b) (le_refl _) hi (by cases b <;> simp [b2n])
  simp only [Pkt.a0, bits] at h
  have h2 : i + 1 - i = 1 := by omega
  rw [h2, Nat.shiftRight_eq_div_pow] at h
  simp only [Pkt.b0, bit, Nat.testBit_eq_decide_div_mod_eq]
  cases b <;> simp [b2n] at h ⊢ <;> omega

/-- A selected single bit is clear where the row clears it. -/
theorem Pkt.b0_withA0_zero (p : Pkt) (i : Nat) (hi : i < 32) : (p.withA0 i i 0).b0 i = false := Pkt.b0_withA0 p i false hi
/-- A selected single bit is set where the row sets it. -/
theorem Pkt.b0_withA0_one (p : Pkt) (i : Nat) (hi : i < 32) : (p.withA0 i i 1).b0 i = true := Pkt.b0_withA0 p i true hi

/-- A packet whose ARG0 is that of a row has the row's field. -/
theorem Pkt.a0_of_row (p q : Pkt) (hi lo v : Nat) (hq : q.arg0 = (p.withA0 hi lo v).arg0) (hl : lo ≤ hi) (hh : hi < 32)
    (hv : v < 2 ^ (hi + 1 - lo)) : q.a0 hi lo = v := by
  have h : q.a0 hi lo = (p.withA0 hi lo v).a0 hi lo := by unfold Pkt.a0; rw [hq]
  rw [h]; exact Pkt.a0_withA0 p hi lo v hl hh hv

/-- A packet whose ARG0 is that of a row that sets one bit has that bit set. -/
theorem Pkt.b0_of_row_one (p q : Pkt) (i : Nat) (hq : q.arg0 = (p.withA0 i i 1).arg0) (hi : i < 32) : q.b0 i = true := by
  have h : q.b0 i = (p.withA0 i i 1).b0 i := by unfold Pkt.b0; rw [hq]
  rw [h]; exact Pkt.b0_withA0_one p i hi

/-- A packet whose ARG0 is that of a row that clears one bit has that bit clear. -/
theorem Pkt.b0_of_row_zero (p q : Pkt) (i : Nat) (hq : q.arg0 = (p.withA0 i i 0).arg0) (hi : i < 32) : q.b0 i = false := by
  have h : q.b0 i = (p.withA0 i i 0).b0 i := by unfold Pkt.b0; rw [hq]
  rw [h]; exact Pkt.b0_withA0_zero p i hi

/-- A bit of ARG0 is the bit of the field that holds it. -/
theorem Pkt.b0_of_a0 (p : Pkt) (hi lo i : Nat) (h : lo + i ≤ hi) : p.b0 (lo + i) = (p.a0 hi lo).testBit i := by
  simp only [Pkt.b0, bit, Pkt.a0, bits, Nat.testBit_mod_two_pow, Nat.testBit_shiftRight]
  have : i < hi + 1 - lo := by omega
  simp [this]

/-- A check fails exactly where its condition holds. -/
@[simp] theorem failIf_none (b : Bool) (st sub : Nat) : failIf b st sub = none ↔ b = false := by
  cases b <;> simp [failIf]

/-- LENGTH is checked against the number of units that a layout gives. -/
@[simp] theorem lenFail_none (p : Pkt) (n : Nat) : lenFail p n = none ↔ p.units = n := by
  unfold lenFail; split <;> simp_all

/-- A list of checks passes where each of them does. -/
@[simp] theorem firstFail_cons (x : Option Fail) (l : List (Option Fail)) : firstFail (x :: l) = none ↔ x = none ∧ firstFail l = none := by
  cases x <;> simp [firstFail]

/-- No check fails. -/
@[simp] theorem firstFail_nil : firstFail [] = none := rfl

/-- The resource is the sender's. -/
@[simp] theorem notMine_false (o : Owner) (h : Hdr) : notMine o h = false ↔ o = h.who := by simp [notMine]

/-- The resource is free or the sender's. -/
@[simp] theorem takenFrom_false (o : Owner) (h : Hdr) : takenFrom o h = false ↔ o = .none ∨ o = h.who := by
  by_cases h1 : o = .none <;> simp [takenFrom, h1]

/-- The group check of R10. -/
@[simp] theorem ownGrp_none (h : Hdr) (q : Pkt) (a : State) : ownGrp h q a = none ↔ groupMine h q a := by
  simp [ownGrp, groupMine]

/-- The sequencer check of R101. -/
@[simp] theorem ownSeq_none (h : Hdr) (q : Pkt) (a : State) : ownSeq h q a = none ↔ seqMine h q a := by
  simp [ownSeq, seqMine]

/-- A command whose checks pass goes on. -/
theorem State.unlessFail_of_none (s : State) (h : Hdr) {f : Option Fail} (k : State → State) (hf : f = none) : s.unlessFail h f k = k s := by
  subst hf; rfl

/-- A staged write that has room joins the staging set (R60, R66). -/
theorem State.stage_joined (s : State) (h : Hdr) (op : Nat) (q : Pkt) (echo : List Byte) (hr : stageRoom h q s) :
    s.stage h op q echo = s.joined h op q echo := by
  obtain ⟨h1, h2⟩ := hr
  have h5 : ¬ (1024 ≤ s.ctxs[h.mb].stage.length) := by omega
  have h6 : ¬ (2 ^ 20 < stageBytes s.ctxs[h.mb].stage + 8 * q.units) := by omega
  simp only [State.stage, State.joined, h5, h6, Bool.false_eq_true, if_false, decide_false, Bool.or_self]

/-- The body of a staged write whose form is right and that has room. -/
theorem stageBody_joined (op : Nat) (form : Pkt → Option Fail) (echo : State → Hdr → Pkt → List Byte) (h : Hdr) (q : Pkt)
    (s : State) (hf : form q = none) (hr : stageRoom h q s) : stageBody op form echo h q s = s.joined h op q (echo s h q) := by
  rw [stageBody, State.unlessFail_of_none s h _ hf, State.stage_joined s h op q _ hr]

/-- A staging set that passes its checks is strobed by a plain commit (R61). -/
theorem State.commitSet_ok (s : State) (h : Hdr) (pay : List Byte) (hc : commitOk h s) :
    s.commitSet h pay none = (s.modCtx h.mb (fun x => { x with stage := [] })).strobe { hdr := h, ctx := h.mb, all := s.ctxs[h.mb].stage, payload := pay, ts := s.nowSI } := by
  have h1 : (if s.ctxs[h.mb].stage.isEmpty then none else s.commitChecks h.who s.ctxs[h.mb].stage s.planned (s.ctxs[h.mb].stage.foldl Cfg.put s.planned)) = none := by
    rcases hc with hc | hc
    · simp only [hc, List.isEmpty_nil, if_true]
    · rw [hc]; split <;> rfl
  simp only [State.commitSet, h1, Bool.false_eq_true, if_false]
  rfl

/-- A staging set that passes its checks waits for a tick still to come (R65). -/
theorem State.commitSet_at (s : State) (h : Hdr) (pay : List Byte) (t : Nat) (hc : commitOk h s) (ht : s.tick < t) :
    s.commitSet h pay (some t) =
      { (s.modCtx h.mb (fun x => { x with stage := [] })) with commits := s.commits ++ [{ hdr := h, ctx := h.mb, atTick := t, waiting := true, all := s.ctxs[h.mb].stage, payload := pay, ts := { fine := t * 512 } }] } := by
  have h1 : (if s.ctxs[h.mb].stage.isEmpty then none else s.commitChecks h.who s.ctxs[h.mb].stage s.planned (s.ctxs[h.mb].stage.foldl Cfg.put s.planned)) = none := by
    rcases hc with hc | hc
    · simp only [hc, List.isEmpty_nil, if_true]
    · rw [hc]; split <;> rfl
  have h2 : ¬ t ≤ s.tick := by omega
  simp only [State.commitSet, h1, h2, decide_false, Bool.false_eq_true, if_false]
  rfl

/-- Bit 0 of a word that a row sets. -/
theorem bits_set_low (w : Word) : bits (w ||| 1).toNat 0 0 = 1 := by
  simp [bits]

/-- Bit 0 of a word that a row clears. -/
theorem bits_clear_low (w : Word) : bits (w &&& 0xFFFFFFFE).toNat 0 0 = 0 := by
  have h : (w.toNat &&& 4294967294).testBit 0 = false := by
    rw [Nat.testBit_and]
    have : Nat.testBit 4294967294 0 = false := by decide
    rw [this, Bool.and_false]
  have h2 : (w &&& 0xFFFFFFFE).toNat = w.toNat &&& 4294967294 := by simp
  rw [Nat.testBit_zero, decide_eq_false_iff_not] at h
  simp only [bits, Nat.shiftRight_zero, h2]
  show (w.toNat &&& 4294967294) % 2 ^ 1 = 0
  omega

end Sys2Proof.Machine
end

