-- ==== Sys2Proof/Laws/Ops.lean ====
section
/-! SUPPORT. What the shared operations do: changes of a file, the entries of a response, and the memories. -/

namespace Sys2Proof.Machine

open Sys2Proof

/-- A fold of changes over a list of distinct indexes reaches each element once. -/
theorem foldl_vmod_get {α : Type} {n : Nat} (f : Fin n → α → α) (i : Fin n) :
    ∀ (l : List (Fin n)) (v : Vector α n), l.Nodup →
      (l.foldl (fun w j => vmod w j (f j)) v)[i] = if i ∈ l then f i v[i] else v[i]
  | [], v, _ => by simp
  | j :: l, v, hn => by
    have hn' := List.nodup_cons.mp hn
    rw [List.foldl_cons, foldl_vmod_get f i l _ hn'.2]
    by_cases hij : i = j
    · subst hij
      simp only [hn'.1, if_false, vmod_self, List.mem_cons, true_or, if_true]
    · simp only [vmod_other v j i (f j) hij, List.mem_cons, hij, false_or]

/-- Every element of a file after a change of all. -/
theorem vmap_get {α : Type} {n : Nat} (v : Vector α n) (f : Fin n → α → α) (i : Fin n) : (vmap v f)[i] = f i v[i] := by
  unfold vmap
  rw [foldl_vmod_get f i _ v (List.nodup_finRange n)]
  simp

/-- What every turn of a fold over indexes keeps, the fold keeps. -/
theorem forFin_inv {σ : Type} (P : σ → Prop) (n : Nat) (f : Fin n → σ → σ) (s : σ) (hf : ∀ i t, P t → P (f i t)) (hs : P s) : P (forFin n f s) := by
  unfold forFin
  generalize List.finRange n = l
  induction l generalizing s with
  | nil => exact hs
  | cons i l ih => exact ih _ (hf i s hs)

end Sys2Proof.Machine
end

