-- ==== Sys2Proof/Laws/State.lean ====
section
/-! SUPPORT. What each update of one component of the state leaves and what it sets: one lemma per field per update. -/

namespace Sys2Proof.Machine

open Sys2Proof

/-! ### modCtx -/

@[simp] theorem State.modCtx_pending (s : State) (c : Fin 8) (f : Ctx → Ctx) : (s.modCtx c f).pending = s.pending := rfl
@[simp] theorem State.modCtx_metro (s : State) (c : Fin 8) (f : Ctx → Ctx) : (s.modCtx c f).metro = s.metro := rfl
@[simp] theorem State.modCtx_free (s : State) (c : Fin 8) (f : Ctx → Ctx) : (s.modCtx c f).free = s.free := rfl
@[simp] theorem State.modCtx_link (s : State) (c : Fin 8) (f : Ctx → Ctx) : (s.modCtx c f).link = s.link := rfl
@[simp] theorem State.modCtx_cfg (s : State) (c : Fin 8) (f : Ctx → Ctx) : (s.modCtx c f).cfg = s.cfg := rfl
@[simp] theorem State.modCtx_commits (s : State) (c : Fin 8) (f : Ctx → Ctx) : (s.modCtx c f).commits = s.commits := rfl
@[simp] theorem State.modCtx_seqs (s : State) (c : Fin 8) (f : Ctx → Ctx) : (s.modCtx c f).seqs = s.seqs := rfl
@[simp] theorem State.modCtx_pins (s : State) (c : Fin 8) (f : Ctx → Ctx) : (s.modCtx c f).pins = s.pins := rfl
@[simp] theorem State.modCtx_grps (s : State) (c : Fin 8) (f : Ctx → Ctx) : (s.modCtx c f).grps = s.grps := rfl
@[simp] theorem State.modCtx_store (s : State) (c : Fin 8) (f : Ctx → Ctx) : (s.modCtx c f).store = s.store := rfl
@[simp] theorem State.modCtx_flogs (s : State) (c : Fin 8) (f : Ctx → Ctx) : (s.modCtx c f).flogs = s.flogs := rfl
@[simp] theorem State.modCtx_flogNext (s : State) (c : Fin 8) (f : Ctx → Ctx) : (s.modCtx c f).flogNext = s.flogNext := rfl
@[simp] theorem State.modCtx_fmaps (s : State) (c : Fin 8) (f : Ctx → Ctx) : (s.modCtx c f).fmaps = s.fmaps := rfl
@[simp] theorem State.modCtx_caps (s : State) (c : Fin 8) (f : Ctx → Ctx) : (s.modCtx c f).caps = s.caps := rfl
@[simp] theorem State.modCtx_capNext (s : State) (c : Fin 8) (f : Ctx → Ctx) : (s.modCtx c f).capNext = s.capNext := rfl
@[simp] theorem State.modCtx_outFlog (s : State) (c : Fin 8) (f : Ctx → Ctx) : (s.modCtx c f).outFlog = s.outFlog := rfl
@[simp] theorem State.modCtx_tmus (s : State) (c : Fin 8) (f : Ctx → Ctx) : (s.modCtx c f).tmus = s.tmus := rfl
@[simp] theorem State.modCtx_taps (s : State) (c : Fin 8) (f : Ctx → Ctx) : (s.modCtx c f).taps = s.taps := rfl
@[simp] theorem State.modCtx_alarms (s : State) (c : Fin 8) (f : Ctx → Ctx) : (s.modCtx c f).alarms = s.alarms := rfl
@[simp] theorem State.modCtx_mcs (s : State) (c : Fin 8) (f : Ctx → Ctx) : (s.modCtx c f).mcs = s.mcs := rfl
@[simp] theorem State.modCtx_sram (s : State) (c : Fin 8) (f : Ctx → Ctx) : (s.modCtx c f).sram = s.sram := rfl
@[simp] theorem State.modCtx_brush (s : State) (c : Fin 8) (f : Ctx → Ctx) : (s.modCtx c f).brush = s.brush := rfl
@[simp] theorem State.modCtx_tune (s : State) (c : Fin 8) (f : Ctx → Ctx) : (s.modCtx c f).tune = s.tune := rfl
@[simp] theorem State.modCtx_flash (s : State) (c : Fin 8) (f : Ctx → Ctx) : (s.modCtx c f).flash = s.flash := rfl
@[simp] theorem State.modCtx_gong (s : State) (c : Fin 8) (f : Ctx → Ctx) : (s.modCtx c f).gong = s.gong := rfl
@[simp] theorem State.modCtx_ring (s : State) (c : Fin 8) (f : Ctx → Ctx) : (s.modCtx c f).ring = s.ring := rfl
@[simp] theorem State.modCtx_sec (s : State) (c : Fin 8) (f : Ctx → Ctx) : (s.modCtx c f).sec = s.sec := rfl
@[simp] theorem State.modCtx_power (s : State) (c : Fin 8) (f : Ctx → Ctx) : (s.modCtx c f).power = s.power := rfl
@[simp] theorem State.modCtx_ctxs (s : State) (c : Fin 8) (f : Ctx → Ctx) : (s.modCtx c f).ctxs = vmod s.ctxs c f := rfl

/-! ### modSeq -/

@[simp] theorem State.modSeq_pending (s : State) (q : Fin 4) (f : Seq → Seq) : (s.modSeq q f).pending = s.pending := rfl
@[simp] theorem State.modSeq_metro (s : State) (q : Fin 4) (f : Seq → Seq) : (s.modSeq q f).metro = s.metro := rfl
@[simp] theorem State.modSeq_free (s : State) (q : Fin 4) (f : Seq → Seq) : (s.modSeq q f).free = s.free := rfl
@[simp] theorem State.modSeq_link (s : State) (q : Fin 4) (f : Seq → Seq) : (s.modSeq q f).link = s.link := rfl
@[simp] theorem State.modSeq_ctxs (s : State) (q : Fin 4) (f : Seq → Seq) : (s.modSeq q f).ctxs = s.ctxs := rfl
@[simp] theorem State.modSeq_cfg (s : State) (q : Fin 4) (f : Seq → Seq) : (s.modSeq q f).cfg = s.cfg := rfl
@[simp] theorem State.modSeq_commits (s : State) (q : Fin 4) (f : Seq → Seq) : (s.modSeq q f).commits = s.commits := rfl
@[simp] theorem State.modSeq_pins (s : State) (q : Fin 4) (f : Seq → Seq) : (s.modSeq q f).pins = s.pins := rfl
@[simp] theorem State.modSeq_grps (s : State) (q : Fin 4) (f : Seq → Seq) : (s.modSeq q f).grps = s.grps := rfl
@[simp] theorem State.modSeq_store (s : State) (q : Fin 4) (f : Seq → Seq) : (s.modSeq q f).store = s.store := rfl
@[simp] theorem State.modSeq_flogs (s : State) (q : Fin 4) (f : Seq → Seq) : (s.modSeq q f).flogs = s.flogs := rfl
@[simp] theorem State.modSeq_flogNext (s : State) (q : Fin 4) (f : Seq → Seq) : (s.modSeq q f).flogNext = s.flogNext := rfl
@[simp] theorem State.modSeq_fmaps (s : State) (q : Fin 4) (f : Seq → Seq) : (s.modSeq q f).fmaps = s.fmaps := rfl
@[simp] theorem State.modSeq_caps (s : State) (q : Fin 4) (f : Seq → Seq) : (s.modSeq q f).caps = s.caps := rfl
@[simp] theorem State.modSeq_capNext (s : State) (q : Fin 4) (f : Seq → Seq) : (s.modSeq q f).capNext = s.capNext := rfl
@[simp] theorem State.modSeq_outFlog (s : State) (q : Fin 4) (f : Seq → Seq) : (s.modSeq q f).outFlog = s.outFlog := rfl
@[simp] theorem State.modSeq_tmus (s : State) (q : Fin 4) (f : Seq → Seq) : (s.modSeq q f).tmus = s.tmus := rfl
@[simp] theorem State.modSeq_taps (s : State) (q : Fin 4) (f : Seq → Seq) : (s.modSeq q f).taps = s.taps := rfl
@[simp] theorem State.modSeq_alarms (s : State) (q : Fin 4) (f : Seq → Seq) : (s.modSeq q f).alarms = s.alarms := rfl
@[simp] theorem State.modSeq_mcs (s : State) (q : Fin 4) (f : Seq → Seq) : (s.modSeq q f).mcs = s.mcs := rfl
@[simp] theorem State.modSeq_sram (s : State) (q : Fin 4) (f : Seq → Seq) : (s.modSeq q f).sram = s.sram := rfl
@[simp] theorem State.modSeq_brush (s : State) (q : Fin 4) (f : Seq → Seq) : (s.modSeq q f).brush = s.brush := rfl
@[simp] theorem State.modSeq_tune (s : State) (q : Fin 4) (f : Seq → Seq) : (s.modSeq q f).tune = s.tune := rfl
@[simp] theorem State.modSeq_flash (s : State) (q : Fin 4) (f : Seq → Seq) : (s.modSeq q f).flash = s.flash := rfl
@[simp] theorem State.modSeq_gong (s : State) (q : Fin 4) (f : Seq → Seq) : (s.modSeq q f).gong = s.gong := rfl
@[simp] theorem State.modSeq_ring (s : State) (q : Fin 4) (f : Seq → Seq) : (s.modSeq q f).ring = s.ring := rfl
@[simp] theorem State.modSeq_sec (s : State) (q : Fin 4) (f : Seq → Seq) : (s.modSeq q f).sec = s.sec := rfl
@[simp] theorem State.modSeq_power (s : State) (q : Fin 4) (f : Seq → Seq) : (s.modSeq q f).power = s.power := rfl
@[simp] theorem State.modSeq_seqs (s : State) (q : Fin 4) (f : Seq → Seq) : (s.modSeq q f).seqs = vmod s.seqs q f := rfl

/-! ### modPin -/

@[simp] theorem State.modPin_pending (s : State) (p : Fin 128) (f : Pin → Pin) : (s.modPin p f).pending = s.pending := rfl
@[simp] theorem State.modPin_metro (s : State) (p : Fin 128) (f : Pin → Pin) : (s.modPin p f).metro = s.metro := rfl
@[simp] theorem State.modPin_free (s : State) (p : Fin 128) (f : Pin → Pin) : (s.modPin p f).free = s.free := rfl
@[simp] theorem State.modPin_link (s : State) (p : Fin 128) (f : Pin → Pin) : (s.modPin p f).link = s.link := rfl
@[simp] theorem State.modPin_ctxs (s : State) (p : Fin 128) (f : Pin → Pin) : (s.modPin p f).ctxs = s.ctxs := rfl
@[simp] theorem State.modPin_cfg (s : State) (p : Fin 128) (f : Pin → Pin) : (s.modPin p f).cfg = s.cfg := rfl
@[simp] theorem State.modPin_commits (s : State) (p : Fin 128) (f : Pin → Pin) : (s.modPin p f).commits = s.commits := rfl
@[simp] theorem State.modPin_seqs (s : State) (p : Fin 128) (f : Pin → Pin) : (s.modPin p f).seqs = s.seqs := rfl
@[simp] theorem State.modPin_grps (s : State) (p : Fin 128) (f : Pin → Pin) : (s.modPin p f).grps = s.grps := rfl
@[simp] theorem State.modPin_store (s : State) (p : Fin 128) (f : Pin → Pin) : (s.modPin p f).store = s.store := rfl
@[simp] theorem State.modPin_flogs (s : State) (p : Fin 128) (f : Pin → Pin) : (s.modPin p f).flogs = s.flogs := rfl
@[simp] theorem State.modPin_flogNext (s : State) (p : Fin 128) (f : Pin → Pin) : (s.modPin p f).flogNext = s.flogNext := rfl
@[simp] theorem State.modPin_fmaps (s : State) (p : Fin 128) (f : Pin → Pin) : (s.modPin p f).fmaps = s.fmaps := rfl
@[simp] theorem State.modPin_caps (s : State) (p : Fin 128) (f : Pin → Pin) : (s.modPin p f).caps = s.caps := rfl
@[simp] theorem State.modPin_capNext (s : State) (p : Fin 128) (f : Pin → Pin) : (s.modPin p f).capNext = s.capNext := rfl
@[simp] theorem State.modPin_outFlog (s : State) (p : Fin 128) (f : Pin → Pin) : (s.modPin p f).outFlog = s.outFlog := rfl
@[simp] theorem State.modPin_tmus (s : State) (p : Fin 128) (f : Pin → Pin) : (s.modPin p f).tmus = s.tmus := rfl
@[simp] theorem State.modPin_taps (s : State) (p : Fin 128) (f : Pin → Pin) : (s.modPin p f).taps = s.taps := rfl
@[simp] theorem State.modPin_alarms (s : State) (p : Fin 128) (f : Pin → Pin) : (s.modPin p f).alarms = s.alarms := rfl
@[simp] theorem State.modPin_mcs (s : State) (p : Fin 128) (f : Pin → Pin) : (s.modPin p f).mcs = s.mcs := rfl
@[simp] theorem State.modPin_sram (s : State) (p : Fin 128) (f : Pin → Pin) : (s.modPin p f).sram = s.sram := rfl
@[simp] theorem State.modPin_brush (s : State) (p : Fin 128) (f : Pin → Pin) : (s.modPin p f).brush = s.brush := rfl
@[simp] theorem State.modPin_tune (s : State) (p : Fin 128) (f : Pin → Pin) : (s.modPin p f).tune = s.tune := rfl
@[simp] theorem State.modPin_flash (s : State) (p : Fin 128) (f : Pin → Pin) : (s.modPin p f).flash = s.flash := rfl
@[simp] theorem State.modPin_gong (s : State) (p : Fin 128) (f : Pin → Pin) : (s.modPin p f).gong = s.gong := rfl
@[simp] theorem State.modPin_ring (s : State) (p : Fin 128) (f : Pin → Pin) : (s.modPin p f).ring = s.ring := rfl
@[simp] theorem State.modPin_sec (s : State) (p : Fin 128) (f : Pin → Pin) : (s.modPin p f).sec = s.sec := rfl
@[simp] theorem State.modPin_power (s : State) (p : Fin 128) (f : Pin → Pin) : (s.modPin p f).power = s.power := rfl
@[simp] theorem State.modPin_pins (s : State) (p : Fin 128) (f : Pin → Pin) : (s.modPin p f).pins = vmod s.pins p f := rfl

/-! ### modGrp -/

@[simp] theorem State.modGrp_pending (s : State) (g : Fin 8) (f : Grp → Grp) : (s.modGrp g f).pending = s.pending := rfl
@[simp] theorem State.modGrp_metro (s : State) (g : Fin 8) (f : Grp → Grp) : (s.modGrp g f).metro = s.metro := rfl
@[simp] theorem State.modGrp_free (s : State) (g : Fin 8) (f : Grp → Grp) : (s.modGrp g f).free = s.free := rfl
@[simp] theorem State.modGrp_link (s : State) (g : Fin 8) (f : Grp → Grp) : (s.modGrp g f).link = s.link := rfl
@[simp] theorem State.modGrp_ctxs (s : State) (g : Fin 8) (f : Grp → Grp) : (s.modGrp g f).ctxs = s.ctxs := rfl
@[simp] theorem State.modGrp_cfg (s : State) (g : Fin 8) (f : Grp → Grp) : (s.modGrp g f).cfg = s.cfg := rfl
@[simp] theorem State.modGrp_commits (s : State) (g : Fin 8) (f : Grp → Grp) : (s.modGrp g f).commits = s.commits := rfl
@[simp] theorem State.modGrp_seqs (s : State) (g : Fin 8) (f : Grp → Grp) : (s.modGrp g f).seqs = s.seqs := rfl
@[simp] theorem State.modGrp_pins (s : State) (g : Fin 8) (f : Grp → Grp) : (s.modGrp g f).pins = s.pins := rfl
@[simp] theorem State.modGrp_store (s : State) (g : Fin 8) (f : Grp → Grp) : (s.modGrp g f).store = s.store := rfl
@[simp] theorem State.modGrp_flogs (s : State) (g : Fin 8) (f : Grp → Grp) : (s.modGrp g f).flogs = s.flogs := rfl
@[simp] theorem State.modGrp_flogNext (s : State) (g : Fin 8) (f : Grp → Grp) : (s.modGrp g f).flogNext = s.flogNext := rfl
@[simp] theorem State.modGrp_fmaps (s : State) (g : Fin 8) (f : Grp → Grp) : (s.modGrp g f).fmaps = s.fmaps := rfl
@[simp] theorem State.modGrp_caps (s : State) (g : Fin 8) (f : Grp → Grp) : (s.modGrp g f).caps = s.caps := rfl
@[simp] theorem State.modGrp_capNext (s : State) (g : Fin 8) (f : Grp → Grp) : (s.modGrp g f).capNext = s.capNext := rfl
@[simp] theorem State.modGrp_outFlog (s : State) (g : Fin 8) (f : Grp → Grp) : (s.modGrp g f).outFlog = s.outFlog := rfl
@[simp] theorem State.modGrp_tmus (s : State) (g : Fin 8) (f : Grp → Grp) : (s.modGrp g f).tmus = s.tmus := rfl
@[simp] theorem State.modGrp_taps (s : State) (g : Fin 8) (f : Grp → Grp) : (s.modGrp g f).taps = s.taps := rfl
@[simp] theorem State.modGrp_alarms (s : State) (g : Fin 8) (f : Grp → Grp) : (s.modGrp g f).alarms = s.alarms := rfl
@[simp] theorem State.modGrp_mcs (s : State) (g : Fin 8) (f : Grp → Grp) : (s.modGrp g f).mcs = s.mcs := rfl
@[simp] theorem State.modGrp_sram (s : State) (g : Fin 8) (f : Grp → Grp) : (s.modGrp g f).sram = s.sram := rfl
@[simp] theorem State.modGrp_brush (s : State) (g : Fin 8) (f : Grp → Grp) : (s.modGrp g f).brush = s.brush := rfl
@[simp] theorem State.modGrp_tune (s : State) (g : Fin 8) (f : Grp → Grp) : (s.modGrp g f).tune = s.tune := rfl
@[simp] theorem State.modGrp_flash (s : State) (g : Fin 8) (f : Grp → Grp) : (s.modGrp g f).flash = s.flash := rfl
@[simp] theorem State.modGrp_gong (s : State) (g : Fin 8) (f : Grp → Grp) : (s.modGrp g f).gong = s.gong := rfl
@[simp] theorem State.modGrp_ring (s : State) (g : Fin 8) (f : Grp → Grp) : (s.modGrp g f).ring = s.ring := rfl
@[simp] theorem State.modGrp_sec (s : State) (g : Fin 8) (f : Grp → Grp) : (s.modGrp g f).sec = s.sec := rfl
@[simp] theorem State.modGrp_power (s : State) (g : Fin 8) (f : Grp → Grp) : (s.modGrp g f).power = s.power := rfl
@[simp] theorem State.modGrp_grps (s : State) (g : Fin 8) (f : Grp → Grp) : (s.modGrp g f).grps = vmod s.grps g f := rfl

/-! ### modCap -/

@[simp] theorem State.modCap_pending (s : State) (e : Fin 8) (f : Cap → Cap) : (s.modCap e f).pending = s.pending := rfl
@[simp] theorem State.modCap_metro (s : State) (e : Fin 8) (f : Cap → Cap) : (s.modCap e f).metro = s.metro := rfl
@[simp] theorem State.modCap_free (s : State) (e : Fin 8) (f : Cap → Cap) : (s.modCap e f).free = s.free := rfl
@[simp] theorem State.modCap_link (s : State) (e : Fin 8) (f : Cap → Cap) : (s.modCap e f).link = s.link := rfl
@[simp] theorem State.modCap_ctxs (s : State) (e : Fin 8) (f : Cap → Cap) : (s.modCap e f).ctxs = s.ctxs := rfl
@[simp] theorem State.modCap_cfg (s : State) (e : Fin 8) (f : Cap → Cap) : (s.modCap e f).cfg = s.cfg := rfl
@[simp] theorem State.modCap_commits (s : State) (e : Fin 8) (f : Cap → Cap) : (s.modCap e f).commits = s.commits := rfl
@[simp] theorem State.modCap_seqs (s : State) (e : Fin 8) (f : Cap → Cap) : (s.modCap e f).seqs = s.seqs := rfl
@[simp] theorem State.modCap_pins (s : State) (e : Fin 8) (f : Cap → Cap) : (s.modCap e f).pins = s.pins := rfl
@[simp] theorem State.modCap_grps (s : State) (e : Fin 8) (f : Cap → Cap) : (s.modCap e f).grps = s.grps := rfl
@[simp] theorem State.modCap_store (s : State) (e : Fin 8) (f : Cap → Cap) : (s.modCap e f).store = s.store := rfl
@[simp] theorem State.modCap_flogs (s : State) (e : Fin 8) (f : Cap → Cap) : (s.modCap e f).flogs = s.flogs := rfl
@[simp] theorem State.modCap_flogNext (s : State) (e : Fin 8) (f : Cap → Cap) : (s.modCap e f).flogNext = s.flogNext := rfl
@[simp] theorem State.modCap_fmaps (s : State) (e : Fin 8) (f : Cap → Cap) : (s.modCap e f).fmaps = s.fmaps := rfl
@[simp] theorem State.modCap_capNext (s : State) (e : Fin 8) (f : Cap → Cap) : (s.modCap e f).capNext = s.capNext := rfl
@[simp] theorem State.modCap_outFlog (s : State) (e : Fin 8) (f : Cap → Cap) : (s.modCap e f).outFlog = s.outFlog := rfl
@[simp] theorem State.modCap_tmus (s : State) (e : Fin 8) (f : Cap → Cap) : (s.modCap e f).tmus = s.tmus := rfl
@[simp] theorem State.modCap_taps (s : State) (e : Fin 8) (f : Cap → Cap) : (s.modCap e f).taps = s.taps := rfl
@[simp] theorem State.modCap_alarms (s : State) (e : Fin 8) (f : Cap → Cap) : (s.modCap e f).alarms = s.alarms := rfl
@[simp] theorem State.modCap_mcs (s : State) (e : Fin 8) (f : Cap → Cap) : (s.modCap e f).mcs = s.mcs := rfl
@[simp] theorem State.modCap_sram (s : State) (e : Fin 8) (f : Cap → Cap) : (s.modCap e f).sram = s.sram := rfl
@[simp] theorem State.modCap_brush (s : State) (e : Fin 8) (f : Cap → Cap) : (s.modCap e f).brush = s.brush := rfl
@[simp] theorem State.modCap_tune (s : State) (e : Fin 8) (f : Cap → Cap) : (s.modCap e f).tune = s.tune := rfl
@[simp] theorem State.modCap_flash (s : State) (e : Fin 8) (f : Cap → Cap) : (s.modCap e f).flash = s.flash := rfl
@[simp] theorem State.modCap_gong (s : State) (e : Fin 8) (f : Cap → Cap) : (s.modCap e f).gong = s.gong := rfl
@[simp] theorem State.modCap_ring (s : State) (e : Fin 8) (f : Cap → Cap) : (s.modCap e f).ring = s.ring := rfl
@[simp] theorem State.modCap_sec (s : State) (e : Fin 8) (f : Cap → Cap) : (s.modCap e f).sec = s.sec := rfl
@[simp] theorem State.modCap_power (s : State) (e : Fin 8) (f : Cap → Cap) : (s.modCap e f).power = s.power := rfl
@[simp] theorem State.modCap_caps (s : State) (e : Fin 8) (f : Cap → Cap) : (s.modCap e f).caps = vmod s.caps e f := rfl

/-! ### modTmu -/

@[simp] theorem State.modTmu_pending (s : State) (u : Fin 16) (f : Tmu → Tmu) : (s.modTmu u f).pending = s.pending := rfl
@[simp] theorem State.modTmu_metro (s : State) (u : Fin 16) (f : Tmu → Tmu) : (s.modTmu u f).metro = s.metro := rfl
@[simp] theorem State.modTmu_free (s : State) (u : Fin 16) (f : Tmu → Tmu) : (s.modTmu u f).free = s.free := rfl
@[simp] theorem State.modTmu_link (s : State) (u : Fin 16) (f : Tmu → Tmu) : (s.modTmu u f).link = s.link := rfl
@[simp] theorem State.modTmu_ctxs (s : State) (u : Fin 16) (f : Tmu → Tmu) : (s.modTmu u f).ctxs = s.ctxs := rfl
@[simp] theorem State.modTmu_cfg (s : State) (u : Fin 16) (f : Tmu → Tmu) : (s.modTmu u f).cfg = s.cfg := rfl
@[simp] theorem State.modTmu_commits (s : State) (u : Fin 16) (f : Tmu → Tmu) : (s.modTmu u f).commits = s.commits := rfl
@[simp] theorem State.modTmu_seqs (s : State) (u : Fin 16) (f : Tmu → Tmu) : (s.modTmu u f).seqs = s.seqs := rfl
@[simp] theorem State.modTmu_pins (s : State) (u : Fin 16) (f : Tmu → Tmu) : (s.modTmu u f).pins = s.pins := rfl
@[simp] theorem State.modTmu_grps (s : State) (u : Fin 16) (f : Tmu → Tmu) : (s.modTmu u f).grps = s.grps := rfl
@[simp] theorem State.modTmu_store (s : State) (u : Fin 16) (f : Tmu → Tmu) : (s.modTmu u f).store = s.store := rfl
@[simp] theorem State.modTmu_flogs (s : State) (u : Fin 16) (f : Tmu → Tmu) : (s.modTmu u f).flogs = s.flogs := rfl
@[simp] theorem State.modTmu_flogNext (s : State) (u : Fin 16) (f : Tmu → Tmu) : (s.modTmu u f).flogNext = s.flogNext := rfl
@[simp] theorem State.modTmu_fmaps (s : State) (u : Fin 16) (f : Tmu → Tmu) : (s.modTmu u f).fmaps = s.fmaps := rfl
@[simp] theorem State.modTmu_caps (s : State) (u : Fin 16) (f : Tmu → Tmu) : (s.modTmu u f).caps = s.caps := rfl
@[simp] theorem State.modTmu_capNext (s : State) (u : Fin 16) (f : Tmu → Tmu) : (s.modTmu u f).capNext = s.capNext := rfl
@[simp] theorem State.modTmu_outFlog (s : State) (u : Fin 16) (f : Tmu → Tmu) : (s.modTmu u f).outFlog = s.outFlog := rfl
@[simp] theorem State.modTmu_taps (s : State) (u : Fin 16) (f : Tmu → Tmu) : (s.modTmu u f).taps = s.taps := rfl
@[simp] theorem State.modTmu_alarms (s : State) (u : Fin 16) (f : Tmu → Tmu) : (s.modTmu u f).alarms = s.alarms := rfl
@[simp] theorem State.modTmu_mcs (s : State) (u : Fin 16) (f : Tmu → Tmu) : (s.modTmu u f).mcs = s.mcs := rfl
@[simp] theorem State.modTmu_sram (s : State) (u : Fin 16) (f : Tmu → Tmu) : (s.modTmu u f).sram = s.sram := rfl
@[simp] theorem State.modTmu_brush (s : State) (u : Fin 16) (f : Tmu → Tmu) : (s.modTmu u f).brush = s.brush := rfl
@[simp] theorem State.modTmu_tune (s : State) (u : Fin 16) (f : Tmu → Tmu) : (s.modTmu u f).tune = s.tune := rfl
@[simp] theorem State.modTmu_flash (s : State) (u : Fin 16) (f : Tmu → Tmu) : (s.modTmu u f).flash = s.flash := rfl
@[simp] theorem State.modTmu_gong (s : State) (u : Fin 16) (f : Tmu → Tmu) : (s.modTmu u f).gong = s.gong := rfl
@[simp] theorem State.modTmu_ring (s : State) (u : Fin 16) (f : Tmu → Tmu) : (s.modTmu u f).ring = s.ring := rfl
@[simp] theorem State.modTmu_sec (s : State) (u : Fin 16) (f : Tmu → Tmu) : (s.modTmu u f).sec = s.sec := rfl
@[simp] theorem State.modTmu_power (s : State) (u : Fin 16) (f : Tmu → Tmu) : (s.modTmu u f).power = s.power := rfl
@[simp] theorem State.modTmu_tmus (s : State) (u : Fin 16) (f : Tmu → Tmu) : (s.modTmu u f).tmus = vmod s.tmus u f := rfl

/-! ### modFlog -/

@[simp] theorem State.modFlog_pending (s : State) (q : Fin 4) (f : Flog → Flog) : (s.modFlog q f).pending = s.pending := rfl
@[simp] theorem State.modFlog_metro (s : State) (q : Fin 4) (f : Flog → Flog) : (s.modFlog q f).metro = s.metro := rfl
@[simp] theorem State.modFlog_free (s : State) (q : Fin 4) (f : Flog → Flog) : (s.modFlog q f).free = s.free := rfl
@[simp] theorem State.modFlog_link (s : State) (q : Fin 4) (f : Flog → Flog) : (s.modFlog q f).link = s.link := rfl
@[simp] theorem State.modFlog_ctxs (s : State) (q : Fin 4) (f : Flog → Flog) : (s.modFlog q f).ctxs = s.ctxs := rfl
@[simp] theorem State.modFlog_cfg (s : State) (q : Fin 4) (f : Flog → Flog) : (s.modFlog q f).cfg = s.cfg := rfl
@[simp] theorem State.modFlog_commits (s : State) (q : Fin 4) (f : Flog → Flog) : (s.modFlog q f).commits = s.commits := rfl
@[simp] theorem State.modFlog_seqs (s : State) (q : Fin 4) (f : Flog → Flog) : (s.modFlog q f).seqs = s.seqs := rfl
@[simp] theorem State.modFlog_pins (s : State) (q : Fin 4) (f : Flog → Flog) : (s.modFlog q f).pins = s.pins := rfl
@[simp] theorem State.modFlog_grps (s : State) (q : Fin 4) (f : Flog → Flog) : (s.modFlog q f).grps = s.grps := rfl
@[simp] theorem State.modFlog_store (s : State) (q : Fin 4) (f : Flog → Flog) : (s.modFlog q f).store = s.store := rfl
@[simp] theorem State.modFlog_flogNext (s : State) (q : Fin 4) (f : Flog → Flog) : (s.modFlog q f).flogNext = s.flogNext := rfl
@[simp] theorem State.modFlog_fmaps (s : State) (q : Fin 4) (f : Flog → Flog) : (s.modFlog q f).fmaps = s.fmaps := rfl
@[simp] theorem State.modFlog_caps (s : State) (q : Fin 4) (f : Flog → Flog) : (s.modFlog q f).caps = s.caps := rfl
@[simp] theorem State.modFlog_capNext (s : State) (q : Fin 4) (f : Flog → Flog) : (s.modFlog q f).capNext = s.capNext := rfl
@[simp] theorem State.modFlog_outFlog (s : State) (q : Fin 4) (f : Flog → Flog) : (s.modFlog q f).outFlog = s.outFlog := rfl
@[simp] theorem State.modFlog_tmus (s : State) (q : Fin 4) (f : Flog → Flog) : (s.modFlog q f).tmus = s.tmus := rfl
@[simp] theorem State.modFlog_taps (s : State) (q : Fin 4) (f : Flog → Flog) : (s.modFlog q f).taps = s.taps := rfl
@[simp] theorem State.modFlog_alarms (s : State) (q : Fin 4) (f : Flog → Flog) : (s.modFlog q f).alarms = s.alarms := rfl
@[simp] theorem State.modFlog_mcs (s : State) (q : Fin 4) (f : Flog → Flog) : (s.modFlog q f).mcs = s.mcs := rfl
@[simp] theorem State.modFlog_sram (s : State) (q : Fin 4) (f : Flog → Flog) : (s.modFlog q f).sram = s.sram := rfl
@[simp] theorem State.modFlog_brush (s : State) (q : Fin 4) (f : Flog → Flog) : (s.modFlog q f).brush = s.brush := rfl
@[simp] theorem State.modFlog_tune (s : State) (q : Fin 4) (f : Flog → Flog) : (s.modFlog q f).tune = s.tune := rfl
@[simp] theorem State.modFlog_flash (s : State) (q : Fin 4) (f : Flog → Flog) : (s.modFlog q f).flash = s.flash := rfl
@[simp] theorem State.modFlog_gong (s : State) (q : Fin 4) (f : Flog → Flog) : (s.modFlog q f).gong = s.gong := rfl
@[simp] theorem State.modFlog_ring (s : State) (q : Fin 4) (f : Flog → Flog) : (s.modFlog q f).ring = s.ring := rfl
@[simp] theorem State.modFlog_sec (s : State) (q : Fin 4) (f : Flog → Flog) : (s.modFlog q f).sec = s.sec := rfl
@[simp] theorem State.modFlog_power (s : State) (q : Fin 4) (f : Flog → Flog) : (s.modFlog q f).power = s.power := rfl
@[simp] theorem State.modFlog_flogs (s : State) (q : Fin 4) (f : Flog → Flog) : (s.modFlog q f).flogs = vmod s.flogs q f := rfl

/-! ### modFmap -/

@[simp] theorem State.modFmap_pending (s : State) (q : Fin 4) (f : Fmap → Fmap) : (s.modFmap q f).pending = s.pending := rfl
@[simp] theorem State.modFmap_metro (s : State) (q : Fin 4) (f : Fmap → Fmap) : (s.modFmap q f).metro = s.metro := rfl
@[simp] theorem State.modFmap_free (s : State) (q : Fin 4) (f : Fmap → Fmap) : (s.modFmap q f).free = s.free := rfl
@[simp] theorem State.modFmap_link (s : State) (q : Fin 4) (f : Fmap → Fmap) : (s.modFmap q f).link = s.link := rfl
@[simp] theorem State.modFmap_ctxs (s : State) (q : Fin 4) (f : Fmap → Fmap) : (s.modFmap q f).ctxs = s.ctxs := rfl
@[simp] theorem State.modFmap_cfg (s : State) (q : Fin 4) (f : Fmap → Fmap) : (s.modFmap q f).cfg = s.cfg := rfl
@[simp] theorem State.modFmap_commits (s : State) (q : Fin 4) (f : Fmap → Fmap) : (s.modFmap q f).commits = s.commits := rfl
@[simp] theorem State.modFmap_seqs (s : State) (q : Fin 4) (f : Fmap → Fmap) : (s.modFmap q f).seqs = s.seqs := rfl
@[simp] theorem State.modFmap_pins (s : State) (q : Fin 4) (f : Fmap → Fmap) : (s.modFmap q f).pins = s.pins := rfl
@[simp] theorem State.modFmap_grps (s : State) (q : Fin 4) (f : Fmap → Fmap) : (s.modFmap q f).grps = s.grps := rfl
@[simp] theorem State.modFmap_store (s : State) (q : Fin 4) (f : Fmap → Fmap) : (s.modFmap q f).store = s.store := rfl
@[simp] theorem State.modFmap_flogs (s : State) (q : Fin 4) (f : Fmap → Fmap) : (s.modFmap q f).flogs = s.flogs := rfl
@[simp] theorem State.modFmap_flogNext (s : State) (q : Fin 4) (f : Fmap → Fmap) : (s.modFmap q f).flogNext = s.flogNext := rfl
@[simp] theorem State.modFmap_caps (s : State) (q : Fin 4) (f : Fmap → Fmap) : (s.modFmap q f).caps = s.caps := rfl
@[simp] theorem State.modFmap_capNext (s : State) (q : Fin 4) (f : Fmap → Fmap) : (s.modFmap q f).capNext = s.capNext := rfl
@[simp] theorem State.modFmap_outFlog (s : State) (q : Fin 4) (f : Fmap → Fmap) : (s.modFmap q f).outFlog = s.outFlog := rfl
@[simp] theorem State.modFmap_tmus (s : State) (q : Fin 4) (f : Fmap → Fmap) : (s.modFmap q f).tmus = s.tmus := rfl
@[simp] theorem State.modFmap_taps (s : State) (q : Fin 4) (f : Fmap → Fmap) : (s.modFmap q f).taps = s.taps := rfl
@[simp] theorem State.modFmap_alarms (s : State) (q : Fin 4) (f : Fmap → Fmap) : (s.modFmap q f).alarms = s.alarms := rfl
@[simp] theorem State.modFmap_mcs (s : State) (q : Fin 4) (f : Fmap → Fmap) : (s.modFmap q f).mcs = s.mcs := rfl
@[simp] theorem State.modFmap_sram (s : State) (q : Fin 4) (f : Fmap → Fmap) : (s.modFmap q f).sram = s.sram := rfl
@[simp] theorem State.modFmap_brush (s : State) (q : Fin 4) (f : Fmap → Fmap) : (s.modFmap q f).brush = s.brush := rfl
@[simp] theorem State.modFmap_tune (s : State) (q : Fin 4) (f : Fmap → Fmap) : (s.modFmap q f).tune = s.tune := rfl
@[simp] theorem State.modFmap_flash (s : State) (q : Fin 4) (f : Fmap → Fmap) : (s.modFmap q f).flash = s.flash := rfl
@[simp] theorem State.modFmap_gong (s : State) (q : Fin 4) (f : Fmap → Fmap) : (s.modFmap q f).gong = s.gong := rfl
@[simp] theorem State.modFmap_ring (s : State) (q : Fin 4) (f : Fmap → Fmap) : (s.modFmap q f).ring = s.ring := rfl
@[simp] theorem State.modFmap_sec (s : State) (q : Fin 4) (f : Fmap → Fmap) : (s.modFmap q f).sec = s.sec := rfl
@[simp] theorem State.modFmap_power (s : State) (q : Fin 4) (f : Fmap → Fmap) : (s.modFmap q f).power = s.power := rfl
@[simp] theorem State.modFmap_fmaps (s : State) (q : Fin 4) (f : Fmap → Fmap) : (s.modFmap q f).fmaps = vmod s.fmaps q f := rfl

/-! ### modAlarm -/

@[simp] theorem State.modAlarm_pending (s : State) (n : Fin 8) (f : Alarm → Alarm) : (s.modAlarm n f).pending = s.pending := rfl
@[simp] theorem State.modAlarm_metro (s : State) (n : Fin 8) (f : Alarm → Alarm) : (s.modAlarm n f).metro = s.metro := rfl
@[simp] theorem State.modAlarm_free (s : State) (n : Fin 8) (f : Alarm → Alarm) : (s.modAlarm n f).free = s.free := rfl
@[simp] theorem State.modAlarm_link (s : State) (n : Fin 8) (f : Alarm → Alarm) : (s.modAlarm n f).link = s.link := rfl
@[simp] theorem State.modAlarm_ctxs (s : State) (n : Fin 8) (f : Alarm → Alarm) : (s.modAlarm n f).ctxs = s.ctxs := rfl
@[simp] theorem State.modAlarm_cfg (s : State) (n : Fin 8) (f : Alarm → Alarm) : (s.modAlarm n f).cfg = s.cfg := rfl
@[simp] theorem State.modAlarm_commits (s : State) (n : Fin 8) (f : Alarm → Alarm) : (s.modAlarm n f).commits = s.commits := rfl
@[simp] theorem State.modAlarm_seqs (s : State) (n : Fin 8) (f : Alarm → Alarm) : (s.modAlarm n f).seqs = s.seqs := rfl
@[simp] theorem State.modAlarm_pins (s : State) (n : Fin 8) (f : Alarm → Alarm) : (s.modAlarm n f).pins = s.pins := rfl
@[simp] theorem State.modAlarm_grps (s : State) (n : Fin 8) (f : Alarm → Alarm) : (s.modAlarm n f).grps = s.grps := rfl
@[simp] theorem State.modAlarm_store (s : State) (n : Fin 8) (f : Alarm → Alarm) : (s.modAlarm n f).store = s.store := rfl
@[simp] theorem State.modAlarm_flogs (s : State) (n : Fin 8) (f : Alarm → Alarm) : (s.modAlarm n f).flogs = s.flogs := rfl
@[simp] theorem State.modAlarm_flogNext (s : State) (n : Fin 8) (f : Alarm → Alarm) : (s.modAlarm n f).flogNext = s.flogNext := rfl
@[simp] theorem State.modAlarm_fmaps (s : State) (n : Fin 8) (f : Alarm → Alarm) : (s.modAlarm n f).fmaps = s.fmaps := rfl
@[simp] theorem State.modAlarm_caps (s : State) (n : Fin 8) (f : Alarm → Alarm) : (s.modAlarm n f).caps = s.caps := rfl
@[simp] theorem State.modAlarm_capNext (s : State) (n : Fin 8) (f : Alarm → Alarm) : (s.modAlarm n f).capNext = s.capNext := rfl
@[simp] theorem State.modAlarm_outFlog (s : State) (n : Fin 8) (f : Alarm → Alarm) : (s.modAlarm n f).outFlog = s.outFlog := rfl
@[simp] theorem State.modAlarm_tmus (s : State) (n : Fin 8) (f : Alarm → Alarm) : (s.modAlarm n f).tmus = s.tmus := rfl
@[simp] theorem State.modAlarm_taps (s : State) (n : Fin 8) (f : Alarm → Alarm) : (s.modAlarm n f).taps = s.taps := rfl
@[simp] theorem State.modAlarm_mcs (s : State) (n : Fin 8) (f : Alarm → Alarm) : (s.modAlarm n f).mcs = s.mcs := rfl
@[simp] theorem State.modAlarm_sram (s : State) (n : Fin 8) (f : Alarm → Alarm) : (s.modAlarm n f).sram = s.sram := rfl
@[simp] theorem State.modAlarm_brush (s : State) (n : Fin 8) (f : Alarm → Alarm) : (s.modAlarm n f).brush = s.brush := rfl
@[simp] theorem State.modAlarm_tune (s : State) (n : Fin 8) (f : Alarm → Alarm) : (s.modAlarm n f).tune = s.tune := rfl
@[simp] theorem State.modAlarm_flash (s : State) (n : Fin 8) (f : Alarm → Alarm) : (s.modAlarm n f).flash = s.flash := rfl
@[simp] theorem State.modAlarm_gong (s : State) (n : Fin 8) (f : Alarm → Alarm) : (s.modAlarm n f).gong = s.gong := rfl
@[simp] theorem State.modAlarm_ring (s : State) (n : Fin 8) (f : Alarm → Alarm) : (s.modAlarm n f).ring = s.ring := rfl
@[simp] theorem State.modAlarm_sec (s : State) (n : Fin 8) (f : Alarm → Alarm) : (s.modAlarm n f).sec = s.sec := rfl
@[simp] theorem State.modAlarm_power (s : State) (n : Fin 8) (f : Alarm → Alarm) : (s.modAlarm n f).power = s.power := rfl
@[simp] theorem State.modAlarm_alarms (s : State) (n : Fin 8) (f : Alarm → Alarm) : (s.modAlarm n f).alarms = vmod s.alarms n f := rfl

/-! ### modMc -/

@[simp] theorem State.modMc_pending (s : State) (n : Fin 8) (f : TimeCap → TimeCap) : (s.modMc n f).pending = s.pending := rfl
@[simp] theorem State.modMc_metro (s : State) (n : Fin 8) (f : TimeCap → TimeCap) : (s.modMc n f).metro = s.metro := rfl
@[simp] theorem State.modMc_free (s : State) (n : Fin 8) (f : TimeCap → TimeCap) : (s.modMc n f).free = s.free := rfl
@[simp] theorem State.modMc_link (s : State) (n : Fin 8) (f : TimeCap → TimeCap) : (s.modMc n f).link = s.link := rfl
@[simp] theorem State.modMc_ctxs (s : State) (n : Fin 8) (f : TimeCap → TimeCap) : (s.modMc n f).ctxs = s.ctxs := rfl
@[simp] theorem State.modMc_cfg (s : State) (n : Fin 8) (f : TimeCap → TimeCap) : (s.modMc n f).cfg = s.cfg := rfl
@[simp] theorem State.modMc_commits (s : State) (n : Fin 8) (f : TimeCap → TimeCap) : (s.modMc n f).commits = s.commits := rfl
@[simp] theorem State.modMc_seqs (s : State) (n : Fin 8) (f : TimeCap → TimeCap) : (s.modMc n f).seqs = s.seqs := rfl
@[simp] theorem State.modMc_pins (s : State) (n : Fin 8) (f : TimeCap → TimeCap) : (s.modMc n f).pins = s.pins := rfl
@[simp] theorem State.modMc_grps (s : State) (n : Fin 8) (f : TimeCap → TimeCap) : (s.modMc n f).grps = s.grps := rfl
@[simp] theorem State.modMc_store (s : State) (n : Fin 8) (f : TimeCap → TimeCap) : (s.modMc n f).store = s.store := rfl
@[simp] theorem State.modMc_flogs (s : State) (n : Fin 8) (f : TimeCap → TimeCap) : (s.modMc n f).flogs = s.flogs := rfl
@[simp] theorem State.modMc_flogNext (s : State) (n : Fin 8) (f : TimeCap → TimeCap) : (s.modMc n f).flogNext = s.flogNext := rfl
@[simp] theorem State.modMc_fmaps (s : State) (n : Fin 8) (f : TimeCap → TimeCap) : (s.modMc n f).fmaps = s.fmaps := rfl
@[simp] theorem State.modMc_caps (s : State) (n : Fin 8) (f : TimeCap → TimeCap) : (s.modMc n f).caps = s.caps := rfl
@[simp] theorem State.modMc_capNext (s : State) (n : Fin 8) (f : TimeCap → TimeCap) : (s.modMc n f).capNext = s.capNext := rfl
@[simp] theorem State.modMc_outFlog (s : State) (n : Fin 8) (f : TimeCap → TimeCap) : (s.modMc n f).outFlog = s.outFlog := rfl
@[simp] theorem State.modMc_tmus (s : State) (n : Fin 8) (f : TimeCap → TimeCap) : (s.modMc n f).tmus = s.tmus := rfl
@[simp] theorem State.modMc_taps (s : State) (n : Fin 8) (f : TimeCap → TimeCap) : (s.modMc n f).taps = s.taps := rfl
@[simp] theorem State.modMc_alarms (s : State) (n : Fin 8) (f : TimeCap → TimeCap) : (s.modMc n f).alarms = s.alarms := rfl
@[simp] theorem State.modMc_sram (s : State) (n : Fin 8) (f : TimeCap → TimeCap) : (s.modMc n f).sram = s.sram := rfl
@[simp] theorem State.modMc_brush (s : State) (n : Fin 8) (f : TimeCap → TimeCap) : (s.modMc n f).brush = s.brush := rfl
@[simp] theorem State.modMc_tune (s : State) (n : Fin 8) (f : TimeCap → TimeCap) : (s.modMc n f).tune = s.tune := rfl
@[simp] theorem State.modMc_flash (s : State) (n : Fin 8) (f : TimeCap → TimeCap) : (s.modMc n f).flash = s.flash := rfl
@[simp] theorem State.modMc_gong (s : State) (n : Fin 8) (f : TimeCap → TimeCap) : (s.modMc n f).gong = s.gong := rfl
@[simp] theorem State.modMc_ring (s : State) (n : Fin 8) (f : TimeCap → TimeCap) : (s.modMc n f).ring = s.ring := rfl
@[simp] theorem State.modMc_sec (s : State) (n : Fin 8) (f : TimeCap → TimeCap) : (s.modMc n f).sec = s.sec := rfl
@[simp] theorem State.modMc_power (s : State) (n : Fin 8) (f : TimeCap → TimeCap) : (s.modMc n f).power = s.power := rfl
@[simp] theorem State.modMc_mcs (s : State) (n : Fin 8) (f : TimeCap → TimeCap) : (s.modMc n f).mcs = vmod s.mcs n f := rfl

/-! ### modChan -/

@[simp] theorem State.modChan_pending (s : State) (n : Fin 64) (f : TapChan → TapChan) : (s.modChan n f).pending = s.pending := rfl
@[simp] theorem State.modChan_metro (s : State) (n : Fin 64) (f : TapChan → TapChan) : (s.modChan n f).metro = s.metro := rfl
@[simp] theorem State.modChan_free (s : State) (n : Fin 64) (f : TapChan → TapChan) : (s.modChan n f).free = s.free := rfl
@[simp] theorem State.modChan_link (s : State) (n : Fin 64) (f : TapChan → TapChan) : (s.modChan n f).link = s.link := rfl
@[simp] theorem State.modChan_ctxs (s : State) (n : Fin 64) (f : TapChan → TapChan) : (s.modChan n f).ctxs = s.ctxs := rfl
@[simp] theorem State.modChan_cfg (s : State) (n : Fin 64) (f : TapChan → TapChan) : (s.modChan n f).cfg = s.cfg := rfl
@[simp] theorem State.modChan_commits (s : State) (n : Fin 64) (f : TapChan → TapChan) : (s.modChan n f).commits = s.commits := rfl
@[simp] theorem State.modChan_seqs (s : State) (n : Fin 64) (f : TapChan → TapChan) : (s.modChan n f).seqs = s.seqs := rfl
@[simp] theorem State.modChan_pins (s : State) (n : Fin 64) (f : TapChan → TapChan) : (s.modChan n f).pins = s.pins := rfl
@[simp] theorem State.modChan_grps (s : State) (n : Fin 64) (f : TapChan → TapChan) : (s.modChan n f).grps = s.grps := rfl
@[simp] theorem State.modChan_store (s : State) (n : Fin 64) (f : TapChan → TapChan) : (s.modChan n f).store = s.store := rfl
@[simp] theorem State.modChan_flogs (s : State) (n : Fin 64) (f : TapChan → TapChan) : (s.modChan n f).flogs = s.flogs := rfl
@[simp] theorem State.modChan_flogNext (s : State) (n : Fin 64) (f : TapChan → TapChan) : (s.modChan n f).flogNext = s.flogNext := rfl
@[simp] theorem State.modChan_fmaps (s : State) (n : Fin 64) (f : TapChan → TapChan) : (s.modChan n f).fmaps = s.fmaps := rfl
@[simp] theorem State.modChan_caps (s : State) (n : Fin 64) (f : TapChan → TapChan) : (s.modChan n f).caps = s.caps := rfl
@[simp] theorem State.modChan_capNext (s : State) (n : Fin 64) (f : TapChan → TapChan) : (s.modChan n f).capNext = s.capNext := rfl
@[simp] theorem State.modChan_outFlog (s : State) (n : Fin 64) (f : TapChan → TapChan) : (s.modChan n f).outFlog = s.outFlog := rfl
@[simp] theorem State.modChan_tmus (s : State) (n : Fin 64) (f : TapChan → TapChan) : (s.modChan n f).tmus = s.tmus := rfl
@[simp] theorem State.modChan_alarms (s : State) (n : Fin 64) (f : TapChan → TapChan) : (s.modChan n f).alarms = s.alarms := rfl
@[simp] theorem State.modChan_mcs (s : State) (n : Fin 64) (f : TapChan → TapChan) : (s.modChan n f).mcs = s.mcs := rfl
@[simp] theorem State.modChan_sram (s : State) (n : Fin 64) (f : TapChan → TapChan) : (s.modChan n f).sram = s.sram := rfl
@[simp] theorem State.modChan_brush (s : State) (n : Fin 64) (f : TapChan → TapChan) : (s.modChan n f).brush = s.brush := rfl
@[simp] theorem State.modChan_tune (s : State) (n : Fin 64) (f : TapChan → TapChan) : (s.modChan n f).tune = s.tune := rfl
@[simp] theorem State.modChan_flash (s : State) (n : Fin 64) (f : TapChan → TapChan) : (s.modChan n f).flash = s.flash := rfl
@[simp] theorem State.modChan_gong (s : State) (n : Fin 64) (f : TapChan → TapChan) : (s.modChan n f).gong = s.gong := rfl
@[simp] theorem State.modChan_ring (s : State) (n : Fin 64) (f : TapChan → TapChan) : (s.modChan n f).ring = s.ring := rfl
@[simp] theorem State.modChan_sec (s : State) (n : Fin 64) (f : TapChan → TapChan) : (s.modChan n f).sec = s.sec := rfl
@[simp] theorem State.modChan_power (s : State) (n : Fin 64) (f : TapChan → TapChan) : (s.modChan n f).power = s.power := rfl
@[simp] theorem State.modChan_taps (s : State) (n : Fin 64) (f : TapChan → TapChan) : (s.modChan n f).taps = { s.taps with chans := vmod s.taps.chans n f } := rfl

/-! ### modIn -/

@[simp] theorem State.modIn_pending (s : State) (i : Fin 161) (f : TapIn → TapIn) : (s.modIn i f).pending = s.pending := rfl
@[simp] theorem State.modIn_metro (s : State) (i : Fin 161) (f : TapIn → TapIn) : (s.modIn i f).metro = s.metro := rfl
@[simp] theorem State.modIn_free (s : State) (i : Fin 161) (f : TapIn → TapIn) : (s.modIn i f).free = s.free := rfl
@[simp] theorem State.modIn_link (s : State) (i : Fin 161) (f : TapIn → TapIn) : (s.modIn i f).link = s.link := rfl
@[simp] theorem State.modIn_ctxs (s : State) (i : Fin 161) (f : TapIn → TapIn) : (s.modIn i f).ctxs = s.ctxs := rfl
@[simp] theorem State.modIn_cfg (s : State) (i : Fin 161) (f : TapIn → TapIn) : (s.modIn i f).cfg = s.cfg := rfl
@[simp] theorem State.modIn_commits (s : State) (i : Fin 161) (f : TapIn → TapIn) : (s.modIn i f).commits = s.commits := rfl
@[simp] theorem State.modIn_seqs (s : State) (i : Fin 161) (f : TapIn → TapIn) : (s.modIn i f).seqs = s.seqs := rfl
@[simp] theorem State.modIn_pins (s : State) (i : Fin 161) (f : TapIn → TapIn) : (s.modIn i f).pins = s.pins := rfl
@[simp] theorem State.modIn_grps (s : State) (i : Fin 161) (f : TapIn → TapIn) : (s.modIn i f).grps = s.grps := rfl
@[simp] theorem State.modIn_store (s : State) (i : Fin 161) (f : TapIn → TapIn) : (s.modIn i f).store = s.store := rfl
@[simp] theorem State.modIn_flogs (s : State) (i : Fin 161) (f : TapIn → TapIn) : (s.modIn i f).flogs = s.flogs := rfl
@[simp] theorem State.modIn_flogNext (s : State) (i : Fin 161) (f : TapIn → TapIn) : (s.modIn i f).flogNext = s.flogNext := rfl
@[simp] theorem State.modIn_fmaps (s : State) (i : Fin 161) (f : TapIn → TapIn) : (s.modIn i f).fmaps = s.fmaps := rfl
@[simp] theorem State.modIn_caps (s : State) (i : Fin 161) (f : TapIn → TapIn) : (s.modIn i f).caps = s.caps := rfl
@[simp] theorem State.modIn_capNext (s : State) (i : Fin 161) (f : TapIn → TapIn) : (s.modIn i f).capNext = s.capNext := rfl
@[simp] theorem State.modIn_outFlog (s : State) (i : Fin 161) (f : TapIn → TapIn) : (s.modIn i f).outFlog = s.outFlog := rfl
@[simp] theorem State.modIn_tmus (s : State) (i : Fin 161) (f : TapIn → TapIn) : (s.modIn i f).tmus = s.tmus := rfl
@[simp] theorem State.modIn_alarms (s : State) (i : Fin 161) (f : TapIn → TapIn) : (s.modIn i f).alarms = s.alarms := rfl
@[simp] theorem State.modIn_mcs (s : State) (i : Fin 161) (f : TapIn → TapIn) : (s.modIn i f).mcs = s.mcs := rfl
@[simp] theorem State.modIn_sram (s : State) (i : Fin 161) (f : TapIn → TapIn) : (s.modIn i f).sram = s.sram := rfl
@[simp] theorem State.modIn_brush (s : State) (i : Fin 161) (f : TapIn → TapIn) : (s.modIn i f).brush = s.brush := rfl
@[simp] theorem State.modIn_tune (s : State) (i : Fin 161) (f : TapIn → TapIn) : (s.modIn i f).tune = s.tune := rfl
@[simp] theorem State.modIn_flash (s : State) (i : Fin 161) (f : TapIn → TapIn) : (s.modIn i f).flash = s.flash := rfl
@[simp] theorem State.modIn_gong (s : State) (i : Fin 161) (f : TapIn → TapIn) : (s.modIn i f).gong = s.gong := rfl
@[simp] theorem State.modIn_ring (s : State) (i : Fin 161) (f : TapIn → TapIn) : (s.modIn i f).ring = s.ring := rfl
@[simp] theorem State.modIn_sec (s : State) (i : Fin 161) (f : TapIn → TapIn) : (s.modIn i f).sec = s.sec := rfl
@[simp] theorem State.modIn_power (s : State) (i : Fin 161) (f : TapIn → TapIn) : (s.modIn i f).power = s.power := rfl
@[simp] theorem State.modIn_taps (s : State) (i : Fin 161) (f : TapIn → TapIn) : (s.modIn i f).taps = { s.taps with ins := vmod s.taps.ins i f } := rfl

/-! ### modIo -/

@[simp] theorem State.modIo_pending (s : State) (n : Fin 8) (f : EvPin → EvPin) : (s.modIo n f).pending = s.pending := rfl
@[simp] theorem State.modIo_metro (s : State) (n : Fin 8) (f : EvPin → EvPin) : (s.modIo n f).metro = s.metro := rfl
@[simp] theorem State.modIo_free (s : State) (n : Fin 8) (f : EvPin → EvPin) : (s.modIo n f).free = s.free := rfl
@[simp] theorem State.modIo_link (s : State) (n : Fin 8) (f : EvPin → EvPin) : (s.modIo n f).link = s.link := rfl
@[simp] theorem State.modIo_ctxs (s : State) (n : Fin 8) (f : EvPin → EvPin) : (s.modIo n f).ctxs = s.ctxs := rfl
@[simp] theorem State.modIo_cfg (s : State) (n : Fin 8) (f : EvPin → EvPin) : (s.modIo n f).cfg = s.cfg := rfl
@[simp] theorem State.modIo_commits (s : State) (n : Fin 8) (f : EvPin → EvPin) : (s.modIo n f).commits = s.commits := rfl
@[simp] theorem State.modIo_seqs (s : State) (n : Fin 8) (f : EvPin → EvPin) : (s.modIo n f).seqs = s.seqs := rfl
@[simp] theorem State.modIo_pins (s : State) (n : Fin 8) (f : EvPin → EvPin) : (s.modIo n f).pins = s.pins := rfl
@[simp] theorem State.modIo_grps (s : State) (n : Fin 8) (f : EvPin → EvPin) : (s.modIo n f).grps = s.grps := rfl
@[simp] theorem State.modIo_store (s : State) (n : Fin 8) (f : EvPin → EvPin) : (s.modIo n f).store = s.store := rfl
@[simp] theorem State.modIo_flogs (s : State) (n : Fin 8) (f : EvPin → EvPin) : (s.modIo n f).flogs = s.flogs := rfl
@[simp] theorem State.modIo_flogNext (s : State) (n : Fin 8) (f : EvPin → EvPin) : (s.modIo n f).flogNext = s.flogNext := rfl
@[simp] theorem State.modIo_fmaps (s : State) (n : Fin 8) (f : EvPin → EvPin) : (s.modIo n f).fmaps = s.fmaps := rfl
@[simp] theorem State.modIo_caps (s : State) (n : Fin 8) (f : EvPin → EvPin) : (s.modIo n f).caps = s.caps := rfl
@[simp] theorem State.modIo_capNext (s : State) (n : Fin 8) (f : EvPin → EvPin) : (s.modIo n f).capNext = s.capNext := rfl
@[simp] theorem State.modIo_outFlog (s : State) (n : Fin 8) (f : EvPin → EvPin) : (s.modIo n f).outFlog = s.outFlog := rfl
@[simp] theorem State.modIo_tmus (s : State) (n : Fin 8) (f : EvPin → EvPin) : (s.modIo n f).tmus = s.tmus := rfl
@[simp] theorem State.modIo_alarms (s : State) (n : Fin 8) (f : EvPin → EvPin) : (s.modIo n f).alarms = s.alarms := rfl
@[simp] theorem State.modIo_mcs (s : State) (n : Fin 8) (f : EvPin → EvPin) : (s.modIo n f).mcs = s.mcs := rfl
@[simp] theorem State.modIo_sram (s : State) (n : Fin 8) (f : EvPin → EvPin) : (s.modIo n f).sram = s.sram := rfl
@[simp] theorem State.modIo_brush (s : State) (n : Fin 8) (f : EvPin → EvPin) : (s.modIo n f).brush = s.brush := rfl
@[simp] theorem State.modIo_tune (s : State) (n : Fin 8) (f : EvPin → EvPin) : (s.modIo n f).tune = s.tune := rfl
@[simp] theorem State.modIo_flash (s : State) (n : Fin 8) (f : EvPin → EvPin) : (s.modIo n f).flash = s.flash := rfl
@[simp] theorem State.modIo_gong (s : State) (n : Fin 8) (f : EvPin → EvPin) : (s.modIo n f).gong = s.gong := rfl
@[simp] theorem State.modIo_ring (s : State) (n : Fin 8) (f : EvPin → EvPin) : (s.modIo n f).ring = s.ring := rfl
@[simp] theorem State.modIo_sec (s : State) (n : Fin 8) (f : EvPin → EvPin) : (s.modIo n f).sec = s.sec := rfl
@[simp] theorem State.modIo_power (s : State) (n : Fin 8) (f : EvPin → EvPin) : (s.modIo n f).power = s.power := rfl
@[simp] theorem State.modIo_taps (s : State) (n : Fin 8) (f : EvPin → EvPin) : (s.modIo n f).taps = { s.taps with ios := vmod s.taps.ios n f } := rfl

/-! ### modBrush -/

@[simp] theorem State.modBrush_pending (s : State) (m : Fin 9) (f : Brush → Brush) : (s.modBrush m f).pending = s.pending := rfl
@[simp] theorem State.modBrush_metro (s : State) (m : Fin 9) (f : Brush → Brush) : (s.modBrush m f).metro = s.metro := rfl
@[simp] theorem State.modBrush_free (s : State) (m : Fin 9) (f : Brush → Brush) : (s.modBrush m f).free = s.free := rfl
@[simp] theorem State.modBrush_link (s : State) (m : Fin 9) (f : Brush → Brush) : (s.modBrush m f).link = s.link := rfl
@[simp] theorem State.modBrush_ctxs (s : State) (m : Fin 9) (f : Brush → Brush) : (s.modBrush m f).ctxs = s.ctxs := rfl
@[simp] theorem State.modBrush_cfg (s : State) (m : Fin 9) (f : Brush → Brush) : (s.modBrush m f).cfg = s.cfg := rfl
@[simp] theorem State.modBrush_commits (s : State) (m : Fin 9) (f : Brush → Brush) : (s.modBrush m f).commits = s.commits := rfl
@[simp] theorem State.modBrush_seqs (s : State) (m : Fin 9) (f : Brush → Brush) : (s.modBrush m f).seqs = s.seqs := rfl
@[simp] theorem State.modBrush_pins (s : State) (m : Fin 9) (f : Brush → Brush) : (s.modBrush m f).pins = s.pins := rfl
@[simp] theorem State.modBrush_grps (s : State) (m : Fin 9) (f : Brush → Brush) : (s.modBrush m f).grps = s.grps := rfl
@[simp] theorem State.modBrush_store (s : State) (m : Fin 9) (f : Brush → Brush) : (s.modBrush m f).store = s.store := rfl
@[simp] theorem State.modBrush_flogs (s : State) (m : Fin 9) (f : Brush → Brush) : (s.modBrush m f).flogs = s.flogs := rfl
@[simp] theorem State.modBrush_flogNext (s : State) (m : Fin 9) (f : Brush → Brush) : (s.modBrush m f).flogNext = s.flogNext := rfl
@[simp] theorem State.modBrush_fmaps (s : State) (m : Fin 9) (f : Brush → Brush) : (s.modBrush m f).fmaps = s.fmaps := rfl
@[simp] theorem State.modBrush_caps (s : State) (m : Fin 9) (f : Brush → Brush) : (s.modBrush m f).caps = s.caps := rfl
@[simp] theorem State.modBrush_capNext (s : State) (m : Fin 9) (f : Brush → Brush) : (s.modBrush m f).capNext = s.capNext := rfl
@[simp] theorem State.modBrush_outFlog (s : State) (m : Fin 9) (f : Brush → Brush) : (s.modBrush m f).outFlog = s.outFlog := rfl
@[simp] theorem State.modBrush_tmus (s : State) (m : Fin 9) (f : Brush → Brush) : (s.modBrush m f).tmus = s.tmus := rfl
@[simp] theorem State.modBrush_taps (s : State) (m : Fin 9) (f : Brush → Brush) : (s.modBrush m f).taps = s.taps := rfl
@[simp] theorem State.modBrush_alarms (s : State) (m : Fin 9) (f : Brush → Brush) : (s.modBrush m f).alarms = s.alarms := rfl
@[simp] theorem State.modBrush_mcs (s : State) (m : Fin 9) (f : Brush → Brush) : (s.modBrush m f).mcs = s.mcs := rfl
@[simp] theorem State.modBrush_sram (s : State) (m : Fin 9) (f : Brush → Brush) : (s.modBrush m f).sram = s.sram := rfl
@[simp] theorem State.modBrush_tune (s : State) (m : Fin 9) (f : Brush → Brush) : (s.modBrush m f).tune = s.tune := rfl
@[simp] theorem State.modBrush_flash (s : State) (m : Fin 9) (f : Brush → Brush) : (s.modBrush m f).flash = s.flash := rfl
@[simp] theorem State.modBrush_gong (s : State) (m : Fin 9) (f : Brush → Brush) : (s.modBrush m f).gong = s.gong := rfl
@[simp] theorem State.modBrush_ring (s : State) (m : Fin 9) (f : Brush → Brush) : (s.modBrush m f).ring = s.ring := rfl
@[simp] theorem State.modBrush_sec (s : State) (m : Fin 9) (f : Brush → Brush) : (s.modBrush m f).sec = s.sec := rfl
@[simp] theorem State.modBrush_power (s : State) (m : Fin 9) (f : Brush → Brush) : (s.modBrush m f).power = s.power := rfl
@[simp] theorem State.modBrush_brush (s : State) (m : Fin 9) (f : Brush → Brush) : (s.modBrush m f).brush = vmod s.brush m f := rfl

/-! ### modRing -/

@[simp] theorem State.modRing_pending (s : State) (c : Fin 8) (k : Fin 4) (f : Ring → Ring) : (s.modRing c k f).pending = s.pending := rfl
@[simp] theorem State.modRing_metro (s : State) (c : Fin 8) (k : Fin 4) (f : Ring → Ring) : (s.modRing c k f).metro = s.metro := rfl
@[simp] theorem State.modRing_free (s : State) (c : Fin 8) (k : Fin 4) (f : Ring → Ring) : (s.modRing c k f).free = s.free := rfl
@[simp] theorem State.modRing_link (s : State) (c : Fin 8) (k : Fin 4) (f : Ring → Ring) : (s.modRing c k f).link = s.link := rfl
@[simp] theorem State.modRing_cfg (s : State) (c : Fin 8) (k : Fin 4) (f : Ring → Ring) : (s.modRing c k f).cfg = s.cfg := rfl
@[simp] theorem State.modRing_commits (s : State) (c : Fin 8) (k : Fin 4) (f : Ring → Ring) : (s.modRing c k f).commits = s.commits := rfl
@[simp] theorem State.modRing_seqs (s : State) (c : Fin 8) (k : Fin 4) (f : Ring → Ring) : (s.modRing c k f).seqs = s.seqs := rfl
@[simp] theorem State.modRing_pins (s : State) (c : Fin 8) (k : Fin 4) (f : Ring → Ring) : (s.modRing c k f).pins = s.pins := rfl
@[simp] theorem State.modRing_grps (s : State) (c : Fin 8) (k : Fin 4) (f : Ring → Ring) : (s.modRing c k f).grps = s.grps := rfl
@[simp] theorem State.modRing_store (s : State) (c : Fin 8) (k : Fin 4) (f : Ring → Ring) : (s.modRing c k f).store = s.store := rfl
@[simp] theorem State.modRing_flogs (s : State) (c : Fin 8) (k : Fin 4) (f : Ring → Ring) : (s.modRing c k f).flogs = s.flogs := rfl
@[simp] theorem State.modRing_flogNext (s : State) (c : Fin 8) (k : Fin 4) (f : Ring → Ring) : (s.modRing c k f).flogNext = s.flogNext := rfl
@[simp] theorem State.modRing_fmaps (s : State) (c : Fin 8) (k : Fin 4) (f : Ring → Ring) : (s.modRing c k f).fmaps = s.fmaps := rfl
@[simp] theorem State.modRing_caps (s : State) (c : Fin 8) (k : Fin 4) (f : Ring → Ring) : (s.modRing c k f).caps = s.caps := rfl
@[simp] theorem State.modRing_capNext (s : State) (c : Fin 8) (k : Fin 4) (f : Ring → Ring) : (s.modRing c k f).capNext = s.capNext := rfl
@[simp] theorem State.modRing_outFlog (s : State) (c : Fin 8) (k : Fin 4) (f : Ring → Ring) : (s.modRing c k f).outFlog = s.outFlog := rfl
@[simp] theorem State.modRing_tmus (s : State) (c : Fin 8) (k : Fin 4) (f : Ring → Ring) : (s.modRing c k f).tmus = s.tmus := rfl
@[simp] theorem State.modRing_taps (s : State) (c : Fin 8) (k : Fin 4) (f : Ring → Ring) : (s.modRing c k f).taps = s.taps := rfl
@[simp] theorem State.modRing_alarms (s : State) (c : Fin 8) (k : Fin 4) (f : Ring → Ring) : (s.modRing c k f).alarms = s.alarms := rfl
@[simp] theorem State.modRing_mcs (s : State) (c : Fin 8) (k : Fin 4) (f : Ring → Ring) : (s.modRing c k f).mcs = s.mcs := rfl
@[simp] theorem State.modRing_sram (s : State) (c : Fin 8) (k : Fin 4) (f : Ring → Ring) : (s.modRing c k f).sram = s.sram := rfl
@[simp] theorem State.modRing_brush (s : State) (c : Fin 8) (k : Fin 4) (f : Ring → Ring) : (s.modRing c k f).brush = s.brush := rfl
@[simp] theorem State.modRing_tune (s : State) (c : Fin 8) (k : Fin 4) (f : Ring → Ring) : (s.modRing c k f).tune = s.tune := rfl
@[simp] theorem State.modRing_flash (s : State) (c : Fin 8) (k : Fin 4) (f : Ring → Ring) : (s.modRing c k f).flash = s.flash := rfl
@[simp] theorem State.modRing_gong (s : State) (c : Fin 8) (k : Fin 4) (f : Ring → Ring) : (s.modRing c k f).gong = s.gong := rfl
@[simp] theorem State.modRing_ring (s : State) (c : Fin 8) (k : Fin 4) (f : Ring → Ring) : (s.modRing c k f).ring = s.ring := rfl
@[simp] theorem State.modRing_sec (s : State) (c : Fin 8) (k : Fin 4) (f : Ring → Ring) : (s.modRing c k f).sec = s.sec := rfl
@[simp] theorem State.modRing_power (s : State) (c : Fin 8) (k : Fin 4) (f : Ring → Ring) : (s.modRing c k f).power = s.power := rfl
@[simp] theorem State.modRing_ctxs (s : State) (c : Fin 8) (k : Fin 4) (f : Ring → Ring) : (s.modRing c k f).ctxs = vmod s.ctxs c (fun x => { x with rings := vmod x.rings k f }) := rfl

/-! ### modStore -/

@[simp] theorem State.modStore_pending (s : State) (f : Store → Store) : (s.modStore f).pending = s.pending := rfl
@[simp] theorem State.modStore_metro (s : State) (f : Store → Store) : (s.modStore f).metro = s.metro := rfl
@[simp] theorem State.modStore_free (s : State) (f : Store → Store) : (s.modStore f).free = s.free := rfl
@[simp] theorem State.modStore_link (s : State) (f : Store → Store) : (s.modStore f).link = s.link := rfl
@[simp] theorem State.modStore_ctxs (s : State) (f : Store → Store) : (s.modStore f).ctxs = s.ctxs := rfl
@[simp] theorem State.modStore_cfg (s : State) (f : Store → Store) : (s.modStore f).cfg = s.cfg := rfl
@[simp] theorem State.modStore_commits (s : State) (f : Store → Store) : (s.modStore f).commits = s.commits := rfl
@[simp] theorem State.modStore_seqs (s : State) (f : Store → Store) : (s.modStore f).seqs = s.seqs := rfl
@[simp] theorem State.modStore_pins (s : State) (f : Store → Store) : (s.modStore f).pins = s.pins := rfl
@[simp] theorem State.modStore_grps (s : State) (f : Store → Store) : (s.modStore f).grps = s.grps := rfl
@[simp] theorem State.modStore_flogs (s : State) (f : Store → Store) : (s.modStore f).flogs = s.flogs := rfl
@[simp] theorem State.modStore_flogNext (s : State) (f : Store → Store) : (s.modStore f).flogNext = s.flogNext := rfl
@[simp] theorem State.modStore_fmaps (s : State) (f : Store → Store) : (s.modStore f).fmaps = s.fmaps := rfl
@[simp] theorem State.modStore_caps (s : State) (f : Store → Store) : (s.modStore f).caps = s.caps := rfl
@[simp] theorem State.modStore_capNext (s : State) (f : Store → Store) : (s.modStore f).capNext = s.capNext := rfl
@[simp] theorem State.modStore_outFlog (s : State) (f : Store → Store) : (s.modStore f).outFlog = s.outFlog := rfl
@[simp] theorem State.modStore_tmus (s : State) (f : Store → Store) : (s.modStore f).tmus = s.tmus := rfl
@[simp] theorem State.modStore_taps (s : State) (f : Store → Store) : (s.modStore f).taps = s.taps := rfl
@[simp] theorem State.modStore_alarms (s : State) (f : Store → Store) : (s.modStore f).alarms = s.alarms := rfl
@[simp] theorem State.modStore_mcs (s : State) (f : Store → Store) : (s.modStore f).mcs = s.mcs := rfl
@[simp] theorem State.modStore_sram (s : State) (f : Store → Store) : (s.modStore f).sram = s.sram := rfl
@[simp] theorem State.modStore_brush (s : State) (f : Store → Store) : (s.modStore f).brush = s.brush := rfl
@[simp] theorem State.modStore_tune (s : State) (f : Store → Store) : (s.modStore f).tune = s.tune := rfl
@[simp] theorem State.modStore_flash (s : State) (f : Store → Store) : (s.modStore f).flash = s.flash := rfl
@[simp] theorem State.modStore_gong (s : State) (f : Store → Store) : (s.modStore f).gong = s.gong := rfl
@[simp] theorem State.modStore_ring (s : State) (f : Store → Store) : (s.modStore f).ring = s.ring := rfl
@[simp] theorem State.modStore_sec (s : State) (f : Store → Store) : (s.modStore f).sec = s.sec := rfl
@[simp] theorem State.modStore_power (s : State) (f : Store → Store) : (s.modStore f).power = s.power := rfl
@[simp] theorem State.modStore_store (s : State) (f : Store → Store) : (s.modStore f).store = f s.store := rfl

/-! ### modGong -/

@[simp] theorem State.modGong_pending (s : State) (f : Gong → Gong) : (s.modGong f).pending = s.pending := rfl
@[simp] theorem State.modGong_metro (s : State) (f : Gong → Gong) : (s.modGong f).metro = s.metro := rfl
@[simp] theorem State.modGong_free (s : State) (f : Gong → Gong) : (s.modGong f).free = s.free := rfl
@[simp] theorem State.modGong_link (s : State) (f : Gong → Gong) : (s.modGong f).link = s.link := rfl
@[simp] theorem State.modGong_ctxs (s : State) (f : Gong → Gong) : (s.modGong f).ctxs = s.ctxs := rfl
@[simp] theorem State.modGong_cfg (s : State) (f : Gong → Gong) : (s.modGong f).cfg = s.cfg := rfl
@[simp] theorem State.modGong_commits (s : State) (f : Gong → Gong) : (s.modGong f).commits = s.commits := rfl
@[simp] theorem State.modGong_seqs (s : State) (f : Gong → Gong) : (s.modGong f).seqs = s.seqs := rfl
@[simp] theorem State.modGong_pins (s : State) (f : Gong → Gong) : (s.modGong f).pins = s.pins := rfl
@[simp] theorem State.modGong_grps (s : State) (f : Gong → Gong) : (s.modGong f).grps = s.grps := rfl
@[simp] theorem State.modGong_store (s : State) (f : Gong → Gong) : (s.modGong f).store = s.store := rfl
@[simp] theorem State.modGong_flogs (s : State) (f : Gong → Gong) : (s.modGong f).flogs = s.flogs := rfl
@[simp] theorem State.modGong_flogNext (s : State) (f : Gong → Gong) : (s.modGong f).flogNext = s.flogNext := rfl
@[simp] theorem State.modGong_fmaps (s : State) (f : Gong → Gong) : (s.modGong f).fmaps = s.fmaps := rfl
@[simp] theorem State.modGong_caps (s : State) (f : Gong → Gong) : (s.modGong f).caps = s.caps := rfl
@[simp] theorem State.modGong_capNext (s : State) (f : Gong → Gong) : (s.modGong f).capNext = s.capNext := rfl
@[simp] theorem State.modGong_outFlog (s : State) (f : Gong → Gong) : (s.modGong f).outFlog = s.outFlog := rfl
@[simp] theorem State.modGong_tmus (s : State) (f : Gong → Gong) : (s.modGong f).tmus = s.tmus := rfl
@[simp] theorem State.modGong_taps (s : State) (f : Gong → Gong) : (s.modGong f).taps = s.taps := rfl
@[simp] theorem State.modGong_alarms (s : State) (f : Gong → Gong) : (s.modGong f).alarms = s.alarms := rfl
@[simp] theorem State.modGong_mcs (s : State) (f : Gong → Gong) : (s.modGong f).mcs = s.mcs := rfl
@[simp] theorem State.modGong_sram (s : State) (f : Gong → Gong) : (s.modGong f).sram = s.sram := rfl
@[simp] theorem State.modGong_brush (s : State) (f : Gong → Gong) : (s.modGong f).brush = s.brush := rfl
@[simp] theorem State.modGong_tune (s : State) (f : Gong → Gong) : (s.modGong f).tune = s.tune := rfl
@[simp] theorem State.modGong_flash (s : State) (f : Gong → Gong) : (s.modGong f).flash = s.flash := rfl
@[simp] theorem State.modGong_ring (s : State) (f : Gong → Gong) : (s.modGong f).ring = s.ring := rfl
@[simp] theorem State.modGong_sec (s : State) (f : Gong → Gong) : (s.modGong f).sec = s.sec := rfl
@[simp] theorem State.modGong_power (s : State) (f : Gong → Gong) : (s.modGong f).power = s.power := rfl
@[simp] theorem State.modGong_gong (s : State) (f : Gong → Gong) : (s.modGong f).gong = f s.gong := rfl

/-! ### modTaps -/

@[simp] theorem State.modTaps_pending (s : State) (f : TapM → TapM) : (s.modTaps f).pending = s.pending := rfl
@[simp] theorem State.modTaps_metro (s : State) (f : TapM → TapM) : (s.modTaps f).metro = s.metro := rfl
@[simp] theorem State.modTaps_free (s : State) (f : TapM → TapM) : (s.modTaps f).free = s.free := rfl
@[simp] theorem State.modTaps_link (s : State) (f : TapM → TapM) : (s.modTaps f).link = s.link := rfl
@[simp] theorem State.modTaps_ctxs (s : State) (f : TapM → TapM) : (s.modTaps f).ctxs = s.ctxs := rfl
@[simp] theorem State.modTaps_cfg (s : State) (f : TapM → TapM) : (s.modTaps f).cfg = s.cfg := rfl
@[simp] theorem State.modTaps_commits (s : State) (f : TapM → TapM) : (s.modTaps f).commits = s.commits := rfl
@[simp] theorem State.modTaps_seqs (s : State) (f : TapM → TapM) : (s.modTaps f).seqs = s.seqs := rfl
@[simp] theorem State.modTaps_pins (s : State) (f : TapM → TapM) : (s.modTaps f).pins = s.pins := rfl
@[simp] theorem State.modTaps_grps (s : State) (f : TapM → TapM) : (s.modTaps f).grps = s.grps := rfl
@[simp] theorem State.modTaps_store (s : State) (f : TapM → TapM) : (s.modTaps f).store = s.store := rfl
@[simp] theorem State.modTaps_flogs (s : State) (f : TapM → TapM) : (s.modTaps f).flogs = s.flogs := rfl
@[simp] theorem State.modTaps_flogNext (s : State) (f : TapM → TapM) : (s.modTaps f).flogNext = s.flogNext := rfl
@[simp] theorem State.modTaps_fmaps (s : State) (f : TapM → TapM) : (s.modTaps f).fmaps = s.fmaps := rfl
@[simp] theorem State.modTaps_caps (s : State) (f : TapM → TapM) : (s.modTaps f).caps = s.caps := rfl
@[simp] theorem State.modTaps_capNext (s : State) (f : TapM → TapM) : (s.modTaps f).capNext = s.capNext := rfl
@[simp] theorem State.modTaps_outFlog (s : State) (f : TapM → TapM) : (s.modTaps f).outFlog = s.outFlog := rfl
@[simp] theorem State.modTaps_tmus (s : State) (f : TapM → TapM) : (s.modTaps f).tmus = s.tmus := rfl
@[simp] theorem State.modTaps_alarms (s : State) (f : TapM → TapM) : (s.modTaps f).alarms = s.alarms := rfl
@[simp] theorem State.modTaps_mcs (s : State) (f : TapM → TapM) : (s.modTaps f).mcs = s.mcs := rfl
@[simp] theorem State.modTaps_sram (s : State) (f : TapM → TapM) : (s.modTaps f).sram = s.sram := rfl
@[simp] theorem State.modTaps_brush (s : State) (f : TapM → TapM) : (s.modTaps f).brush = s.brush := rfl
@[simp] theorem State.modTaps_tune (s : State) (f : TapM → TapM) : (s.modTaps f).tune = s.tune := rfl
@[simp] theorem State.modTaps_flash (s : State) (f : TapM → TapM) : (s.modTaps f).flash = s.flash := rfl
@[simp] theorem State.modTaps_gong (s : State) (f : TapM → TapM) : (s.modTaps f).gong = s.gong := rfl
@[simp] theorem State.modTaps_ring (s : State) (f : TapM → TapM) : (s.modTaps f).ring = s.ring := rfl
@[simp] theorem State.modTaps_sec (s : State) (f : TapM → TapM) : (s.modTaps f).sec = s.sec := rfl
@[simp] theorem State.modTaps_power (s : State) (f : TapM → TapM) : (s.modTaps f).power = s.power := rfl
@[simp] theorem State.modTaps_taps (s : State) (f : TapM → TapM) : (s.modTaps f).taps = f s.taps := rfl

/-! ### modBeat -/

@[simp] theorem State.modBeat_pending (s : State) (f : BRing → BRing) : (s.modBeat f).pending = s.pending := rfl
@[simp] theorem State.modBeat_metro (s : State) (f : BRing → BRing) : (s.modBeat f).metro = s.metro := rfl
@[simp] theorem State.modBeat_free (s : State) (f : BRing → BRing) : (s.modBeat f).free = s.free := rfl
@[simp] theorem State.modBeat_link (s : State) (f : BRing → BRing) : (s.modBeat f).link = s.link := rfl
@[simp] theorem State.modBeat_ctxs (s : State) (f : BRing → BRing) : (s.modBeat f).ctxs = s.ctxs := rfl
@[simp] theorem State.modBeat_cfg (s : State) (f : BRing → BRing) : (s.modBeat f).cfg = s.cfg := rfl
@[simp] theorem State.modBeat_commits (s : State) (f : BRing → BRing) : (s.modBeat f).commits = s.commits := rfl
@[simp] theorem State.modBeat_seqs (s : State) (f : BRing → BRing) : (s.modBeat f).seqs = s.seqs := rfl
@[simp] theorem State.modBeat_pins (s : State) (f : BRing → BRing) : (s.modBeat f).pins = s.pins := rfl
@[simp] theorem State.modBeat_grps (s : State) (f : BRing → BRing) : (s.modBeat f).grps = s.grps := rfl
@[simp] theorem State.modBeat_store (s : State) (f : BRing → BRing) : (s.modBeat f).store = s.store := rfl
@[simp] theorem State.modBeat_flogs (s : State) (f : BRing → BRing) : (s.modBeat f).flogs = s.flogs := rfl
@[simp] theorem State.modBeat_flogNext (s : State) (f : BRing → BRing) : (s.modBeat f).flogNext = s.flogNext := rfl
@[simp] theorem State.modBeat_fmaps (s : State) (f : BRing → BRing) : (s.modBeat f).fmaps = s.fmaps := rfl
@[simp] theorem State.modBeat_caps (s : State) (f : BRing → BRing) : (s.modBeat f).caps = s.caps := rfl
@[simp] theorem State.modBeat_capNext (s : State) (f : BRing → BRing) : (s.modBeat f).capNext = s.capNext := rfl
@[simp] theorem State.modBeat_outFlog (s : State) (f : BRing → BRing) : (s.modBeat f).outFlog = s.outFlog := rfl
@[simp] theorem State.modBeat_tmus (s : State) (f : BRing → BRing) : (s.modBeat f).tmus = s.tmus := rfl
@[simp] theorem State.modBeat_taps (s : State) (f : BRing → BRing) : (s.modBeat f).taps = s.taps := rfl
@[simp] theorem State.modBeat_alarms (s : State) (f : BRing → BRing) : (s.modBeat f).alarms = s.alarms := rfl
@[simp] theorem State.modBeat_mcs (s : State) (f : BRing → BRing) : (s.modBeat f).mcs = s.mcs := rfl
@[simp] theorem State.modBeat_sram (s : State) (f : BRing → BRing) : (s.modBeat f).sram = s.sram := rfl
@[simp] theorem State.modBeat_brush (s : State) (f : BRing → BRing) : (s.modBeat f).brush = s.brush := rfl
@[simp] theorem State.modBeat_tune (s : State) (f : BRing → BRing) : (s.modBeat f).tune = s.tune := rfl
@[simp] theorem State.modBeat_flash (s : State) (f : BRing → BRing) : (s.modBeat f).flash = s.flash := rfl
@[simp] theorem State.modBeat_gong (s : State) (f : BRing → BRing) : (s.modBeat f).gong = s.gong := rfl
@[simp] theorem State.modBeat_sec (s : State) (f : BRing → BRing) : (s.modBeat f).sec = s.sec := rfl
@[simp] theorem State.modBeat_power (s : State) (f : BRing → BRing) : (s.modBeat f).power = s.power := rfl
@[simp] theorem State.modBeat_ring (s : State) (f : BRing → BRing) : (s.modBeat f).ring = f s.ring := rfl

/-! ### modTune -/

@[simp] theorem State.modTune_pending (s : State) (f : Tuning → Tuning) : (s.modTune f).pending = s.pending := rfl
@[simp] theorem State.modTune_metro (s : State) (f : Tuning → Tuning) : (s.modTune f).metro = s.metro := rfl
@[simp] theorem State.modTune_free (s : State) (f : Tuning → Tuning) : (s.modTune f).free = s.free := rfl
@[simp] theorem State.modTune_link (s : State) (f : Tuning → Tuning) : (s.modTune f).link = s.link := rfl
@[simp] theorem State.modTune_ctxs (s : State) (f : Tuning → Tuning) : (s.modTune f).ctxs = s.ctxs := rfl
@[simp] theorem State.modTune_cfg (s : State) (f : Tuning → Tuning) : (s.modTune f).cfg = s.cfg := rfl
@[simp] theorem State.modTune_commits (s : State) (f : Tuning → Tuning) : (s.modTune f).commits = s.commits := rfl
@[simp] theorem State.modTune_seqs (s : State) (f : Tuning → Tuning) : (s.modTune f).seqs = s.seqs := rfl
@[simp] theorem State.modTune_pins (s : State) (f : Tuning → Tuning) : (s.modTune f).pins = s.pins := rfl
@[simp] theorem State.modTune_grps (s : State) (f : Tuning → Tuning) : (s.modTune f).grps = s.grps := rfl
@[simp] theorem State.modTune_store (s : State) (f : Tuning → Tuning) : (s.modTune f).store = s.store := rfl
@[simp] theorem State.modTune_flogs (s : State) (f : Tuning → Tuning) : (s.modTune f).flogs = s.flogs := rfl
@[simp] theorem State.modTune_flogNext (s : State) (f : Tuning → Tuning) : (s.modTune f).flogNext = s.flogNext := rfl
@[simp] theorem State.modTune_fmaps (s : State) (f : Tuning → Tuning) : (s.modTune f).fmaps = s.fmaps := rfl
@[simp] theorem State.modTune_caps (s : State) (f : Tuning → Tuning) : (s.modTune f).caps = s.caps := rfl
@[simp] theorem State.modTune_capNext (s : State) (f : Tuning → Tuning) : (s.modTune f).capNext = s.capNext := rfl
@[simp] theorem State.modTune_outFlog (s : State) (f : Tuning → Tuning) : (s.modTune f).outFlog = s.outFlog := rfl
@[simp] theorem State.modTune_tmus (s : State) (f : Tuning → Tuning) : (s.modTune f).tmus = s.tmus := rfl
@[simp] theorem State.modTune_taps (s : State) (f : Tuning → Tuning) : (s.modTune f).taps = s.taps := rfl
@[simp] theorem State.modTune_alarms (s : State) (f : Tuning → Tuning) : (s.modTune f).alarms = s.alarms := rfl
@[simp] theorem State.modTune_mcs (s : State) (f : Tuning → Tuning) : (s.modTune f).mcs = s.mcs := rfl
@[simp] theorem State.modTune_sram (s : State) (f : Tuning → Tuning) : (s.modTune f).sram = s.sram := rfl
@[simp] theorem State.modTune_brush (s : State) (f : Tuning → Tuning) : (s.modTune f).brush = s.brush := rfl
@[simp] theorem State.modTune_flash (s : State) (f : Tuning → Tuning) : (s.modTune f).flash = s.flash := rfl
@[simp] theorem State.modTune_gong (s : State) (f : Tuning → Tuning) : (s.modTune f).gong = s.gong := rfl
@[simp] theorem State.modTune_ring (s : State) (f : Tuning → Tuning) : (s.modTune f).ring = s.ring := rfl
@[simp] theorem State.modTune_sec (s : State) (f : Tuning → Tuning) : (s.modTune f).sec = s.sec := rfl
@[simp] theorem State.modTune_power (s : State) (f : Tuning → Tuning) : (s.modTune f).power = s.power := rfl
@[simp] theorem State.modTune_tune (s : State) (f : Tuning → Tuning) : (s.modTune f).tune = f s.tune := rfl

/-! ### modSec -/

@[simp] theorem State.modSec_pending (s : State) (f : Sec → Sec) : (s.modSec f).pending = s.pending := rfl
@[simp] theorem State.modSec_metro (s : State) (f : Sec → Sec) : (s.modSec f).metro = s.metro := rfl
@[simp] theorem State.modSec_free (s : State) (f : Sec → Sec) : (s.modSec f).free = s.free := rfl
@[simp] theorem State.modSec_link (s : State) (f : Sec → Sec) : (s.modSec f).link = s.link := rfl
@[simp] theorem State.modSec_ctxs (s : State) (f : Sec → Sec) : (s.modSec f).ctxs = s.ctxs := rfl
@[simp] theorem State.modSec_cfg (s : State) (f : Sec → Sec) : (s.modSec f).cfg = s.cfg := rfl
@[simp] theorem State.modSec_commits (s : State) (f : Sec → Sec) : (s.modSec f).commits = s.commits := rfl
@[simp] theorem State.modSec_seqs (s : State) (f : Sec → Sec) : (s.modSec f).seqs = s.seqs := rfl
@[simp] theorem State.modSec_pins (s : State) (f : Sec → Sec) : (s.modSec f).pins = s.pins := rfl
@[simp] theorem State.modSec_grps (s : State) (f : Sec → Sec) : (s.modSec f).grps = s.grps := rfl
@[simp] theorem State.modSec_store (s : State) (f : Sec → Sec) : (s.modSec f).store = s.store := rfl
@[simp] theorem State.modSec_flogs (s : State) (f : Sec → Sec) : (s.modSec f).flogs = s.flogs := rfl
@[simp] theorem State.modSec_flogNext (s : State) (f : Sec → Sec) : (s.modSec f).flogNext = s.flogNext := rfl
@[simp] theorem State.modSec_fmaps (s : State) (f : Sec → Sec) : (s.modSec f).fmaps = s.fmaps := rfl
@[simp] theorem State.modSec_caps (s : State) (f : Sec → Sec) : (s.modSec f).caps = s.caps := rfl
@[simp] theorem State.modSec_capNext (s : State) (f : Sec → Sec) : (s.modSec f).capNext = s.capNext := rfl
@[simp] theorem State.modSec_outFlog (s : State) (f : Sec → Sec) : (s.modSec f).outFlog = s.outFlog := rfl
@[simp] theorem State.modSec_tmus (s : State) (f : Sec → Sec) : (s.modSec f).tmus = s.tmus := rfl
@[simp] theorem State.modSec_taps (s : State) (f : Sec → Sec) : (s.modSec f).taps = s.taps := rfl
@[simp] theorem State.modSec_alarms (s : State) (f : Sec → Sec) : (s.modSec f).alarms = s.alarms := rfl
@[simp] theorem State.modSec_mcs (s : State) (f : Sec → Sec) : (s.modSec f).mcs = s.mcs := rfl
@[simp] theorem State.modSec_sram (s : State) (f : Sec → Sec) : (s.modSec f).sram = s.sram := rfl
@[simp] theorem State.modSec_brush (s : State) (f : Sec → Sec) : (s.modSec f).brush = s.brush := rfl
@[simp] theorem State.modSec_tune (s : State) (f : Sec → Sec) : (s.modSec f).tune = s.tune := rfl
@[simp] theorem State.modSec_flash (s : State) (f : Sec → Sec) : (s.modSec f).flash = s.flash := rfl
@[simp] theorem State.modSec_gong (s : State) (f : Sec → Sec) : (s.modSec f).gong = s.gong := rfl
@[simp] theorem State.modSec_ring (s : State) (f : Sec → Sec) : (s.modSec f).ring = s.ring := rfl
@[simp] theorem State.modSec_power (s : State) (f : Sec → Sec) : (s.modSec f).power = s.power := rfl
@[simp] theorem State.modSec_sec (s : State) (f : Sec → Sec) : (s.modSec f).sec = f s.sec := rfl

/-! ### modPower -/

@[simp] theorem State.modPower_pending (s : State) (f : Power → Power) : (s.modPower f).pending = s.pending := rfl
@[simp] theorem State.modPower_metro (s : State) (f : Power → Power) : (s.modPower f).metro = s.metro := rfl
@[simp] theorem State.modPower_free (s : State) (f : Power → Power) : (s.modPower f).free = s.free := rfl
@[simp] theorem State.modPower_link (s : State) (f : Power → Power) : (s.modPower f).link = s.link := rfl
@[simp] theorem State.modPower_ctxs (s : State) (f : Power → Power) : (s.modPower f).ctxs = s.ctxs := rfl
@[simp] theorem State.modPower_cfg (s : State) (f : Power → Power) : (s.modPower f).cfg = s.cfg := rfl
@[simp] theorem State.modPower_commits (s : State) (f : Power → Power) : (s.modPower f).commits = s.commits := rfl
@[simp] theorem State.modPower_seqs (s : State) (f : Power → Power) : (s.modPower f).seqs = s.seqs := rfl
@[simp] theorem State.modPower_pins (s : State) (f : Power → Power) : (s.modPower f).pins = s.pins := rfl
@[simp] theorem State.modPower_grps (s : State) (f : Power → Power) : (s.modPower f).grps = s.grps := rfl
@[simp] theorem State.modPower_store (s : State) (f : Power → Power) : (s.modPower f).store = s.store := rfl
@[simp] theorem State.modPower_flogs (s : State) (f : Power → Power) : (s.modPower f).flogs = s.flogs := rfl
@[simp] theorem State.modPower_flogNext (s : State) (f : Power → Power) : (s.modPower f).flogNext = s.flogNext := rfl
@[simp] theorem State.modPower_fmaps (s : State) (f : Power → Power) : (s.modPower f).fmaps = s.fmaps := rfl
@[simp] theorem State.modPower_caps (s : State) (f : Power → Power) : (s.modPower f).caps = s.caps := rfl
@[simp] theorem State.modPower_capNext (s : State) (f : Power → Power) : (s.modPower f).capNext = s.capNext := rfl
@[simp] theorem State.modPower_outFlog (s : State) (f : Power → Power) : (s.modPower f).outFlog = s.outFlog := rfl
@[simp] theorem State.modPower_tmus (s : State) (f : Power → Power) : (s.modPower f).tmus = s.tmus := rfl
@[simp] theorem State.modPower_taps (s : State) (f : Power → Power) : (s.modPower f).taps = s.taps := rfl
@[simp] theorem State.modPower_alarms (s : State) (f : Power → Power) : (s.modPower f).alarms = s.alarms := rfl
@[simp] theorem State.modPower_mcs (s : State) (f : Power → Power) : (s.modPower f).mcs = s.mcs := rfl
@[simp] theorem State.modPower_sram (s : State) (f : Power → Power) : (s.modPower f).sram = s.sram := rfl
@[simp] theorem State.modPower_brush (s : State) (f : Power → Power) : (s.modPower f).brush = s.brush := rfl
@[simp] theorem State.modPower_tune (s : State) (f : Power → Power) : (s.modPower f).tune = s.tune := rfl
@[simp] theorem State.modPower_flash (s : State) (f : Power → Power) : (s.modPower f).flash = s.flash := rfl
@[simp] theorem State.modPower_gong (s : State) (f : Power → Power) : (s.modPower f).gong = s.gong := rfl
@[simp] theorem State.modPower_ring (s : State) (f : Power → Power) : (s.modPower f).ring = s.ring := rfl
@[simp] theorem State.modPower_sec (s : State) (f : Power → Power) : (s.modPower f).sec = s.sec := rfl
@[simp] theorem State.modPower_power (s : State) (f : Power → Power) : (s.modPower f).power = f s.power := rfl

/-! ### modLink -/

@[simp] theorem State.modLink_pending (s : State) (f : HostLink → HostLink) : (s.modLink f).pending = s.pending := rfl
@[simp] theorem State.modLink_metro (s : State) (f : HostLink → HostLink) : (s.modLink f).metro = s.metro := rfl
@[simp] theorem State.modLink_free (s : State) (f : HostLink → HostLink) : (s.modLink f).free = s.free := rfl
@[simp] theorem State.modLink_ctxs (s : State) (f : HostLink → HostLink) : (s.modLink f).ctxs = s.ctxs := rfl
@[simp] theorem State.modLink_cfg (s : State) (f : HostLink → HostLink) : (s.modLink f).cfg = s.cfg := rfl
@[simp] theorem State.modLink_commits (s : State) (f : HostLink → HostLink) : (s.modLink f).commits = s.commits := rfl
@[simp] theorem State.modLink_seqs (s : State) (f : HostLink → HostLink) : (s.modLink f).seqs = s.seqs := rfl
@[simp] theorem State.modLink_pins (s : State) (f : HostLink → HostLink) : (s.modLink f).pins = s.pins := rfl
@[simp] theorem State.modLink_grps (s : State) (f : HostLink → HostLink) : (s.modLink f).grps = s.grps := rfl
@[simp] theorem State.modLink_store (s : State) (f : HostLink → HostLink) : (s.modLink f).store = s.store := rfl
@[simp] theorem State.modLink_flogs (s : State) (f : HostLink → HostLink) : (s.modLink f).flogs = s.flogs := rfl
@[simp] theorem State.modLink_flogNext (s : State) (f : HostLink → HostLink) : (s.modLink f).flogNext = s.flogNext := rfl
@[simp] theorem State.modLink_fmaps (s : State) (f : HostLink → HostLink) : (s.modLink f).fmaps = s.fmaps := rfl
@[simp] theorem State.modLink_caps (s : State) (f : HostLink → HostLink) : (s.modLink f).caps = s.caps := rfl
@[simp] theorem State.modLink_capNext (s : State) (f : HostLink → HostLink) : (s.modLink f).capNext = s.capNext := rfl
@[simp] theorem State.modLink_outFlog (s : State) (f : HostLink → HostLink) : (s.modLink f).outFlog = s.outFlog := rfl
@[simp] theorem State.modLink_tmus (s : State) (f : HostLink → HostLink) : (s.modLink f).tmus = s.tmus := rfl
@[simp] theorem State.modLink_taps (s : State) (f : HostLink → HostLink) : (s.modLink f).taps = s.taps := rfl
@[simp] theorem State.modLink_alarms (s : State) (f : HostLink → HostLink) : (s.modLink f).alarms = s.alarms := rfl
@[simp] theorem State.modLink_mcs (s : State) (f : HostLink → HostLink) : (s.modLink f).mcs = s.mcs := rfl
@[simp] theorem State.modLink_sram (s : State) (f : HostLink → HostLink) : (s.modLink f).sram = s.sram := rfl
@[simp] theorem State.modLink_brush (s : State) (f : HostLink → HostLink) : (s.modLink f).brush = s.brush := rfl
@[simp] theorem State.modLink_tune (s : State) (f : HostLink → HostLink) : (s.modLink f).tune = s.tune := rfl
@[simp] theorem State.modLink_flash (s : State) (f : HostLink → HostLink) : (s.modLink f).flash = s.flash := rfl
@[simp] theorem State.modLink_gong (s : State) (f : HostLink → HostLink) : (s.modLink f).gong = s.gong := rfl
@[simp] theorem State.modLink_ring (s : State) (f : HostLink → HostLink) : (s.modLink f).ring = s.ring := rfl
@[simp] theorem State.modLink_sec (s : State) (f : HostLink → HostLink) : (s.modLink f).sec = s.sec := rfl
@[simp] theorem State.modLink_power (s : State) (f : HostLink → HostLink) : (s.modLink f).power = s.power := rfl
@[simp] theorem State.modLink_link (s : State) (f : HostLink → HostLink) : (s.modLink f).link = f s.link := rfl

/-! ### modSram -/

@[simp] theorem State.modSram_pending (s : State) (f : Sram → Sram) : (s.modSram f).pending = s.pending := rfl
@[simp] theorem State.modSram_metro (s : State) (f : Sram → Sram) : (s.modSram f).metro = s.metro := rfl
@[simp] theorem State.modSram_free (s : State) (f : Sram → Sram) : (s.modSram f).free = s.free := rfl
@[simp] theorem State.modSram_link (s : State) (f : Sram → Sram) : (s.modSram f).link = s.link := rfl
@[simp] theorem State.modSram_ctxs (s : State) (f : Sram → Sram) : (s.modSram f).ctxs = s.ctxs := rfl
@[simp] theorem State.modSram_cfg (s : State) (f : Sram → Sram) : (s.modSram f).cfg = s.cfg := rfl
@[simp] theorem State.modSram_commits (s : State) (f : Sram → Sram) : (s.modSram f).commits = s.commits := rfl
@[simp] theorem State.modSram_seqs (s : State) (f : Sram → Sram) : (s.modSram f).seqs = s.seqs := rfl
@[simp] theorem State.modSram_pins (s : State) (f : Sram → Sram) : (s.modSram f).pins = s.pins := rfl
@[simp] theorem State.modSram_grps (s : State) (f : Sram → Sram) : (s.modSram f).grps = s.grps := rfl
@[simp] theorem State.modSram_store (s : State) (f : Sram → Sram) : (s.modSram f).store = s.store := rfl
@[simp] theorem State.modSram_flogs (s : State) (f : Sram → Sram) : (s.modSram f).flogs = s.flogs := rfl
@[simp] theorem State.modSram_flogNext (s : State) (f : Sram → Sram) : (s.modSram f).flogNext = s.flogNext := rfl
@[simp] theorem State.modSram_fmaps (s : State) (f : Sram → Sram) : (s.modSram f).fmaps = s.fmaps := rfl
@[simp] theorem State.modSram_caps (s : State) (f : Sram → Sram) : (s.modSram f).caps = s.caps := rfl
@[simp] theorem State.modSram_capNext (s : State) (f : Sram → Sram) : (s.modSram f).capNext = s.capNext := rfl
@[simp] theorem State.modSram_outFlog (s : State) (f : Sram → Sram) : (s.modSram f).outFlog = s.outFlog := rfl
@[simp] theorem State.modSram_tmus (s : State) (f : Sram → Sram) : (s.modSram f).tmus = s.tmus := rfl
@[simp] theorem State.modSram_taps (s : State) (f : Sram → Sram) : (s.modSram f).taps = s.taps := rfl
@[simp] theorem State.modSram_alarms (s : State) (f : Sram → Sram) : (s.modSram f).alarms = s.alarms := rfl
@[simp] theorem State.modSram_mcs (s : State) (f : Sram → Sram) : (s.modSram f).mcs = s.mcs := rfl
@[simp] theorem State.modSram_brush (s : State) (f : Sram → Sram) : (s.modSram f).brush = s.brush := rfl
@[simp] theorem State.modSram_tune (s : State) (f : Sram → Sram) : (s.modSram f).tune = s.tune := rfl
@[simp] theorem State.modSram_flash (s : State) (f : Sram → Sram) : (s.modSram f).flash = s.flash := rfl
@[simp] theorem State.modSram_gong (s : State) (f : Sram → Sram) : (s.modSram f).gong = s.gong := rfl
@[simp] theorem State.modSram_ring (s : State) (f : Sram → Sram) : (s.modSram f).ring = s.ring := rfl
@[simp] theorem State.modSram_sec (s : State) (f : Sram → Sram) : (s.modSram f).sec = s.sec := rfl
@[simp] theorem State.modSram_power (s : State) (f : Sram → Sram) : (s.modSram f).power = s.power := rfl
@[simp] theorem State.modSram_sram (s : State) (f : Sram → Sram) : (s.modSram f).sram = f s.sram := rfl

end Sys2Proof.Machine
end

