-- ==== Sys2Proof/Laws/Events.lean ====
section
/-! SUPPORT. What the shared operations of events change: the edge of an event pin, the start of a store command, errors met in
memory, drive events, crossings, trips and the end of a measurement. -/

namespace Sys2Proof.Machine

open Sys2Proof

/-- The edge of an event pin joins the raises, or takes back the edge of a level that has held for less than two ticks. -/
theorem State.pinRaise_raises (s : State) (prod : Nat) (level : Bool) (h : 7 ≤ s.power.stepDone) :
    s.pinRaise prod level = s.modTaps (fun m => { m with
      raises := if m.raises.any (fun r => r.prod == prod && decide (s.tick * 512 < r.ts.fine + 1024)) then
          m.raises.filter (fun r => !(r.prod == prod && decide (s.tick * 512 < r.ts.fine + 1024)))
        else m.raises ++ [{ prod := prod, ts := s.nowTick, fine := (s.tick + 2) * 512, edge := some level }] }) := by
  unfold State.pinRaise
  rw [if_neg (Nat.not_lt.2 h)]
  by_cases hk : s.taps.raises.any (fun r => r.prod == prod && decide (s.tick * 512 < r.ts.fine + 1024)) = true
  · refine (if_pos hk).trans ?_
    simp only [State.modTaps, hk, if_true]
  · refine (if_neg hk).trans ?_
    simp only [State.modTaps, hk, Bool.false_eq_true, if_false]

/-- A store command that no earlier one holds up starts, and lets the ones behind it start. -/
theorem storeStart_of_starts {op : Nat} {h : Hdr} {q : Pkt} {a : State} (hs : storeStarts op h q a) :
    storeStart op h q a = (storeBody op h q a).settleStore := if_neg (by rw [hs]; exact Bool.false_ne_true)

/-- The errors that reading the pattern window meets touch the Brush counters and the Gong alone. -/
theorem State.meetErrs_frame (s : State) (a n : Nat) : ∃ b g, s.meetErrs a n = { s with brush := b, gong := g } := by
  have he : ∀ (u : State) part e, ∃ b g, u.storeErr part e = { u with brush := b, gong := g } := by
    intro u part e
    unfold State.storeErr
    dsimp only
    split <;> exact ⟨_, _, rfl⟩
  unfold State.meetErrs State.storeErrs
  generalize (errsIn a n s.store.errs).filter (fun e => s.store.lineWritten e.addr) = l
  induction l generalizing s with
  | nil => exact ⟨s.brush, s.gong, rfl⟩
  | cons e l ih =>
    obtain ⟨b, g, h⟩ := he s 3 e
    rw [List.foldl_cons, h]
    obtain ⟨b2, g2, h2⟩ := ih { s with brush := b, gong := g }
    exact ⟨b2, g2, h2⟩

/-- Reading a descriptor touches the Brush counters and the Gong alone. -/
theorem State.meetDesc_frame (s : State) (p : Pkt) (d : List Byte) : ∃ b g, s.meetDesc p d = { s with brush := b, gong := g } := by
  unfold State.meetDesc
  split
  · exact ⟨s.brush, s.gong, rfl⟩
  · exact State.meetErrs_frame s _ _

/-- What a drive event tells the interval units changes them alone. -/
theorem State.tellDrive_frame (s : State) (p : Fin 128) (e : DrvEv) : ∃ w, s.tellDrive p e = { s with tmus := w } := by
  unfold State.tellDrive
  dsimp only
  split
  · split
    · exact ⟨_, rfl⟩
    · exact ⟨s.tmus, rfl⟩
  · exact ⟨s.tmus, rfl⟩

/-- A drive event at its pin: held back it changes no level; otherwise assignment, release and turn-on act (R182, R185). -/
theorem Pin.takeDrive_acts (x : Pin) (e : DrvEv) (es : List DrvEv) (tick : Nat) :
    (x.blocked = true → e.act.isFrame = false → (x.takeDrive e es tick).on = x.on ∧ (x.takeDrive e es tick).level = x.level ∧
        (x.takeDrive e es tick).driven = x.driven ∧ (x.takeDrive e es tick).lastCode = x.lastCode) ∧
      (x.blocked = false → (∀ l, e.act = .assign l → (x.takeDrive e es tick).on = true ∧ (x.takeDrive e es tick).level = l ∧ (x.takeDrive e es tick).driven = true) ∧
        (∀ c, e.act = .release c → (x.takeDrive e es tick).on = false ∧ (x.takeDrive e es tick).level = x.level ∧ (x.takeDrive e es tick).lastCode = c) ∧
        (∀ o, e.act = .turnOn o → (x.takeDrive e es tick).on = true ∧ (x.takeDrive e es tick).level = (if x.on then x.level else o.getD x.level))) := by
  have key : ∀ (z : Pin), z.on = x.on → z.level = x.level → z.driven = x.driven → z.lastCode = x.lastCode → z.blocked = x.blocked →
      let y := (if z.blocked && !e.act.isFrame then z else z.driveAct e.act).replan
      (x.blocked = true → e.act.isFrame = false → y.on = x.on ∧ y.level = x.level ∧ y.driven = x.driven ∧ y.lastCode = x.lastCode) ∧
      (x.blocked = false → (∀ l, e.act = .assign l → y.on = true ∧ y.level = l ∧ y.driven = true) ∧
        (∀ c, e.act = .release c → y.on = false ∧ y.level = x.level ∧ y.lastCode = c) ∧
        (∀ o, e.act = .turnOn o → y.on = true ∧ y.level = (if x.on then x.level else o.getD x.level))) := by
    intro z h1 h2 h3 h4 h5
    dsimp only
    rw [h5]
    constructor
    · intro hb hf
      rw [hb, hf]
      exact ⟨h1, h2, h3, h4⟩
    · intro hb
      rw [hb]
      refine ⟨?_, ?_, ?_⟩
      · intro l hl
        rw [hl]
        exact ⟨rfl, rfl, rfl⟩
      · intro c hc
        rw [hc]
        exact ⟨rfl, h2, rfl⟩
      · intro o ho
        rw [ho]
        show (Pin.replan (if z.on then z else _)).on = true ∧ (Pin.replan (if z.on then z else _)).level = _
        rw [h1]
        cases hx : x.on
        · exact ⟨rfl, congrArg o.getD h2⟩
        · exact ⟨h1.trans hx, h2⟩
  unfold Pin.takeDrive
  refine key _ ?_ ?_ ?_ ?_ ?_
  all_goals
    unfold Pin.remember
    dsimp only
    cases e.act.isDrive x.on
    · simp only [Bool.false_eq_true, if_false]
      split <;> rfl
    · simp only [if_true]
      split <;> rfl

/-- Pairing a crossing keeps the record of crossings and the comparators. -/
theorem Pin.pair_keeps (y : Pin) (x : Cross) (span : Nat) :
    (y.pair x span).crosses = y.crosses ∧ (y.pair x span).voh = y.voh ∧ (y.pair x span).vol = y.vol := by
  have he : ∀ now, (y.expire now span).crosses = y.crosses ∧ (y.expire now span).voh = y.voh ∧ (y.expire now span).vol = y.vol := by
    intro now
    unfold Pin.expire
    cases y.openRise <;> cases y.openFall <;> (dsimp only; repeat' (first | exact ⟨rfl, rfl, rfl⟩ | split))
  obtain ⟨h1, h2, h3⟩ := he x.t
  rw [← h1, ← h2, ← h3]
  unfold Pin.pair
  generalize y.expire x.t span = z
  cases x.voh <;> cases x.rising <;> cases z.openRise <;> cases z.openFall <;>
    (dsimp only; repeat' (first | exact ⟨rfl, rfl, rfl⟩ | split))

/-- The output that a crossing leaves (R203). -/
theorem CompS.cross_out (k : CompS) (rising : Bool) (t : Nat) :
    if t < k.enabledAt then (k.cross rising t).prev = (if rising then .high else .low) ∧ (k.cross rising t).out = k.out
    else (k.cross rising t).out = (if rising then .high else .low) := by
  unfold CompS.cross
  split
  · rename_i h
    simp only [h, if_true, and_self]
  · rename_i h
    simp only [h, if_false]

/-- A change of one pin's edges changes that pin and the measurements of its group alone. -/
theorem State.pinEdges_frame (s : State) (p : Fin 128) (f : Pin → Pin) : ∃ (w : Vector Pin 128) (g : Vector Grp 8), s.pinEdges p f = { s with pins := w, grps := g } ∧
    w[p] = f s.pins[p] ∧ ∀ r : Fin 128, r ≠ p → w[r] = s.pins[r] :=
  ⟨_, _, rfl, vmod_self _ _ _, fun _ hr => vmod_other _ _ _ _ hr⟩

/-- A change of a pin to what it gives there. -/
theorem State.modPin_at (s : State) (p : Fin 128) (f g : Pin → Pin) (h : f s.pins[p] = g s.pins[p]) : s.modPin p f = s.modPin p g := by
  unfold State.modPin vmod
  rw [h]

/-- What a trip counts at the reserve channel changes its group alone. -/
theorem State.tripCarrier_frame (s : State) (p : Fin 128) : ∃ w, s.tripCarrier p = { s with grps := w } := by
  unfold State.tripCarrier
  split
  · exact ⟨_, rfl⟩
  · exact ⟨s.grps, rfl⟩

/-- A trip latches its guard and takes the driver off; drive events of the same tick have no effect (R206). -/
theorem Pin.trip_acts (x : Pin) (g : Guard) (tick : Nat) :
    ((x.trip g tick).guard g).latched = true ∧ (x.trip g tick).on = false ∧ (x.trip g tick).lastCode = .k ∧ (x.trip g tick).reflex.offBurst = true ∧
      (x.trip g tick).trips = min (x.trips + 1) (2 ^ 32 - 1) ∧ (x.drvTick = some tick → (x.trip g tick).level = x.preLevel) ∧
      (x.drvTick ≠ some tick → (x.trip g tick).level = x.level) := by
  have hu : ∀ y : Pin, (x.drvTick = some tick → y = { x with level := x.preLevel, driven := x.preDriven, lastCode := x.preCode }) → (x.drvTick ≠ some tick → y = x) →
      (x.drvTick = some tick → y.level = x.preLevel) ∧ (x.drvTick ≠ some tick → y.level = x.level) :=
    fun y h1 h2 => ⟨fun h => by rw [h1 h], fun h => by rw [h2 h]⟩
  obtain ⟨e1, e2⟩ := hu (x.undoTick tick) (fun h => if_pos h) (fun h => if_neg h)
  have hl : (x.trip g tick).level = (x.undoTick tick).level := by cases g <;> rfl
  rw [hl]
  refine ⟨?_, rfl, rfl, rfl, rfl, e1, e2⟩
  cases g <;> rfl

/-- The first measurement of a group ends: its response waits, and the next one starts (R55). -/
theorem State.endJob_jobs (s : State) (g : Fin 8) (e : Entry) (j : MeasJob) (js : List MeasJob) (h : s.grps[g].jobs = j :: js) :
    s.endJob g e = (((s.modGrp g (fun x => { x with jobs := js })).pushEntry e.hdr.mb e.hdr.ring e).startJob g).resumeAssign g := by
  have hm : s.modGrp g (fun x => { x with jobs := x.jobs.drop 1 }) = s.modGrp g (fun x => { x with jobs := js }) := by
    have h1 : s.grps[g].jobs.drop 1 = js := by rw [h]; rfl
    have h2 : ({ s.grps[g] with jobs := s.grps[g].jobs.drop 1 } : Grp) = { s.grps[g] with jobs := js } := congrArg (fun l => ({ s.grps[g] with jobs := l } : Grp)) h1
    unfold State.modGrp vmod
    exact congrArg (fun x => ({ s with grps := s.grps.set g.val x } : State)) h2
  unfold State.endJob
  rw [hm]

/-- A SLOPE measurement that takes edges stays first in its group, with its command and count. -/
theorem State.lastEdges_job (s : State) (p : Fin 128) (g : Fin 8) (m : LevMeas) (js : List MeasJob) (h : s.grps[g].jobs = .level m :: js) :
    ∃ m1, (s.lastEdges p).grps[g].jobs = .level m1 :: js ∧ m1.hdr = m.hdr ∧ m1.count = m.count := by
  have ht : ∀ (es : List Pair) (n : LevMeas), (es.foldl (fun a e => a.takeEdge p e) n).hdr = n.hdr ∧ (es.foldl (fun a e => a.takeEdge p e) n).count = n.count := by
    intro es
    induction es with
    | nil => exact fun n => ⟨rfl, rfl⟩
    | cons e es ih =>
      intro n
      have h1 : (n.takeEdge p e).hdr = n.hdr ∧ (n.takeEdge p e).count = n.count := by
        unfold LevMeas.takeEdge
        dsimp only
        split
        · split <;> exact ⟨rfl, rfl⟩
        · exact ⟨rfl, rfl⟩
      obtain ⟨i1, i2⟩ := ih (n.takeEdge p e)
      exact ⟨i1.trans h1.1, i2.trans h1.2⟩
  unfold State.lastEdges State.pinEdges
  dsimp only
  generalize (List.take _ _).reverse = es
  by_cases hg : g = grpOf p
  · subst hg
    refine ⟨_, ?_, ht es m⟩
    show (vmod s.grps (grpOf p) _)[grpOf p].jobs = _
    rw [vmod_self]
    unfold Grp.takeEdges
    rw [h]
  · refine ⟨m, ?_, rfl, rfl⟩
    show (vmod s.grps (grpOf p) _)[g].jobs = _
    rw [vmod_other _ _ _ _ hg]
    exact h

end Sys2Proof.Machine
end

