-- ==== Sys2Proof/Laws/Flow.lean ====
section
/-! SUPPORT. What the issue of a vector does to its sequencer: the stacks, the wait, the decision and the successor are those of
the opcode; everything that the issue writes afterwards is a record of it. -/

namespace Sys2Proof.Machine

open Sys2Proof

/-- Placing the events of one pin changes no sequencer. -/
theorem State.placePin_seqs (s : State) (q : Fin 4) (v : VecCtx) (l : VLine) (gi : Nat) (p : Fin 128) (a : PlaceAcc) :
    (s.placePin q v l gi p a).1.seqs = s.seqs ∧ (s.placePin q v l gi p a).1.cfg = s.cfg ∧ (s.placePin q v l gi p a).1.ring = s.ring := ⟨rfl, rfl, rfl⟩

/-- A fold over states with an accumulator keeps what each turn keeps. -/
theorem foldl_pair_inv {α σ τ : Type} (P : σ → Prop) (f : σ × τ → α → σ × τ) (hf : ∀ r x, P r.1 → P (f r x).1) :
    ∀ (l : List α) (r : σ × τ), P r.1 → P (l.foldl f r).1
  | [], _, h => h
  | x :: l, r, h => foldl_pair_inv P f hf l (f r x) (hf r x h)

/-- A fold over states keeps what each turn keeps. -/
theorem foldl_inv {α σ : Type} (P : σ → Prop) (f : σ → α → σ) (hf : ∀ r x, P r → P (f r x)) : ∀ (l : List α) (r : σ), P r → P (l.foldl f r)
  | [], _, h => h
  | x :: l, r, h => foldl_inv P f hf l (f r x) (hf r x h)

/-- Placing the events of a vector changes no sequencer, no configuration and nothing of the ring. -/
theorem State.placeVector_frame (s : State) (q : Fin 4) (v : VecCtx) (l : VLine) :
    (s.placeVector q v l).1.seqs = s.seqs ∧ (s.placeVector q v l).1.cfg = s.cfg ∧ (s.placeVector q v l).1.ring = s.ring := by
  unfold State.placeVector
  refine foldl_pair_inv (fun t : State => t.seqs = s.seqs ∧ t.cfg = s.cfg ∧ t.ring = s.ring) _ ?_ _ _ ⟨rfl, rfl, rfl⟩
  intro r x hr
  refine foldl_pair_inv (fun t : State => t.seqs = s.seqs ∧ t.cfg = s.cfg ∧ t.ring = s.ring) _ ?_ _ _ hr
  intro r2 x2 hr2
  obtain ⟨h1, h2, h3⟩ := State.placePin_seqs r2.1 q v l x.2 (pinOf x.1 x2) r2.2
  exact ⟨h1.trans hr2.1, h2.trans hr2.2.1, h3.trans hr2.2.2⟩

/-- What a sequencer's flow consists of: the fields that issuing a vector sets by its opcode. -/
def Seq.flow (x : Seq) : (Nat × Nat × Nat × Nat × Nat) × List LoopFr × List CallFr × Dec × Wait × Nat × Fin 4 × (Nat × Nat × Nat) × Bool × SeqSt :=
  ((x.vecs, x.lastAddr, x.addr, x.nextStart, x.reps), x.loops, x.calls, x.dec, x.wait, x.base, x.pf, (x.tapPend, x.tapwChan, x.syncTo), x.lpbPlain, x.st)

/-- The report of a moved event marks the sequencer, if anything. -/
theorem State.reportClash_cases (s : State) (q : Fin 4) (m : List (Nat × Fin 128 × Nat × Nat)) :
    s.reportClash q m = s ∨ ∃ i a b, s.reportClash q m = (s.modSeq q (fun x => { x with clashSeen := true })).report 0x11 i false s.nowTick a b := by
  unfold State.reportClash
  split
  · exact .inl rfl
  · by_cases h : s.seqs[q].clashSeen = true
    · exact .inl (if_pos h)
    · exact .inr ⟨_, _, _, if_neg h⟩

/-- A change of one sequencer that keeps its flow and flag keeps them. -/
theorem State.modSeq_flow (s : State) (q : Fin 4) (f : Seq → Seq) (hf : ∀ x, (f x).flow = x.flow ∧ (f x).flag = x.flag) :
    ((s.modSeq q f).seqs[q]).flow = (s.seqs[q]).flow ∧ ((s.modSeq q f).seqs[q]).flag = (s.seqs[q]).flag := by
  have h : (s.modSeq q f).seqs[q] = f s.seqs[q] := vmod_self s.seqs q f
  rw [h]
  exact hf _

/-- The report of a moved event changes no flow. -/
theorem State.reportClash_flow (s : State) (q : Fin 4) (m : List (Nat × Fin 128 × Nat × Nat)) :
    ((s.reportClash q m).seqs[q]).flow = (s.seqs[q]).flow ∧ ((s.reportClash q m).seqs[q]).flag = (s.seqs[q]).flag := by
  rcases s.reportClash_cases q m with h | ⟨i, a, b, h⟩
  · rw [h]; exact ⟨rfl, rfl⟩
  · rw [h]
    exact State.modSeq_flow s q _ (fun x => by simp only [Seq.flow, and_self])

/-- A capture item changes no sequencer. -/
theorem State.capPut_seqs (s : State) (i : Fin 8) (r : CapRec) (ts : Ts) : (s.capPut i r ts).seqs = s.seqs := by
  unfold State.capPut
  dsimp only
  split <;> rfl

/-- A vector's mark changes no sequencer. -/
theorem State.putVecMark_seqs (s : State) (i : Fin 8) (ts : Ts) (type low : Nat) (v : Option Nat) (a b : Nat) :
    (s.putVecMark i ts type low v a b).seqs = s.seqs := by
  have hk : ∀ k : Option Bool, (match k with
      | none => s
      | some kept => s.capPut i (s.markItem i ts type low v a b kept) ts).seqs = s.seqs := by
    intro k
    cases k with
    | none => rfl
    | some n => exact State.capPut_seqs _ _ _ _
  exact hk _

/-- A vector's mark changes no Fail Log. -/
theorem State.putVecMark_flogs (s : State) (i : Fin 8) (ts : Ts) (type low : Nat) (v : Option Nat) (a b : Nat) :
    (s.putVecMark i ts type low v a b).flogs = s.flogs := by
  have hc : ∀ r, (s.capPut i r ts).flogs = s.flogs := by
    intro r
    unfold State.capPut
    dsimp only
    split <;> rfl
  have hk : ∀ k : Option Bool, (match k with
      | none => s
      | some kept => s.capPut i (s.markItem i ts type low v a b kept) ts).flogs = s.flogs := by
    intro k
    cases k with
    | none => rfl
    | some n => exact hc _
  exact hk _

/-- The USER mark changes no sequencer. -/
theorem State.capUser_seqs (s : State) (q : Fin 4) (v a m o start : Nat) : (s.capUser q v a m o start).seqs = s.seqs := by
  unfold State.capUser
  refine forFin_inv (fun t : State => t.seqs = s.seqs) 8 _ s ?_ rfl
  intro i t ht
  split
  · rw [State.putVecMark_seqs]; exact ht
  · exact ht

/-- The raise of a TAPR changes no sequencer. -/
theorem State.tapr_seqs (s : State) (q : Fin 4) (ch start : Nat) : (s.tapr q ch start).seqs = s.seqs := by
  unfold State.tapr
  dsimp only
  split <;> rfl

/-- What a vector does beside its flow: after records that change no sequencer, the act of TAPR, MARK or HALT. -/
theorem State.issueActs_cases (s : State) (q : Fin 4) (x : Seq) (l : VLine) (unw : Option Nat) (sl : Bool) (per : Nat) :
    ∃ w : State, w.seqs = s.seqs ∧ s.issueActs q x l unw sl per =
      (if l.op = 0x0B then w.tapr q (bits l.operand 29 24) x.nextStart
        else if l.op = 0x0D then w.capUser q x.vecs x.addr l.mark l.operand x.nextStart
        else if l.op = 0x3F then w.endBurst q 1 0 (x.nextStart + per) (x.addr + 1) none else w) := by
  have h5 : ∀ t : State, t.seqs = s.seqs →
      (if (x.sealedVec.isSome || sl) = true then
          (t.pinsOf q).foldl (fun u p => u.modPin p Pin.sealFails) (t.modFmap q (fun m => { m with sealed := true }))
        else t).seqs = s.seqs := by
    intro t ht
    split
    · exact foldl_inv (fun u : State => u.seqs = s.seqs) (fun u p => u.modPin p Pin.sealFails) (fun u p hu => hu) _ _ ht
    · exact ht
  unfold State.issueActs
  refine ⟨_, h5 _ ?_, rfl⟩
  cases unw with
  | none => rfl
  | some la => dsimp only; split <;> rfl

/-- The flow of a sequencer after the issue of a vector is what its opcode makes of it, and CLRF clears the flag. -/
theorem Seq.issued_flow (y x : Seq) (l : VLine) (unw : Option Nat) (sl : Bool) (per db : Nat) (a : PlaceAcc) :
    (y.issued x l unw sl per db a).flow = (y.advance l x.nextStart (x.nextStart + per) per db).flow ∧
    (l.op = 0x0E → (y.issued x l unw sl per db a).flag = false) := by
  unfold Seq.issued
  dsimp only
  split
  · exact ⟨by simp only [Seq.flow, Seq.clearFlag], fun _ => by simp only [Seq.clearFlag]⟩
  · rename_i hne
    exact ⟨by simp only [Seq.flow], fun he => absurd he hne⟩

/-- Two choices under one condition have one flow where their branches do. -/
theorem Seq.flow_ite {c : Prop} [Decidable c] {x y u v : Seq} (h1 : x.flow = u.flow) (h2 : y.flow = v.flow) :
    (if c then x else y).flow = (if c then u else v).flow := by
  split
  · exact h1
  · exact h2

/-- The flow that an opcode makes does not depend on the overflow report. -/
theorem Seq.advance_over (x : Seq) (b : Bool) (l : VLine) (start fin_ per db : Nat) :
    (Seq.advance { x with flogOver := b } l start fin_ per db).flow = (x.advance l start fin_ per db).flow := by
  unfold Seq.advance
  dsimp only
  repeat' (refine Seq.flow_ite ?_ ?_)
  all_goals (first | rfl | (split <;> first | rfl | exact Seq.flow_ite rfl rfl))

/-- A sequencer beside which the Fail Log may have overflowed. -/
def Seq.overOf (y x : Seq) : Prop := ∃ b, y = { x with flogOver := b }

/-- Only sequencer `q` may differ, and by its overflow report alone; configuration and ring stay. -/
def State.overOf (t s : State) (q : Fin 4) : Prop := (t.seqs[q]).overOf s.seqs[q] ∧ t.cfg = s.cfg ∧ t.ring = s.ring

/-- A state differs from itself by nothing. -/
theorem State.overOf_refl (s : State) (q : Fin 4) : s.overOf s q := ⟨⟨s.seqs[q].flogOver, rfl⟩, rfl, rfl⟩

/-- A change of no sequencer, configuration or ring keeps the difference. -/
theorem State.overOf_of_eq {t u s : State} {q : Fin 4} (h1 : u.seqs = t.seqs) (h2 : u.cfg = t.cfg) (h3 : u.ring = t.ring) (h : t.overOf s q) :
    u.overOf s q := by
  unfold State.overOf
  rw [h1, h2, h3]
  exact h

/-- The report of an overflow. -/
theorem State.overOf_flogOverflow (t s : State) (q : Fin 4) (h : t.overOf s q) : (t.flogOverflow q).overOf s q := by
  unfold State.flogOverflow
  split
  · exact h
  · obtain ⟨⟨b, hb⟩, h2, h3⟩ := h
    have hm : (t.modSeq q (fun x => { x with flogOver := true })).seqs[q] = { t.seqs[q] with flogOver := true } := vmod_self t.seqs q _
    refine ⟨⟨true, ?_⟩, h2, h3⟩
    refine hm.trans ?_
    rw [hb]

/-- A record of the Fail Log. -/
theorem State.overOf_logRec (t s : State) (q : Fin 4) (r : FlogRec) (h : t.overOf s q) : (t.logRec q r).overOf s q := by
  unfold State.logRec
  dsimp only
  split
  · exact State.overOf_flogOverflow _ s q h
  · split
    · exact h
    · split
      · exact h
      · exact State.overOf_flogOverflow _ s q h

/-- The marks of vector 0 change no sequencer, configuration or ring. -/
theorem State.capBurstStart_frame (s : State) (q : Fin 4) :
    (s.capBurstStart q).seqs = s.seqs ∧ (s.capBurstStart q).cfg = s.cfg ∧ (s.capBurstStart q).ring = s.ring := by
  unfold State.capBurstStart
  refine foldl_inv (fun t : State => t.seqs = s.seqs ∧ t.cfg = s.cfg ∧ t.ring = s.ring) _ ?_ _ _ ⟨rfl, rfl, rfl⟩
  intro t i ht
  have hc : ∀ (u : State) r ts, (u.capPut i r ts).seqs = u.seqs ∧ (u.capPut i r ts).cfg = u.cfg ∧ (u.capPut i r ts).ring = u.ring := by
    intro u r ts
    unfold State.capPut
    dsimp only
    split <;> exact ⟨rfl, rfl, rfl⟩
  have hv : ∀ (u : State) ts a b c d e, (u.putVecMark i ts a b c d e).seqs = u.seqs ∧ (u.putVecMark i ts a b c d e).cfg = u.cfg ∧
      (u.putVecMark i ts a b c d e).ring = u.ring := by
    intro u ts a b c d e
    have hk : ∀ k : Option Bool, (match k with
        | none => u
        | some kept => u.capPut i (u.markItem i ts a b c d e kept) ts).seqs = u.seqs ∧ (match k with
        | none => u
        | some kept => u.capPut i (u.markItem i ts a b c d e kept) ts).cfg = u.cfg ∧ (match k with
        | none => u
        | some kept => u.capPut i (u.markItem i ts a b c d e kept) ts).ring = u.ring := by
      intro k
      cases k with
      | none => exact ⟨rfl, rfl, rfl⟩
      | some n => exact hc _ _ _
    exact hk _
  obtain ⟨h1, h2, h3⟩ := hv _ _ _ _ _ _ _
  exact ⟨h1.trans ht.1, h2.trans ht.2.1, h3.trans ht.2.2⟩

/-- What vector 0 writes changes its sequencer by the overflow report alone. -/
theorem State.overOf_vectorZero (s : State) (q : Fin 4) (sl : Bool) : (s.vectorZero q sl).overOf s q := by
  unfold State.vectorZero
  obtain ⟨h1, h2, h3⟩ := State.capBurstStart_frame (s.logStart q sl) q
  refine State.overOf_of_eq h1 h2 h3 ?_
  unfold State.logStart
  split
  · exact State.overOf_refl s q
  · exact State.overOf_logRec s s q _ (State.overOf_refl s q)

/-- What the lines of a vector add to the store changes no sequencer, configuration or ring. -/
theorem State.movedOn_frame (s : State) (q : Fin 4) (T : Nat) :
    (s.movedOn q T).seqs = s.seqs ∧ (s.movedOn q T).cfg = s.cfg ∧ (s.movedOn q T).ring = s.ring := by
  have he : ∀ (u : State) part e, (u.storeErr part e).seqs = u.seqs ∧ (u.storeErr part e).cfg = u.cfg ∧ (u.storeErr part e).ring = u.ring := by
    intro u part e
    unfold State.storeErr
    dsimp only
    split <;> exact ⟨rfl, rfl, rfl⟩
  unfold State.movedOn
  dsimp only
  refine foldl_inv (fun t : State => t.seqs = s.seqs ∧ t.cfg = s.cfg ∧ t.ring = s.ring) _ ?_ _ _ ⟨rfl, rfl, rfl⟩
  intro t la ht
  have hm : (t.meetErrs la 64).seqs = s.seqs ∧ (t.meetErrs la 64).cfg = s.cfg ∧ (t.meetErrs la 64).ring = s.ring := by
    unfold State.meetErrs State.storeErrs
    refine foldl_inv (fun u : State => u.seqs = s.seqs ∧ u.cfg = s.cfg ∧ u.ring = s.ring) (fun u e => u.storeErr 3 e) ?_ _ _ ht
    intro u e hu
    obtain ⟨h1, h2, h3⟩ := he u 3 e
    exact ⟨h1.trans hu.1, h2.trans hu.2.1, h3.trans hu.2.2⟩
  have hb : ∀ b : Bool, (if b = true then (t.meetErrs la 64).modStore (fun y => y.touch (pageOf la)) else t).seqs = s.seqs ∧
      (if b = true then (t.meetErrs la 64).modStore (fun y => y.touch (pageOf la)) else t).cfg = s.cfg ∧
      (if b = true then (t.meetErrs la 64).modStore (fun y => y.touch (pageOf la)) else t).ring = s.ring := by
    intro b
    cases b
    · exact ht
    · exact hm
  exact hb _

/-- The issue of a vector: the flow is what its opcode makes of it, CLRF clears the flag, and then TAPR, MARK and HALT act. -/
theorem State.issueVec_cases (s : State) (q : Fin 4) (l : VLine) (unw : Option Nat) (sl : Bool) :
    ∃ w : State, (w.seqs[q]).flow =
        ((s.seqs[q]).advance l (s.seqs[q]).nextStart ((s.seqs[q]).nextStart + s.period q) (s.period q) s.ring.db).flow ∧
      (l.op = 0x0E → (w.seqs[q]).flag = false) ∧
      s.issueVec q l unw sl =
        (if l.op = 0x0B then w.tapr q (bits l.operand 29 24) (s.seqs[q]).nextStart
          else if l.op = 0x0D then w.capUser q (s.seqs[q]).vecs (s.seqs[q]).addr l.mark l.operand (s.seqs[q]).nextStart
          else if l.op = 0x3F then w.endBurst q 1 0 ((s.seqs[q]).nextStart + s.period q) ((s.seqs[q]).addr + 1) none else w) := by
  have hv : (if (s.seqs[q]).vecs = 0 then s.vectorZero q sl else s).overOf s q := by
    split
    · exact State.overOf_vectorZero s q sl
    · exact State.overOf_refl s q
  unfold State.issueVec State.period
  dsimp only
  generalize (if (s.seqs[q]).vecs = 0 then s.vectorZero q sl else s) = s0 at hv ⊢
  obtain ⟨⟨b, hb⟩, _, hr⟩ := hv
  obtain ⟨hf1, _, hf3⟩ := State.placeVector_frame s0 q { tv := (s.seqs[q]).nextStart, tmpl := (s.seqs[q]).template l sl } l
  generalize s0.placeVector q _ l = r at hf1 hf3 ⊢
  have hc := State.reportClash_flow (r.1.modSeq q (fun y => y.issued s.seqs[q] l unw sl (s.cfg.seqs[q]).pf[(s.seqs[q]).pf] r.1.ring.db r.2)) q r.2.moved
  have hm : (r.1.modSeq q (fun y => y.issued s.seqs[q] l unw sl (s.cfg.seqs[q]).pf[(s.seqs[q]).pf] r.1.ring.db r.2)).seqs[q] =
      (r.1.seqs[q]).issued s.seqs[q] l unw sl (s.cfg.seqs[q]).pf[(s.seqs[q]).pf] r.1.ring.db r.2 := vmod_self r.1.seqs q _
  have hq : r.1.seqs[q] = { s.seqs[q] with flogOver := b } := (congrArg (fun v : Vector Seq 4 => v[q]) hf1).trans hb
  have hd : r.1.ring.db = s.ring.db := by rw [hf3, hr]
  rw [hm, hq, hd] at hc
  have hi := Seq.issued_flow { s.seqs[q] with flogOver := b } s.seqs[q] l unw sl (s.cfg.seqs[q]).pf[(s.seqs[q]).pf] s.ring.db r.2
  rw [Seq.advance_over] at hi
  rw [hd]
  generalize (r.1.modSeq q (fun y => y.issued s.seqs[q] l unw sl (s.cfg.seqs[q]).pf[(s.seqs[q]).pf] s.ring.db r.2)).reportClash q r.2.moved = z at hc ⊢
  obtain ⟨w, hw, he⟩ := State.issueActs_cases z q s.seqs[q] l unw sl (s.cfg.seqs[q]).pf[(s.seqs[q]).pf]
  refine ⟨w, ?_, ?_, he⟩
  · rw [hw]
    exact hc.1.trans hi.1
  · intro ho
    rw [hw]
    exact hc.2.trans (hi.2 ho)

/-- The same with the lines of the vector counted as fetched first. -/
theorem State.issueVec_moved (s : State) (q : Fin 4) (T : Nat) (l : VLine) (unw : Option Nat) (sl : Bool) :
    ∃ w : State, (w.seqs[q]).flow =
        ((s.seqs[q]).advance l (s.seqs[q]).nextStart ((s.seqs[q]).nextStart + s.period q) (s.period q) s.ring.db).flow ∧
      (l.op = 0x0E → (w.seqs[q]).flag = false) ∧
      (s.movedOn q T).issueVec q l unw sl =
        (if l.op = 0x0B then w.tapr q (bits l.operand 29 24) (s.seqs[q]).nextStart
          else if l.op = 0x0D then w.capUser q (s.seqs[q]).vecs (s.seqs[q]).addr l.mark l.operand (s.seqs[q]).nextStart
          else if l.op = 0x3F then w.endBurst q 1 0 ((s.seqs[q]).nextStart + s.period q) ((s.seqs[q]).addr + 1) none else w) := by
  obtain ⟨h1, h2, h3⟩ := s.movedOn_frame q T
  have h := State.issueVec_cases (s.movedOn q T) q l unw sl
  have e : (s.movedOn q T).seqs[q] = s.seqs[q] := congrArg (fun v : Vector Seq 4 => v[q]) h1
  have hp : (s.movedOn q T).period q = s.period q := congrArg₂ (fun (c : Cfg) (x : Seq) => (c.seqs[q]).pf[x.pf]) h2 e
  rw [hp, e, h3] at h
  exact h

/-- A command that issues the vector due issues it. -/
theorem State.issue_due (s : State) (q : Fin 4) (op : Nat) (l : VLine) (u : State) (h : Issues s q op l u) :
    ∃ unw sl, s.issue q op = (u.movedOn q s.seqs[q].due).issueVec q l unw sl := by
  obtain ⟨h1, h2, ⟨unw, sl, h3⟩, hsync, h4, h5⟩ := h
  refine ⟨unw, sl, ?_⟩
  have hx : ∀ x : Seq, x.st = .running → x.due ≤ s.metro → (x.st != .running || decide (s.metro < x.due)) = false := by
    intro x e1 e2
    have hm : ¬ s.metro < x.due := Nat.not_lt.2 e2
    rw [e1, decide_eq_false hm]
    rfl
  have hn := hx _ h1 h2
  unfold State.issue
  simp only [hn, Bool.false_eq_true, if_false]
  rw [h3]
  dsimp only
  rw [← h5, hsync, if_pos h4]
  rfl

/-- The issue of a vector that neither raises, marks nor halts. -/
theorem State.issue_flow (s : State) (q : Fin 4) (op : Nat) (l : VLine) (u : State) (h : Issues s q op l u) (hb : op ≠ 0x0B) (hd : op ≠ 0x0D) (hh : op ≠ 0x3F) :
    ((s.issue q op).seqs[q]).flow =
        ((u.seqs[q]).advance l (u.seqs[q]).nextStart ((u.seqs[q]).nextStart + u.period q) (u.period q) u.ring.db).flow ∧
      (op = 0x0E → ((s.issue q op).seqs[q]).flag = false) := by
  obtain ⟨unw, sl, he⟩ := s.issue_due q op l u h
  obtain ⟨w, hf, hc, hi⟩ := u.issueVec_moved q s.seqs[q].due l unw sl
  have ho : l.op = op := h.2.2.2.2.1
  have hw : s.issue q op = w := by
    rw [he, hi, ho, if_neg hb, if_neg hd, if_neg hh]
  rw [hw]
  exact ⟨hf, fun e => hc (ho.trans e)⟩

/-- The issue of a vector that raises, marks or halts: its flow first, then its act. -/
theorem State.issue_act (s : State) (q : Fin 4) (op : Nat) (l : VLine) (u : State) (h : Issues s q op l u) :
    ∃ w : State, (w.seqs[q]).flow =
        ((u.seqs[q]).advance l (u.seqs[q]).nextStart ((u.seqs[q]).nextStart + u.period q) (u.period q) u.ring.db).flow ∧
      (op = 0x0B → s.issue q op = w.tapr q (bits l.operand 29 24) (u.seqs[q]).nextStart) ∧
      (op = 0x0D → s.issue q op = w.capUser q (u.seqs[q]).vecs (u.seqs[q]).addr l.mark l.operand (u.seqs[q]).nextStart) ∧
      (op = 0x3F → s.issue q op = w.endBurst q 1 0 ((u.seqs[q]).nextStart + u.period q) ((u.seqs[q]).addr + 1) none) := by
  obtain ⟨unw, sl, he⟩ := s.issue_due q op l u h
  obtain ⟨w, hf, _, hi⟩ := u.issueVec_moved q s.seqs[q].due l unw sl
  have ho : l.op = op := h.2.2.2.2.1
  refine ⟨w, hf, ?_, ?_, ?_⟩
  · intro e; rw [he, hi, if_pos (ho.trans e)]
  · intro e
    have h1 : ¬ l.op = 0x0B := by omega
    rw [he, hi, if_neg h1, if_pos (ho.trans e)]
  · intro e
    have h1 : ¬ l.op = 0x0B := by omega
    have h2 : ¬ l.op = 0x0D := by omega
    rw [he, hi, if_neg h1, if_neg h2, if_pos (ho.trans e)]

end Sys2Proof.Machine
end

