-- ==== Sys2Proof/Laws/Memory.lean ====
section
/-! SUPPORT. The laws of the sparse memories: a read after a write, what a write leaves alone, and that every memory
operation keeps the canonical form. -/

namespace Sys2Proof.Machine

open Sys2Proof

variable {α : Type} [DecidableEq α]

/-- Every address of a canonical memory's tail lies above its head. -/
theorem cellWf_head (z : α) : ∀ (m : List (Nat × α)) (a : Nat) (v : α), cellWf z ((a, v) :: m) = true →
    v ≠ z ∧ cellWf z m = true ∧ ∀ e ∈ m, a < e.1
  | [], _, _ => fun h => ⟨by simpa [cellWf] using h, rfl, by simp⟩
  | (b, w) :: m, a, v => fun h => by
    simp only [cellWf, Bool.and_eq_true, decide_eq_true_eq] at h
    obtain ⟨⟨hv, hab⟩, hm⟩ := h
    obtain ⟨_, _, ht⟩ := cellWf_head z m b w hm
    refine ⟨by simpa using hv, hm, ?_⟩
    intro e he
    rcases List.mem_cons.1 he with rfl | he
    · exact hab
    · exact Nat.lt_trans hab (ht e he)

/-- A canonical memory from a head entry and a canonical tail above it. -/
theorem cellWf_cons (z : α) (m : List (Nat × α)) (a : Nat) (v : α) (hv : v ≠ z) (hm : cellWf z m = true)
    (ht : ∀ e ∈ m, a < e.1) : cellWf z ((a, v) :: m) = true := by
  cases m with
  | nil => simp [cellWf, hv]
  | cons e m =>
    have := ht e (List.mem_cons_self ..)
    simp [cellWf, hv, hm, this]

omit [DecidableEq α] in
/-- An address below every listed one reads as the unlisted value. -/
theorem cellGet_below (z : α) : ∀ (m : List (Nat × α)) (x : Nat), (∀ e ∈ m, x < e.1) → cellGet z m x = z
  | [], _ => fun _ => rfl
  | (a, v) :: m, x => fun h => by
    have h1 := h (a, v) (List.mem_cons_self ..)
    have h2 : a ≠ x := by simp at h1; omega
    simp only [cellGet, h2, if_false]
    exact cellGet_below z m x (fun e he => h e (List.mem_cons_of_mem _ he))

/-- The addresses of a memory after a write were there before or are the one written. -/
theorem cellSet_mem (z : α) : ∀ (m : List (Nat × α)) (x : Nat) (v : α) (e : Nat × α), e ∈ cellSet z m x v → e.1 = x ∨ ∃ u ∈ m, u.1 = e.1
  | [], x, v, e => fun h => by
    simp only [cellSet] at h
    split at h
    · simp at h
    · simp at h; exact .inl (by rw [h])
  | (a, u) :: m, x, v, e => fun h => by
    simp only [cellSet] at h
    split at h
    · split at h
      · exact .inr ⟨e, h, rfl⟩
      · rcases List.mem_cons.1 h with rfl | h
        · exact .inl rfl
        · exact .inr ⟨e, h, rfl⟩
    · split at h
      · split at h
        · exact .inr ⟨e, List.mem_cons_of_mem _ h, rfl⟩
        · rcases List.mem_cons.1 h with rfl | h
          · exact .inl rfl
          · exact .inr ⟨e, List.mem_cons_of_mem _ h, rfl⟩
      · rcases List.mem_cons.1 h with rfl | h
        · exact .inr ⟨_, List.mem_cons_self .., rfl⟩
        · rcases cellSet_mem z m x v e h with h1 | ⟨w, hw, h2⟩
          · exact .inl h1
          · exact .inr ⟨w, List.mem_cons_of_mem _ hw, h2⟩

/-- A write keeps the canonical form. -/
theorem cellSet_wf (z : α) : ∀ (m : List (Nat × α)) (x : Nat) (v : α), cellWf z m = true → cellWf z (cellSet z m x v) = true
  | [], x, v => fun _ => by
    simp only [cellSet]
    split
    · rfl
    · rename_i h; simp [cellWf, h]
  | (a, u) :: m, x, v => fun h => by
    obtain ⟨hu, hm, ht⟩ := cellWf_head z m a u h
    simp only [cellSet]
    split
    · split
      · exact h
      · rename_i hx hv
        refine cellWf_cons z _ x v hv h ?_
        intro e he
        rcases List.mem_cons.1 he with rfl | he
        · exact hx
        · exact Nat.lt_trans hx (ht e he)
    · split
      · rename_i hx
        split
        · exact hm
        · rename_i hv
          subst hx
          exact cellWf_cons z m x v hv hm ht
      · rename_i h1 h2
        refine cellWf_cons z _ a u hu (cellSet_wf z m x v hm) ?_
        intro e he
        rcases cellSet_mem z m x v e he with h3 | ⟨w, hw, h3⟩
        · omega
        · have := ht w hw; omega

/-- A read of the address just written gives the value written. -/
theorem cellGet_cellSet_self (z : α) : ∀ (m : List (Nat × α)) (x : Nat) (v : α), cellWf z m = true → cellGet z (cellSet z m x v) x = v
  | [], x, v => fun _ => by
    simp only [cellSet]
    split
    · rename_i h; simp [cellGet, h]
    · simp [cellGet]
  | (a, u) :: m, x, v => fun h => by
    obtain ⟨hu, hm, ht⟩ := cellWf_head z m a u h
    simp only [cellSet]
    split
    · rename_i hx
      split
      · rename_i hv
        have : ∀ e ∈ (a, u) :: m, x < e.1 := by
          intro e he
          rcases List.mem_cons.1 he with rfl | he
          · exact hx
          · exact Nat.lt_trans hx (ht e he)
        rw [cellGet_below z _ x this, hv]
      · simp [cellGet]
    · split
      · rename_i hx
        split
        · rename_i hv
          subst hx
          rw [cellGet_below z m x ht, hv]
        · simp [cellGet]
      · rename_i h1 h2
        have : a ≠ x := fun e => h2 e.symm
        simp only [cellGet, this, if_false]
        exact cellGet_cellSet_self z m x v hm

/-- A write leaves every other address alone. -/
theorem cellGet_cellSet_other (z : α) : ∀ (m : List (Nat × α)) (x y : Nat) (v : α), y ≠ x → cellGet z (cellSet z m x v) y = cellGet z m y
  | [], x, y, v => fun h => by
    simp only [cellSet]
    split
    · rfl
    · simp [cellGet, Ne.symm h]
  | (a, u) :: m, x, y, v => fun h => by
    simp only [cellSet]
    split
    · split
      · rfl
      · simp only [cellGet, Ne.symm h, if_false]
    · split
      · rename_i h1 h2
        split
        · subst h2; simp only [cellGet, Ne.symm h, if_false]
        · subst h2; simp only [cellGet, Ne.symm h, if_false]
      · simp only [cellGet, cellGet_cellSet_other z m x y v h]

/-- Dropping entries keeps the canonical form. -/
theorem cellWf_filter (z : α) (f : Nat × α → Bool) : ∀ m : List (Nat × α), cellWf z m = true → cellWf z (m.filter f) = true
  | [] => fun _ => rfl
  | (a, v) :: m => fun h => by
    obtain ⟨hv, hm, ht⟩ := cellWf_head z m a v h
    have ih := cellWf_filter z f m hm
    by_cases hf : f (a, v) = true
    · rw [List.filter_cons_of_pos hf]
      exact cellWf_cons z _ a v hv ih (fun e he => ht e (List.mem_of_mem_filter he))
    · rw [List.filter_cons_of_neg hf]; exact ih

omit [DecidableEq α] in
/-- A read of a memory from which entries were dropped by their address. -/
theorem cellGet_filter (z : α) (f : Nat → Bool) : ∀ (m : List (Nat × α)) (x : Nat),
    cellGet z (m.filter (fun e => f e.1)) x = if f x then cellGet z m x else z
  | [], x => by simp [cellGet]
  | (a, v) :: m, x => by
    by_cases hf : f a = true
    · rw [List.filter_cons_of_pos (p := fun e : Nat × α => f e.1) hf]
      by_cases hx : a = x
      · subst hx; simp [cellGet, hf]
      · simp only [cellGet, hx, if_false, cellGet_filter z f m x]
    · rw [List.filter_cons_of_neg (p := fun e : Nat × α => f e.1) hf, cellGet_filter z f m x]
      by_cases hx : a = x
      · subst hx; simp [hf]
      · simp only [cellGet, hx, if_false]

/-- Memories are equal where they are canonical and read alike. -/
theorem cell_ext (z : α) : ∀ m n : List (Nat × α), cellWf z m = true → cellWf z n = true → (∀ x, cellGet z m x = cellGet z n x) → m = n
  | [], [] => fun _ _ _ => rfl
  | [], (b, w) :: n => fun _ hn h => by
    have := h b; simp [cellGet] at this
    exact absurd this.symm (cellWf_head z n b w hn).1
  | (a, v) :: m, [] => fun hm _ h => by
    have := h a; simp [cellGet] at this
    exact absurd this (cellWf_head z m a v hm).1
  | (a, v) :: m, (b, w) :: n => fun hm hn h => by
    obtain ⟨hv, hm', hma⟩ := cellWf_head z m a v hm
    obtain ⟨hw, hn', hnb⟩ := cellWf_head z n b w hn
    have hab : a = b := by
      rcases Nat.lt_trichotomy a b with hlt | heq | hgt
      · have h1 := h a
        rw [cellGet_below z ((b, w) :: n) a (by
          intro e he
          rcases List.mem_cons.1 he with rfl | he
          · exact hlt
          · exact Nat.lt_trans hlt (hnb e he))] at h1
        simp [cellGet] at h1
        exact absurd h1 hv
      · exact heq
      · have h1 := h b
        rw [cellGet_below z ((a, v) :: m) b (by
          intro e he
          rcases List.mem_cons.1 he with rfl | he
          · exact hgt
          · exact Nat.lt_trans hgt (hma e he))] at h1
        simp [cellGet] at h1
        exact absurd h1.symm hw
    subst hab
    have hvw : v = w := by have := h a; simpa [cellGet] using this
    subst hvw
    congr 1
    refine cell_ext z m n hm' hn' ?_
    intro x
    by_cases hx : a = x
    · subst hx; rw [cellGet_below z m a hma, cellGet_below z n a hnb]
    · have := h x; simpa [cellGet, hx] using this

end Sys2Proof.Machine

namespace Sys2Proof

open Sys2Proof.Machine

/-- Bytes read are as many as were asked for. -/
@[simp] theorem Mem.read_length (m : Mem) : ∀ (n a : Nat), (m.read a n).length = n
  | 0, _ => rfl
  | n + 1, a => by simp [Mem.read, Mem.read_length m n (a + 1)]

/-- A byte write keeps the canonical form. -/
theorem Mem.setByte_wf (m : Mem) (a : Nat) (b : Byte) (h : m.wf = true) : (m.setByte a b).wf = true := cellSet_wf 0 m a b h

/-- Writes of successive bytes keep the canonical form. -/
theorem Mem.write_wf : ∀ (bs : List Byte) (m : Mem) (a : Nat), m.wf = true → (m.write a bs).wf = true
  | [], _, _ => fun h => h
  | b :: bs, m, a => fun h => Mem.write_wf bs (m.setByte a b) (a + 1) (m.setByte_wf a b h)

/-- Clearing a range keeps the canonical form. -/
theorem Mem.clear_wf (m : Mem) (a n : Nat) (h : m.wf = true) : (m.clear a n).wf = true := cellWf_filter 0 _ m h

/-- A byte of a memory of which a range was cleared. -/
theorem Mem.byte_clear (m : Mem) (a n x : Nat) : (m.clear a n).byte x = if x < a ∨ a + n ≤ x then m.byte x else 0 := by
  have h := cellGet_filter (0 : Byte) (fun y => decide (y < a) || decide (a + n ≤ y)) m x
  simp only [Bool.or_eq_true, decide_eq_true_eq] at h
  exact h

/-- A codeword write keeps the canonical form. -/
theorem CMem.setCode_wf (m : CMem) (a : Nat) (c : Codeword) (h : m.wf = true) : (m.setCode a c).wf = true := cellSet_wf 0 m a c h

/-- A byte just written reads as written. -/
theorem Mem.byte_setByte_self (m : Mem) (a : Nat) (b : Byte) (h : m.wf = true) : (m.setByte a b).byte a = b :=
  cellGet_cellSet_self 0 m a b h

/-- A byte write leaves the other bytes alone. -/
theorem Mem.byte_setByte_other (m : Mem) (a x : Nat) (b : Byte) (h : x ≠ a) : (m.setByte a b).byte x = m.byte x :=
  cellGet_cellSet_other 0 m a x b h

/-- A codeword just stored is there. -/
theorem CMem.code_setCode_self (m : CMem) (a : Nat) (c : Codeword) (h : m.wf = true) : (m.setCode a c).code a = c :=
  cellGet_cellSet_self 0 m a c h

/-- Storing a codeword leaves the others alone. -/
theorem CMem.code_setCode_other (m : CMem) (a x : Nat) (c : Codeword) (h : x ≠ a) : (m.setCode a c).code x = m.code x :=
  cellGet_cellSet_other 0 m a x c h

/-- Every byte of a memory after a write of successive bytes. -/
theorem Mem.byte_write : ∀ (bs : List Byte) (m : Mem) (a x : Nat), m.wf = true →
    (m.write a bs).byte x = if a ≤ x ∧ x < a + bs.length then bs.getD (x - a) 0 else m.byte x
  | [], m, a, x => fun _ => by
    simp only [Mem.write, List.length_nil]
    rw [if_neg (by omega)]
  | b :: bs, m, a, x => fun h => by
    rw [Mem.write, Mem.byte_write bs (m.setByte a b) (a + 1) x (m.setByte_wf a b h)]
    by_cases hx : x = a
    · subst hx
      have h1 : ¬ (x + 1 ≤ x ∧ x < x + 1 + bs.length) := by omega
      have h2 : x ≤ x ∧ x < x + (b :: bs).length := by simp
      rw [if_neg h1, if_pos h2, Mem.byte_setByte_self m x b h]; simp
    · rw [Mem.byte_setByte_other m a x b hx]
      by_cases h1 : a + 1 ≤ x ∧ x < a + 1 + bs.length
      · have h2 : a ≤ x ∧ x < a + (b :: bs).length := by simp; omega
        rw [if_pos h1, if_pos h2]
        obtain ⟨k, hk⟩ : ∃ k, x - a = k + 1 := ⟨x - a - 1, by omega⟩
        have h3 : x - (a + 1) = k := by omega
        rw [hk, h3]; simp
      · have h2 : ¬ (a ≤ x ∧ x < a + (b :: bs).length) := by simp; omega
        rw [if_neg h1, if_neg h2]

/-- A byte of a range that was read. -/
theorem Mem.read_getElem? (m : Mem) : ∀ (n a i : Nat), i < n → (m.read a n)[i]? = some (m.byte (a + i))
  | 0, _, _ => fun h => absurd h (Nat.not_lt_zero _)
  | n + 1, a, 0 => fun _ => by simp [Mem.read]
  | n + 1, a, i + 1 => fun h => by
    have := Mem.read_getElem? m n (a + 1) i (by omega)
    simp only [Mem.read, List.getElem?_cons_succ, this]
    congr 2; omega

end Sys2Proof

namespace Sys2Proof.Machine

open Sys2Proof

/-- The canonical form of every memory holds after reset. -/
theorem reset_memWf : State.reset.memWf := by
  refine ⟨rfl, ?_, ?_, rfl, rfl, ?_, rfl⟩ <;> decide

end Sys2Proof.Machine
end

