-- ==== Sys2Proof/Laws/Mailbox.lean ====
section
/-! SUPPORT. Packets as bytes: reading a mailbox window after a write of it, and the fields of an encoded header. -/

namespace Sys2Proof.Machine

open Sys2Proof

/-- A number takes as many bytes as asked for. -/
@[simp] theorem le_length : ∀ (n v : Nat), (le n v).length = n
  | 0, _ => rfl
  | n + 1, v => by simp [le, le_length n]

/-- The number that its own low bytes spell. -/
theorem unle_le : ∀ (n v : Nat), unle (le n v) = v % 2 ^ (8 * n)
  | 0, v => by simp [le, unle, Nat.mod_one]
  | n + 1, v => by
    have h : (2 : Nat) ^ (8 * (n + 1)) = 256 * 2 ^ (8 * n) := by rw [Nat.mul_add, pow_add]; ring
    simp only [le, unle, unle_le n, BitVec.toNat_ofNat, h, Nat.mod_mul]

/-- A header word is read back from its place. -/
theorem rdw_words (rest : List Byte) : ∀ (ws : List Nat) (i : Nat), i < ws.length → rdw (words ws ++ rest) i = ws.getD i 0 % 2 ^ 32
  | [], i => fun h => absurd h (Nat.not_lt_zero _)
  | w :: ws, 0 => fun _ => by
    simp only [rdw, rd, words, List.flatMap_cons, Nat.mul_zero, List.drop_zero, List.append_assoc]
    rw [List.take_append_of_le_length (by simp), List.take_of_length_le (by simp), unle_le]
    simp
  | w :: ws, i + 1 => fun h => by
    have ih := rdw_words rest ws i (by simpa using h)
    simp only [rdw, rd, words] at ih ⊢
    have hd : 4 * (i + 1) = 4 + 4 * i := by omega
    rw [List.flatMap_cons, List.append_assoc, hd, ← List.drop_drop,
      List.drop_append_of_le_length (l₁ := le 4 w) (by simp), List.drop_of_length_le (l := le 4 w) (by simp), List.nil_append, ih]
    simp

/-- A byte of the window after a write of bytes that wrap at its end. -/
theorem Ctx.writeWindow_byte (x : Ctx) (off : Nat) (bs : List Byte) (j : Nat) (hw : x.window.wf = true) (hl : bs.length ≤ 2 ^ 20)
    (hj : j < bs.length) : (x.writeWindow off bs).window.byte ((off + j) % 2 ^ 20) = bs.getD j 0 := by
  have ho : off % 2 ^ 20 < 2 ^ 20 := Nat.mod_lt _ (by norm_num)
  have he : (off + j) % 2 ^ 20 = if off % 2 ^ 20 + j < 2 ^ 20 then off % 2 ^ 20 + j else off % 2 ^ 20 + j - 2 ^ 20 := by
    split <;> omega
  rw [he]
  unfold Ctx.writeWindow
  generalize off % 2 ^ 20 = o at *
  dsimp only
  rw [Mem.byte_write _ _ _ _ (Mem.write_wf _ _ _ hw), Mem.byte_write _ _ _ _ hw]
  split
  · rename_i h1
    have h2 : ¬ (0 ≤ o + j ∧ o + j < 0 + ((bs.drop (2 ^ 20 - o)).take (2 ^ 20)).length) := by
      simp only [List.length_take, List.length_drop]; omega
    have h3 : o ≤ o + j ∧ o + j < o + (bs.take (2 ^ 20 - o)).length := by
      simp only [List.length_take]; omega
    rw [if_neg h2, if_pos h3]
    have h4 : o + j - o = j := by omega
    rw [h4, List.getD_eq_getElem?_getD, List.getElem?_take_of_lt (by omega), List.getD_eq_getElem?_getD]
  · rename_i h1
    have h2 : 0 ≤ o + j - 2 ^ 20 ∧ o + j - 2 ^ 20 < 0 + ((bs.drop (2 ^ 20 - o)).take (2 ^ 20)).length := by
      simp only [List.length_take, List.length_drop]; omega
    rw [if_pos h2, List.getD_eq_getElem?_getD, List.getElem?_take_of_lt (by omega), List.getElem?_drop, List.getD_eq_getElem?_getD]
    have h5 : 2 ^ 20 - o + (o + j - 2 ^ 20 - 0) = j := by omega
    rw [h5]

/-- Bytes read from a window are those of successive places, modulo its size. -/
theorem Ctx.readWindow_getElem? (x : Ctx) (off n i : Nat) (hn : n ≤ 2 ^ 20) (hi : i < n) :
    (x.readWindow off n)[i]? = some (x.window.byte ((off + i) % 2 ^ 20)) := by
  have ho : off % 2 ^ 20 < 2 ^ 20 := Nat.mod_lt _ (by norm_num)
  have he : (off + i) % 2 ^ 20 = if off % 2 ^ 20 + i < 2 ^ 20 then off % 2 ^ 20 + i else off % 2 ^ 20 + i - 2 ^ 20 := by
    split <;> omega
  rw [he]
  unfold Ctx.readWindow
  generalize off % 2 ^ 20 = o at *
  dsimp only
  by_cases h : i < min n (2 ^ 20 - o)
  · rw [List.getElem?_append_left (by simpa using h), Mem.read_getElem? _ _ _ _ h, if_pos (by omega)]
  · rw [List.getElem?_append_right (by simp; omega), Mem.read_length, Mem.read_getElem? _ _ _ _ (by omega), if_neg (by omega)]
    have h5 : 0 + (i - min n (2 ^ 20 - o)) = o + i - 2 ^ 20 := by omega
    rw [h5]

/-- Bytes read from a window. -/
theorem Ctx.readWindow_length (x : Ctx) (off n : Nat) : (x.readWindow off n).length = n := by
  simp [Ctx.readWindow]

/-- A part of the bytes written into a window is read back, also across its end. -/
theorem Ctx.read_write_window (x : Ctx) (off : Nat) (bs : List Byte) (k n : Nat) (hw : x.window.wf = true)
    (hl : bs.length ≤ 2 ^ 20) (hk : k + n ≤ bs.length) :
    (x.writeWindow off bs).readWindow (off + k) n = (bs.drop k).take n := by
  apply List.ext_getElem?
  intro i
  by_cases hi : i < n
  · rw [Ctx.readWindow_getElem? _ _ _ _ (by omega) hi, Nat.add_assoc, Ctx.writeWindow_byte x off bs (k + i) hw hl (by omega),
      List.getElem?_take_of_lt hi, List.getElem?_drop, List.getD_eq_getElem?_getD]
    have : k + i < bs.length := by omega
    simp [this]
  · rw [List.getElem?_eq_none (by rw [Ctx.readWindow_length]; omega), List.getElem?_eq_none (by simp; omega)]

/-- The CRC-32C is a 32-bit number. -/
theorem crc32c_lt (bs : List Byte) : crc32c bs < 2 ^ 32 := by
  have hb : ∀ c, c < 2 ^ 32 → crcBit c < 2 ^ 32 := by
    intro c hc
    unfold crcBit
    split
    · exact Nat.xor_lt_two_pow (by omega) (by norm_num)
    · omega
  have hB : ∀ c b, c < 2 ^ 32 → crcByte c b < 2 ^ 32 := by
    intro c b hc
    unfold crcByte
    refine hb _ (hb _ (hb _ (hb _ (hb _ (hb _ (hb _ (hb _ ?_)))))))
    exact Nat.xor_lt_two_pow hc (by have := b.isLt; omega)
  have hf : ∀ (l : List Byte) c, c < 2 ^ 32 → l.foldl crcByte c < 2 ^ 32 := by
    intro l
    induction l with
    | nil => exact fun c h => h
    | cons b l ih => exact fun c h => ih _ (hB c b h)
  exact Nat.xor_lt_two_pow (hf _ _ (by norm_num)) (by norm_num)

/-- The words of an encoded header. -/
theorem head28_words (p : Pkt) (op : Nat) : p.head28 op = words [p.word0 op, p.word1, p.arg0.toNat, p.arg1.toNat, p.arg2.toNat, p.arg3.toNat, p.word6.toNat] := by
  simp [Pkt.head28, Pkt.head24, words]

/-- LENGTH of an encoded header. -/
theorem headLen_head (p : Pkt) (op : Nat) (r : List Byte) (h : p.units < 65536) : headLen (p.head28 op ++ r) = p.units := by
  rw [headLen, head28_words, rdw_words _ _ 1 (by simp)]
  have h1 := p.context.isLt; have h2 := p.tag.isLt
  simp only [List.getD_cons_succ, List.getD_cons_zero, Pkt.word1, bits, Nat.shiftRight_zero]
  omega

/-- The opcode of an encoded header. -/
theorem headOp_head (p : Pkt) (op : Nat) (r : List Byte) (h : op < 4096) : headOp (p.head28 op ++ r) = op := by
  rw [headOp, head28_words, rdw_words _ _ 0 (by simp)]
  have h1 := p.version.isLt; have h2 := p.flags.isLt
  simp only [List.getD_cons_zero, Pkt.word0, bits, Nat.shiftRight_eq_div_pow]
  omega

/-- An encoded packet passes its CRC check. -/
theorem crcOk_head (p : Pkt) (op : Nat) (pay : List Byte) :
    crcOk (p.head28 op ++ le 4 (crc32c (p.head28 op ++ pay))) pay = true := by
  have hl : (p.head28 op).length = 28 := by simp [Pkt.head28, Pkt.head24, words]
  have hr : headCrc (p.head28 op ++ le 4 (crc32c (p.head28 op ++ pay))) = crc32c (p.head28 op ++ pay) := by
    simp only [headCrc, rdw, rd]
    rw [List.drop_append_of_le_length (by omega), List.drop_of_length_le (by omega), List.nil_append, List.take_of_length_le (by simp), unle_le]
    exact Nat.mod_eq_of_lt (crc32c_lt _)
  have ht : (p.head28 op ++ le 4 (crc32c (p.head28 op ++ pay))).take 28 = p.head28 op := by
    rw [List.take_append_of_le_length (by omega), List.take_of_length_le (by omega)]
  unfold crcOk
  rw [hr, ht]; simp

/-- Every field of an encoded header is read back. -/
theorem parse_head (p : Pkt) (op : Nat) (r : List Byte) : parsePkt (p.head28 op ++ r) p.payload = p := by
  have h0 : rdw (p.head28 op ++ r) 0 = p.word0 op % 2 ^ 32 := by rw [head28_words, rdw_words _ _ 0 (by simp)]; rfl
  have h1 : rdw (p.head28 op ++ r) 1 = p.word1 % 2 ^ 32 := by rw [head28_words, rdw_words _ _ 1 (by simp)]; rfl
  have h2 : rdw (p.head28 op ++ r) 2 = p.arg0.toNat % 2 ^ 32 := by rw [head28_words, rdw_words _ _ 2 (by simp)]; rfl
  have h3 : rdw (p.head28 op ++ r) 3 = p.arg1.toNat % 2 ^ 32 := by rw [head28_words, rdw_words _ _ 3 (by simp)]; rfl
  have h4 : rdw (p.head28 op ++ r) 4 = p.arg2.toNat % 2 ^ 32 := by rw [head28_words, rdw_words _ _ 4 (by simp)]; rfl
  have h5 : rdw (p.head28 op ++ r) 5 = p.arg3.toNat % 2 ^ 32 := by rw [head28_words, rdw_words _ _ 5 (by simp)]; rfl
  have h6 : rdw (p.head28 op ++ r) 6 = p.word6.toNat % 2 ^ 32 := by rw [head28_words, rdw_words _ _ 6 (by simp)]; rfl
  have b0 := p.version.isLt; have b1 := p.flags.isLt; have b2 := p.context.isLt; have b3 := p.tag.isLt
  have e0 : bits (rdw (p.head28 op ++ r) 0) 31 24 = p.version.toNat := by
    rw [h0]; simp only [bits, Pkt.word0, Nat.shiftRight_eq_div_pow]; omega
  have e1 : bits (rdw (p.head28 op ++ r) 0) 11 0 = p.flags.toNat := by
    rw [h0]; simp only [bits, Pkt.word0, Nat.shiftRight_eq_div_pow]; omega
  have e2 : bits (rdw (p.head28 op ++ r) 1) 31 28 = p.context.toNat := by
    rw [h1]; simp only [bits, Pkt.word1, Nat.shiftRight_eq_div_pow]; omega
  have e3 : bits (rdw (p.head28 op ++ r) 1) 27 16 = p.tag.toNat := by
    rw [h1]; simp only [bits, Pkt.word1, Nat.shiftRight_eq_div_pow]; omega
  have hb : ∀ w : Word, BitVec.ofNat 32 (w.toNat % 2 ^ 32) = w := by
    intro w; apply BitVec.eq_of_toNat_eq; have := w.isLt; simp; omega
  unfold parsePkt
  rw [e0, e1, e2, e3, h2, h3, h4, h5, h6, hb, hb, hb, hb, hb]
  simp

end Sys2Proof.Machine
end

