-- ==== Sys2Proof/Laws/Reply.lean ====
section
/-! SUPPORT. What an answer does: it joins the queues of the answering context's rings and changes nothing else. -/

namespace Sys2Proof.Machine

open Sys2Proof

/-- An entry that joins a queue changes the rings of its context only. -/
theorem State.pushEntry_rings (s : State) (c : Fin 8) (k : Fin 4) (e : Entry) :
    ∃ v, s.pushEntry c k e = s.modCtx c (fun x => { x with rings := v }) :=
  ⟨vmod s.ctxs[c].rings k (fun r => if r.isOpen && !e.hdr.gone then { r with queue := r.queue ++ [e] } else r), by
    simp only [State.pushEntry, State.modRing, State.modCtx, vmod]⟩

/-- A change of a context to what it is changes nothing. -/
theorem State.modCtx_same (s : State) (c : Fin 8) : s.modCtx c (fun x => { x with rings := s.ctxs[c].rings }) = s := by
  have h : vmod s.ctxs c (fun x => { x with rings := s.ctxs[c].rings }) = s.ctxs := by
    show s.ctxs.set c s.ctxs[c] = s.ctxs
    simp
  unfold State.modCtx
  rw [h]

/-- Two changes of one context's rings make one. -/
theorem State.rings_rings (s : State) (c : Fin 8) (v w : Vector Ring 4) :
    (s.modCtx c (fun x => { x with rings := v })).modCtx c (fun x => { x with rings := w }) = s.modCtx c (fun x => { x with rings := w }) := by
  rw [State.modCtx_modCtx]

/-- Entries that join the queues change the rings of their context only. -/
theorem State.pushEntries_rings (c : Fin 8) (k : Fin 4) : ∀ (es : List Entry) (s : State),
    ∃ v, es.foldl (fun t e => t.pushEntry c k e) s = s.modCtx c (fun x => { x with rings := v })
  | [], s => ⟨s.ctxs[c].rings, (State.modCtx_same s c).symm⟩
  | e :: es, s => by
    obtain ⟨v, hv⟩ := s.pushEntry_rings c k e
    obtain ⟨w, hw⟩ := State.pushEntries_rings c k es (s.pushEntry c k e)
    exact ⟨w, by rw [List.foldl_cons, hw, hv, State.rings_rings]⟩

/-- A posted answer changes the rings of its context only. -/
theorem State.replyAt_rings (s : State) (h : Hdr) (status sub detail : Nat) (pay : List Byte) (ts : Ts)
    (hn : (h.isN && decide (status ≤ 1)) = false) :
    ∃ v, s.replyAt h status sub detail pay ts = s.modCtx h.mb (fun x => { x with rings := v }) := by
  unfold State.replyAt
  rw [hn, if_neg (by decide)]
  exact State.pushEntries_rings _ _ _ _

/-- A posted answer taken now changes the rings of its context only. -/
theorem State.reply_rings (s : State) (h : Hdr) (status sub detail : Nat) (pay : List Byte) (hn : (h.isN && decide (status ≤ 1)) = false) :
    ∃ v, s.reply h status sub detail pay = s.modCtx h.mb (fun x => { x with rings := v }) := s.replyAt_rings h _ _ _ _ _ hn

/-- A refusal changes the rings of its context only. -/
theorem State.refuse_rings (s : State) (h : Hdr) (f : Nat × Nat) (hf : 1 < f.1) :
    ∃ v, s.refuse h f = s.modCtx h.mb (fun x => { x with rings := v }) :=
  s.reply_rings h _ _ _ _ (by simp; omega)

/-- A refusal leaves the staging set of its sender as it is. -/
theorem State.refuse_stage (s : State) (h : Hdr) (f : Nat × Nat) (hf : 1 < f.1) : (s.refuse h f).ctxs[h.mb].stage = s.ctxs[h.mb].stage := by
  obtain ⟨v, hv⟩ := s.refuse_rings h f hf
  rw [hv, State.modCtx_self]

/-- A staged write for which the set has no room is refused (R66). -/
theorem State.stage_full (s : State) (h : Hdr) (op : Nat) (q : Pkt) (echo : List Byte) (hr : ¬ stageRoom h q s) :
    s.stage h op q echo = s.refuse h (0x021, 0x0022) := by
  have h5 : (decide (1024 ≤ s.ctxs[h.mb].stage.length) || decide (2 ^ 20 < stageBytes s.ctxs[h.mb].stage + 8 * q.units)) = true := by
    unfold stageRoom at hr
    rw [Bool.or_eq_true, decide_eq_true_eq, decide_eq_true_eq]
    omega
  simp only [State.stage, h5, if_true]

end Sys2Proof.Machine
end

