-- ==== Sys2Proof/Laws/Sends.lean ====
section
/-! SUPPORT. What the commands of the host have in common: each sends one packet, and the device delivers it. -/

namespace Sys2Proof.Machine

open Sys2Proof

/-- Every host command sends its packet, and an opcode other than CTX_OPEN is delivered with checks and a body of its own. -/
theorem exec_sends (i : Instr) (c : Fin 8) (op : Nat) (p : Pkt) (h : i.sends = some (c, op, p)) :
    (∃ take, (∀ s, exec i s = hostCmd s c op p take) ∧ (op ≠ 0x001 → ∃ owns busy body, ∀ q s, take q s = s.deliver c op q owns busy body) ∧
      (op = 0x001 → take = takeCtxOpen c)) := by
  cases i <;>
    first
    | (cases h; exact ⟨_, fun _ => rfl, fun _ => ⟨_, _, _, fun _ _ => rfl⟩, fun he => absurd he (by decide)⟩)
    | (cases h; exact ⟨_, fun _ => rfl, fun he => absurd rfl he, fun _ => rfl⟩)
    | (cases h)

/-- A packet that cannot be taken now is placed, or lost with the link. -/
theorem hostCmd_waits (s : State) (c : Fin 8) (op : Nat) (p : Pkt) (take : Pkt → State → State) :
    (s.link.linkUp = false → hostCmd s c op p take = .next s) ∧
    (s.link.linkUp = true → (s.takes c = false ∨ s.ctxs[c].pending ≠ 0 ∨ 32767 < pktUnits p.units) → hostCmd s c op p take = .next (s.place c op p)) ∧
    (s.takes c = true → s.ctxs[c].pending = 0 → pktUnits p.units ≤ 32767 → hostCmd s c op p take = .next (take p (s.fetched c op p))) := by
  refine ⟨?_, ?_, ?_⟩
  · intro hl
    simp only [hostCmd, State.send, hl, Bool.not_false, if_true]
  · intro hl hw
    have hn : (s.takes c && decide (s.ctxs[c].pending = 0) && decide (pktUnits p.units ≤ 32767)) = false := by
      rcases hw with h | h | h
      · simp [h]
      · simp [h, -Fin.getElem_fin]
      · have : ¬ pktUnits p.units ≤ 32767 := by omega
        simp [this]
    simp only [hostCmd, State.send, hl, hn, Bool.not_true, Bool.false_eq_true, if_false]
  · intro ht hf hu
    have hl : s.link.linkUp = true := by
      simp only [State.takes, Bool.and_eq_true] at ht; exact ht.1.1.1.1
    simp only [hostCmd, State.send, hl, ht, hf, hu, State.fetched, Bool.not_true, Bool.false_eq_true, if_false, decide_true, Bool.and_self, if_true]

/-- The context of a fetched packet is open as before. -/
theorem State.fetched_isOpen (s : State) (c : Fin 8) (op : Nat) (p : Pkt) (hf : s.ctxs[c].pending = 0) (hu : pktUnits p.units ≤ 32767) :
    (s.fetched c op p).ctxs[c].isOpen = s.ctxs[c].isOpen := by
  rw [State.fetched_eq s c op p hf hu, State.modCtx_self]; rfl

/-- Intake of a fetched packet fails as it did before. -/
theorem intakeFail_of_fetched (s : State) (c : Fin 8) (op : Nat) (p : Pkt) (hf : s.ctxs[c].pending = 0) (hu : pktUnits p.units ≤ 32767) :
    intakeFail (s.fetched c op p) c op p = intakeFail s c op p := by
  rw [State.fetched_eq s c op p hf hu, intakeFail_fetched]

/-- The role checks of a fetched packet in flight fail as they did before. -/
theorem roleFail_of_fetched (s : State) (c : Fin 8) (op : Nat) (p : Pkt) (hf : s.ctxs[c].pending = 0) (hu : pktUnits p.units ≤ 32767) :
    roleFail ((s.fetched c op p).enter c op p) c op p = roleFail s c op p := by
  rw [State.fetched_eq s c op p hf hu, roleFail_entered]

/-- A packet of a closed context is dropped. -/
theorem State.deliver_closed (s : State) (c : Fin 8) (op : Nat) (p : Pkt) (owns busy : Hdr → Pkt → State → Option Fail)
    (body : Hdr → Pkt → State → State) (h : s.ctxs[c].isOpen = false) : s.deliver c op p owns busy body = s.dropClosed c := by
  simp only [State.deliver, h, Bool.not_false, if_true]

/-- A packet of any opcode but CTX_OPEN that reaches a closed context is dropped. -/
theorem takePkt_closed (c : Fin 8) (op : Nat) (p : Pkt) (s : State) (h1 : op ≠ 0x001) (h : s.ctxs[c].isOpen = false) :
    takePkt c op p s = s.dropClosed c := by
  unfold takePkt
  split <;> first
    | exact absurd rfl h1
    | exact State.deliver_closed _ _ _ _ _ _ _ h

/-- A packet that fails intake is rejected. -/
theorem State.deliver_rejected (s : State) (c : Fin 8) (op : Nat) (p : Pkt) (owns busy : Hdr → Pkt → State → Option Fail)
    (body : Hdr → Pkt → State → State) (f : Fail) (h : s.ctxs[c].isOpen = true) (hi : intakeFail s c op p = some f) :
    s.deliver c op p owns busy body = s.rejectIntake c op p f 0 := by
  simp only [State.deliver, h, hi, Bool.not_true, Bool.false_eq_true, if_false]

/-- A packet that fails the role checks is refused. -/
theorem State.deliver_role (s : State) (c : Fin 8) (op : Nat) (p : Pkt) (owns busy : Hdr → Pkt → State → Option Fail)
    (body : Hdr → Pkt → State → State) (f : Fail) (h : s.ctxs[c].isOpen = true) (hi : intakeFail s c op p = none)
    (hr : roleFail (s.enter c op p) c op p = some f) :
    s.deliver c op p owns busy body = (s.enter c op p).refusePlain (p.hdr c op p.rsel) f := by
  simp only [State.deliver, h, hi, hr, Bool.not_true, Bool.false_eq_true, if_false]

/-- A packet in the fault state that refuses it is refused, for its owner or for the fault state. -/
theorem State.deliver_fault (s : State) (c : Fin 8) (op : Nat) (p : Pkt) (owns busy : Hdr → Pkt → State → Option Fail)
    (body : Hdr → Pkt → State → State) (f : Fail) (h : s.ctxs[c].isOpen = true) (hi : intakeFail s c op p = none)
    (hr : roleFail (s.enter c op p) c op p = none) (hs : p.isS = false) (hf : (s.enter c op p).faultFail op p = some f) :
    ∃ g, s.deliver c op p owns busy body = (s.enter c op p).refuse (p.hdr c op p.rsel) g := by
  have ho : (s.enter c op p).openSeal c op p = (s.enter c op p, p, none) := by simp [State.openSeal, hs]
  unfold State.deliver
  simp only [h, hi, hr, Bool.not_true, Bool.false_eq_true, if_false]
  rw [ho]
  simp only [hs, Bool.false_and, Bool.false_eq_true, if_false, State.runChecked]
  split
  · exact ⟨_, rfl⟩
  · rw [hf]; exact ⟨f, rfl⟩

/-- A command that the fault state refuses, and whose sender owns what it names, is refused with FAULT_STATE. -/
theorem State.deliver_fault_owned (s : State) (c : Fin 8) (op : Nat) (p : Pkt) (owns busy : Hdr → Pkt → State → Option Fail)
    (body : Hdr → Pkt → State → State) (f : Fail) (h : s.ctxs[c].isOpen = true) (hi : intakeFail s c op p = none)
    (hr : roleFail (s.enter c op p) c op p = none) (hs : p.isS = false) (hf : (s.enter c op p).faultFail op p = some f)
    (hw : owns (p.hdr c op p.rsel) p (s.enter c op p) = none) :
    s.deliver c op p owns busy body = (s.enter c op p).refuse (p.hdr c op p.rsel) f := by
  have ho : (s.enter c op p).openSeal c op p = (s.enter c op p, p, none) := by simp [State.openSeal, hs]
  have hh : ({ (p.hdr c op p.rsel) with sess := 0 } : Hdr) = p.hdr c op p.rsel := rfl
  unfold State.deliver
  simp only [h, hi, hr, Bool.not_true, Bool.false_eq_true, if_false]
  rw [ho]
  simp only [hs, Bool.false_and, Bool.false_eq_true, if_false, State.runChecked]
  rw [hh, hw]
  dsimp only
  rw [hf]

/-- The fault state does not change while a packet is fetched and counted. -/
theorem State.faultFail_entered (s : State) (c : Fin 8) (op : Nat) (p : Pkt) : ((s.fetched c op p).enter c op p).faultFail op p = s.faultFail op p := by
  obtain ⟨f, hf, _⟩ := State.enter_eq (s.fetched c op p) c op p
  rw [hf]
  rfl

/-- What the fault state refuses. -/
theorem State.faultFail_some (s : State) (op : Nat) (p : Pkt)
    (h : (s.gong.fatal = true ∧ op ∉ [0x001, 0x002, 0x007, 0xC02, 0xE01, 0xD02, 0x703] ∧ (op = 0x802 → p.b0 8 = false ∧ p.b0 9 = false)) ∨
      (s.gong.fault = true ∧ (op ∈ [0x303, 0x702, 0xB01, 0x102] ∨ (op = 0x802 ∧ p.b0 8 = false ∧ p.b0 9 = false)))) :
    s.faultFail op p = some (0x0F0, 0) := by
  unfold State.faultFail
  rcases h with ⟨h1, h2, h3⟩ | ⟨h1, h2⟩
  · have : fatalLets op p = false := by
      unfold fatalLets
      rw [decide_eq_false h2, Bool.false_or]
      by_cases h4 : op = 0x802
      · simp [h3 h4]
      · simp [h4]
    simp [h1, this]
  · have : faultRefuses op p = true := by
      unfold faultRefuses
      rcases h2 with h2 | ⟨h2, h3, h4⟩
      · rw [decide_eq_true h2, Bool.true_or]
      · simp [h2, h3, h4]
    simp [h1, this]

/-- A change of the context's records is one change. -/
theorem State.modCtx_of_modCtx (s : State) (c : Fin 8) (f g : Ctx → Ctx) : ∃ k, (s.modCtx c f).modCtx c g = s.modCtx c k :=
  ⟨_, State.modCtx_modCtx s c f g⟩

/-- The intake of an admitted packet changes its context only. -/
theorem State.taken_ctx (s : State) (c : Fin 8) (op : Nat) (p : Pkt) (h : s.Admits c op p) : ∃ k, s.taken c op p = s.modCtx c k := by
  obtain ⟨f, hf, _⟩ := State.enter_eq (s.fetched c op p) c op p
  have he : ∃ k, (s.fetched c op p).enter c op p = s.modCtx c k := by
    rw [hf, State.fetched_eq s c op p h.front h.fits]
    exact State.modCtx_of_modCtx _ _ _ _
  obtain ⟨k, hk⟩ := he
  unfold State.taken
  by_cases hs : p.isS = true
  · have h3 := (h.seals hs).1
    unfold State.openSeal at h3 ⊢
    simp only [hs, Bool.not_true, Bool.false_eq_true, if_false] at h3 ⊢
    split at h3
    · rename_i hz
      rw [if_pos hz, hk]
      exact State.modCtx_of_modCtx _ _ _ _
    · exact absurd h3 (by simp)
  · have : ((s.fetched c op p).enter c op p).openSeal c op p = ((s.fetched c op p).enter c op p, p, none) := by simp [State.openSeal, hs]
    rw [this]
    exact ⟨k, hk⟩

/-- Whatever its own checks say, an admitted packet is refused or runs its body. -/
theorem State.deliver_cases (s : State) (c : Fin 8) (op : Nat) (p : Pkt) (h : s.Admits c op p)
    (owns busy : Hdr → Pkt → State → Option Fail) (body : Hdr → Pkt → State → State) :
    (∃ f, (s.fetched c op p).deliver c op p owns busy body = (s.taken c op p).refuse (s.answer c op p) f) ∨
    (s.fetched c op p).deliver c op p owns busy body = body (s.answer c op p) (s.plain c op p) (s.taken c op p) := by
  have key := State.deliver_admitted s c op p h (fun _ _ _ => none) (fun _ _ _ => none)
    (fun h q a => match owns h q a with
      | some f => a.refuse h f
      | none => match busy h q a with
        | some f => a.refuse h f
        | none => body h q a) rfl rfl
  have e : (s.fetched c op p).deliver c op p owns busy body = (s.fetched c op p).deliver c op p (fun _ _ _ => none) (fun _ _ _ => none)
    (fun h q a => match owns h q a with
      | some f => a.refuse h f
      | none => match busy h q a with
        | some f => a.refuse h f
        | none => body h q a) := by
    have hop : (s.fetched c op p).ctxs[c].isOpen = true := by rw [State.fetched_isOpen s c op p h.front h.fits]; exact h.opened
    have hin : intakeFail (s.fetched c op p) c op p = none := by rw [intakeFail_of_fetched s c op p h.front h.fits]; exact h.intake
    have hro : roleFail ((s.fetched c op p).enter c op p) c op p = none := by rw [roleFail_of_fetched s c op p h.front h.fits]; exact h.role
    unfold State.deliver
    simp only [hop, hin, hro, Bool.not_true, Bool.false_eq_true, if_false]
    have hsplit : ((s.fetched c op p).enter c op p).openSeal c op p = (s.taken c op p, s.plain c op p, none) := by
      unfold State.taken State.plain
      by_cases hp : p.isS = true
      · rw [← (h.seals hp).1]
      · simp [State.openSeal, hp]
    have hh := h.health
    rw [hsplit]
    simp only [State.runChecked, hh]
    all_goals (split <;> rfl)
  rw [e, key]
  cases owns (s.answer c op p) (s.plain c op p) (s.taken c op p) with
  | some f => exact .inl ⟨f, rfl⟩
  | none =>
    dsimp only
    cases busy (s.answer c op p) (s.plain c op p) (s.taken c op p) with
    | some f => exact .inl ⟨f, rfl⟩
    | none => exact .inr rfl

/-- A packet without N is answered in any case. -/
theorem State.answer_isN (s : State) (c : Fin 8) (op : Nat) (p : Pkt) (hn : p.isN = false) : (s.answer c op p).isN = false := by
  have : (p.flags.toNat % 16).testBit 2 = p.flags.getLsbD 2 := by
    rw [show (16 : Nat) = 2 ^ 4 from rfl, Nat.testBit_mod_two_pow]; simp [BitVec.getLsbD]
  show (p.flags.toNat % 16).testBit 2 = false
  rw [this]; exact hn

/-- A command without N whose body answers and draws free values at most changes its context only. -/
theorem frame_of_body (i : Instr) (c : Fin 8) (op : Nat) (p : Pkt) (owns busy : Hdr → Pkt → State → Option Fail) (body : Hdr → Pkt → State → State)
    (hi : ∀ s, exec i s = hostCmd s c op p (fun q s => s.deliver c op q owns busy body))
    (hb : ∀ h bs a, h.mb = c → h.isN = false → ∃ k n, body h { p with payload := bs } a = { a with free := n }.modCtx c k)
    (s : State) (ha : s.Admits c op p) (hn : p.isN = false) : ∃ k n, exec i s = .next ({ s with free := n }.modCtx c k) := by
  rw [hi, (hostCmd_waits s c op p _).2.2 ha.takes ha.front ha.fits]
  obtain ⟨k, hk⟩ := s.taken_ctx c op p ha
  have hN := s.answer_isN c op p hn
  have hm : (s.answer c op p).mb = c := rfl
  rcases s.deliver_cases c op p ha owns busy body with ⟨f, hf⟩ | hf
  · obtain ⟨v, hv⟩ := (s.taken c op p).reply_rings (s.answer c op p) f.1 f.2 0 [] (by rw [hN]; rfl)
    refine ⟨fun x => { k x with rings := v }, s.free, ?_⟩
    rw [hf, State.refuse, hv, hk]
    rw [hm, State.modCtx_modCtx]
  · obtain ⟨bs, hq⟩ := s.plain_eq c op p
    obtain ⟨g, n, hg⟩ := hb (s.answer c op p) bs (s.taken c op p) hm hN
    refine ⟨fun x => g (k x), n, ?_⟩
    rw [hf, hq, hg, hk]
    have : ({ s.modCtx c k with free := n } : State) = ({ s with free := n } : State).modCtx c k := rfl
    rw [this, State.modCtx_modCtx]

/-- Intake refuses N on a command that returns data, so one that passes it has none. -/
theorem noN_of_intake (s : State) (c : Fin 8) (op : Nat) (p : Pkt) (hi : intakeFail s c op p = none) (hd : opNoN op p = true) : p.isN = false := by
  cases hn : p.isN with
  | false => rfl
  | true =>
    exfalso
    have hf : formFail op p ≠ none := by
      unfold formFail
      split
      · exact fun h => absurd h (by simp)
      split
      · exact fun h => absurd h (by simp)
      · rw [if_pos (by rw [hn, hd]; rfl)]
        exact fun h => absurd h (by simp)
    unfold intakeFail at hi
    dsimp only at hi
    split at hi
    · exact absurd hi (by simp)
    split at hi
    · exact absurd hi (by simp)
    split at hi
    · exact absurd hi (by simp)
    split at hi
    · exact absurd hi (by simp)
    split at hi
    · exact absurd hi (by simp)
    split at hi
    · exact absurd hi (by simp)
    cases hf2 : formFail op p with
    | none => exact hf hf2
    | some f => rw [hf2] at hi; exact absurd hi (by simp)

/-- An admitted command that returns data has no N. -/
theorem State.noN_of_admits (s : State) (c : Fin 8) (op : Nat) (p : Pkt) (h : s.Admits c op p) (hd : opNoN op p = true) : p.isN = false :=
  noN_of_intake s c op p h.intake hd

/-- N and C of a packet are those of the packet with a selector set. -/
theorem withA0_flags (p : Pkt) (hi lo v : Nat) : (p.withA0 hi lo v).isN = p.isN ∧ (p.withA0 hi lo v).isC = p.isC := ⟨rfl, rfl⟩

/-- A staged write without C and N changes its context only. -/
theorem stageBody_ctx (op : Nat) (form : Pkt → Option Fail) (echo : State → Hdr → Pkt → List Byte) (h : Hdr) (q : Pkt) (s : State)
    (hn : h.isN = false) (hc : h.isC = false) : ∃ k, stageBody op form echo h q s = s.modCtx h.mb k := by
  have hr : ∀ (t : State) (st sub : Nat) (pay : List Byte), (∃ k, t = s.modCtx h.mb k) → ∃ k, t.reply h st sub 0 pay = s.modCtx h.mb k := by
    intro t st sub pay ht
    obtain ⟨k, rfl⟩ := ht
    obtain ⟨v, hv⟩ := (s.modCtx h.mb k).reply_rings h st sub 0 pay (by rw [hn]; rfl)
    rw [hv]
    exact State.modCtx_of_modCtx _ _ _ _
  have hs : ∃ k, s = s.modCtx h.mb k := ⟨fun x => { x with rings := s.ctxs[h.mb].rings }, (State.modCtx_same s h.mb).symm⟩
  unfold stageBody State.unlessFail
  split
  · exact hr s _ _ [] hs
  · unfold State.stage
    dsimp only
    split
    · exact hr s _ _ [] hs
    · rw [hc, if_neg (by decide)]
      exact hr _ 1 0 _ ⟨_, rfl⟩

/-- A staged command without C and N changes its context only. -/
theorem frame_of_staged (i : Instr) (c : Fin 8) (op : Nat) (p : Pkt) (owns busy : Hdr → Pkt → State → Option Fail) (body : Hdr → Pkt → State → State)
    (hi : ∀ s, exec i s = hostCmd s c op p (fun q s => s.deliver c op q owns busy body))
    (hb : ∀ h bs a, h.mb = c → h.isN = false → h.isC = false → ∃ k, body h { p with payload := bs } a = a.modCtx c k)
    (s : State) (ha : s.Admits c op p) (hn : p.isN = false) (hc : p.isC = false) : ∃ k, exec i s = .next (s.modCtx c k) := by
  rw [hi, (hostCmd_waits s c op p _).2.2 ha.takes ha.front ha.fits]
  obtain ⟨k, hk⟩ := s.taken_ctx c op p ha
  have hN := s.answer_isN c op p hn
  have hC : (s.answer c op p).isC = false := by
    have : (p.flags.toNat % 16).testBit 1 = p.flags.getLsbD 1 := by
      rw [show (16 : Nat) = 2 ^ 4 from rfl, Nat.testBit_mod_two_pow]; simp [BitVec.getLsbD]
    show (p.flags.toNat % 16).testBit 1 = false
    rw [this]; exact hc
  have hm : (s.answer c op p).mb = c := rfl
  rcases s.deliver_cases c op p ha owns busy body with ⟨f, hf⟩ | hf
  · obtain ⟨v, hv⟩ := (s.taken c op p).reply_rings (s.answer c op p) f.1 f.2 0 [] (by rw [hN]; rfl)
    refine ⟨fun x => { k x with rings := v }, ?_⟩
    rw [hf, State.refuse, hv, hk, hm, State.modCtx_modCtx]
  · obtain ⟨bs, hq⟩ := s.plain_eq c op p
    obtain ⟨g, hg⟩ := hb (s.answer c op p) bs (s.taken c op p) hm hN hC
    refine ⟨fun x => g (k x), ?_⟩
    rw [hf, hq, hg, hk, State.modCtx_modCtx]

/-- An answer as a change of the context. -/
theorem State.reply_ctx (s : State) (h : Hdr) (st sub d : Nat) (pay : List Byte) (hn : h.isN = false) (n : Nat) :
    ∃ k m, ({ s with free := n } : State).reply h st sub d pay = ({ s with free := m } : State).modCtx h.mb k := by
  obtain ⟨v, hv⟩ := ({ s with free := n } : State).reply_rings h st sub d pay (by rw [hn]; rfl)
  exact ⟨_, n, hv⟩

/-- An answer after checks as a change of the context. -/
theorem State.unlessFail_ctx (s : State) (h : Hdr) (f : Option Fail) (k : State → State) (hn : h.isN = false)
    (hk : ∃ g m, k s = ({ s with free := m } : State).modCtx h.mb g) : ∃ g m, s.unlessFail h f k = ({ s with free := m } : State).modCtx h.mb g := by
  cases f with
  | none => exact hk
  | some e =>
    obtain ⟨v, hv⟩ := s.reply_rings h e.1 e.2 0 [] (by rw [hn]; rfl)
    exact ⟨_, s.free, hv⟩

end Sys2Proof.Machine
end

