-- ==== Sys2Proof/Laws/Quota.lean ====
section
/-! SUPPORT. The quota pool: what a change of one context does to the sum of the quotas of the open contexts (R53). -/

namespace Sys2Proof.Machine

open Sys2Proof

/-- The quota that a context counts for in the pool. -/
def poolShare (x : Ctx) : Nat := if x.isOpen then x.quota else 0

/-- The sum of a list with one element replaced. -/
theorem sum_map_set {α : Type} (f : α → Nat) (y : α) : ∀ (l : List α) (i : Nat) (h : i < l.length),
    ((l.set i y).map f).sum + f l[i] = (l.map f).sum + f y
  | [], i, h => absurd h (Nat.not_lt_zero _)
  | x :: l, 0, h => by simp; omega
  | x :: l, i + 1, h => by
    have := sum_map_set f y l i (by simpa using h)
    simp only [List.set_cons_succ, List.map_cons, List.sum_cons, List.getElem_cons_succ]
    omega

/-- The pool after a change of one context. -/
theorem pool_modCtx (s : State) (c : Fin 8) (f : Ctx → Ctx) :
    ((s.modCtx c f).ctxs.toList.map poolShare).sum + poolShare s.ctxs[c] = (s.ctxs.toList.map poolShare).sum + poolShare (f s.ctxs[c]) := by
  have h : (s.modCtx c f).ctxs.toList = s.ctxs.toList.set c (f s.ctxs[c]) := by
    simp [State.modCtx, vmod, Vector.toList_set]
  rw [h]
  have hl : c.val < s.ctxs.toList.length := by simp
  have := sum_map_set poolShare (f s.ctxs[c]) s.ctxs.toList c.val hl
  simpa using this

/-- A change that keeps a context's share keeps the pool. -/
theorem quotas_modCtx (s : State) (c : Fin 8) (f : Ctx → Ctx) (hf : poolShare (f s.ctxs[c]) = poolShare s.ctxs[c]) :
    ((s.modCtx c f).ctxs.toList.map (fun x => if x.isOpen then x.quota else 0)).sum = (s.ctxs.toList.map (fun x => if x.isOpen then x.quota else 0)).sum := by
  have := pool_modCtx s c f
  rw [hf] at this
  show ((s.modCtx c f).ctxs.toList.map poolShare).sum = (s.ctxs.toList.map poolShare).sum
  omega

/-- The signal of a ring changes no context. -/
theorem State.signalRing_ctxs (s : State) (v : Nat) : (s.signalRing v).ctxs = s.ctxs := by
  have h : ∀ n, (s.msix n).ctxs = s.ctxs := by
    intro n
    unfold State.msix
    split
    · dsimp only
      split <;> rfl
    · rfl
  unfold State.signalRing
  by_cases hv : v = 0
  · rw [if_pos hv]
  · rw [if_neg hv, h]

/-- A refused open changes no share of the pool. -/
theorem State.openRefused_quotas (s : State) (c : Fin 8) (p : Pkt) (f : Nat × Nat) :
    ((s.openRefused c p f).ctxs.toList.map (fun x => if x.isOpen then x.quota else 0)).sum = (s.ctxs.toList.map (fun x => if x.isOpen then x.quota else 0)).sum := by
  unfold State.openRefused
  dsimp only
  split
  · rw [State.signalRing_ctxs]; rfl
  · exact quotas_modCtx _ _ _ rfl

/-- CTX_OPEN keeps the pool within 4,096. -/
theorem State.openClosed_quotas (s : State) (c : Fin 8) (p : Pkt) (ho : s.ctxs[c].isOpen = false)
    (hs : (s.ctxs.toList.map (fun x => if x.isOpen then x.quota else 0)).sum ≤ 4096) :
    ((s.openClosed c p).ctxs.toList.map (fun x => if x.isOpen then x.quota else 0)).sum ≤ 4096 := by
  unfold State.openClosed
  split
  · rw [State.openRefused_quotas, quotas_modCtx _ _ _ rfl]; exact hs
  · rename_i hi
    split
    · rw [State.openRefused_quotas]; exact hs
    · rename_i hf
      have hn : p.isN = false := noN_of_intake s c 0x001 p hi (by simp [opNoN])
      have hN : (p.hdr c 0x001 0).isN = false := by
        have : (p.flags.toNat % 16).testBit 2 = p.flags.getLsbD 2 := by
          rw [show (16 : Nat) = 2 ^ 4 from rfl, Nat.testBit_mod_two_pow]; simp [BitVec.getLsbD]
        show (p.flags.toNat % 16).testBit 2 = false
        rw [this]; exact hn
      obtain ⟨v, hv⟩ := (s.modCtx c (fun x => x.opened p)).reply_rings (p.hdr c 0x001 0) 0 0 (openQuota p) [] (by rw [hN]; rfl)
      rw [hv, quotas_modCtx _ _ _ rfl]
      have hq : ¬ s.quotaFree < openQuota p := by
        intro hlt
        unfold State.openFail at hf
        simp only [firstFail_cons, failIf_none, decide_eq_false_iff_not] at hf
        exact hf.2.2.2.2.1 hlt
      have hp := pool_modCtx s c (fun x => x.opened p)
      have h0 : poolShare s.ctxs[c] = 0 := by unfold poolShare; rw [ho]; rfl
      have h1 : poolShare (s.ctxs[c].opened p) = openQuota p := rfl
      rw [h0, h1] at hp
      unfold State.quotaFree at hq
      have e : (s.ctxs.toList.map (fun x => if x.isOpen then x.quota else 0)).sum = (s.ctxs.toList.map poolShare).sum := rfl
      have e2 : ((s.modCtx c (fun x => x.opened p)).ctxs.toList.map (fun x => if x.isOpen then x.quota else 0)).sum = ((s.modCtx c (fun x => x.opened p)).ctxs.toList.map poolShare).sum := rfl
      have hpos : openQuota p ≤ 4096 := by
        unfold State.openFail at hf
        simp only [firstFail_cons, failIf_none, decide_eq_false_iff_not] at hf
        have := hf.2.1
        unfold openQuota
        split <;> omega
      rw [e2]
      rw [e] at hq hs
      rw [Nat.add_zero] at hp
      omega

end Sys2Proof.Machine
end

