-- ==== Sys2Proof/Laws/Release.lean ====
section
/-! SUPPORT. What giving up a context, and with it the completion of a command, keeps: an empty Pattern Store, empty capture
segments and an empty Fail Log stay empty. -/

namespace Sys2Proof.Machine

open Sys2Proof

/-- A fold over states keeps what each turn keeps. -/
theorem foldl_keeps {α σ : Type} (P : σ → Prop) (f : σ → α → σ) (hf : ∀ r x, P r → P (f r x)) : ∀ (l : List α) (r : σ), P r → P (l.foldl f r)
  | [], _, h => h
  | x :: l, r, h => foldl_keeps P f hf l (f r x) (hf r x h)

/-- No page, no written bit, no record in a capture segment and none in a Fail Log (R74). -/
def State.emptied (s : State) : Prop :=
  s.store.pages = [] ∧ s.store.written = [] ∧ (∀ e : Fin 8, s.caps[e].segment = []) ∧ (∀ q : Fin 4, s.flogs[q].ring = [])

/-- A change of one element of a file by a function that keeps a property keeps it for all. -/
theorem vmod_all {α : Type} {n : Nat} (Q : α → Prop) (v : Vector α n) (i : Fin n) (f : α → α) (hf : ∀ x, Q x → Q (f x))
    (h : ∀ j : Fin n, Q v[j]) (j : Fin n) : Q (vmod v i f)[j] := by
  by_cases hij : j = i
  · subst hij; rw [vmod_self]; exact hf _ (h _)
  · rw [vmod_other v i j f hij]; exact h j

/-- What is empty depends on the store, the engines and the Fail Logs alone. -/
theorem State.emptied_of_eq {s t : State} (h1 : t.store = s.store) (h2 : t.caps = s.caps) (h3 : t.flogs = s.flogs) (h : s.emptied) : t.emptied := by
  unfold State.emptied
  rw [h1, h2, h3]
  exact h

/-- A change of a context keeps what is empty. -/
theorem State.emptied_modCtx (s : State) (c : Fin 8) (f : Ctx → Ctx) (h : s.emptied) : (s.modCtx c f).emptied := h

/-- A change of the SRAMs keeps what is empty. -/
theorem State.emptied_modSram (s : State) (f : Sram → Sram) (h : s.emptied) : (s.modSram f).emptied := h

/-- An engine given up keeps an empty segment. -/
theorem State.emptied_modCap (s : State) (e : Fin 8) (f : Cap → Cap) (hf : ∀ x, x.segment = [] → (f x).segment = []) (h : s.emptied) :
    (s.modCap e f).emptied :=
  ⟨h.1, h.2.1, vmod_all (fun x => x.segment = []) s.caps e f hf h.2.2.1, h.2.2.2⟩

/-- A Fail Log emptied is empty. -/
theorem State.emptied_modFlog (s : State) (q : Fin 4) (f : Flog → Flog) (hf : ∀ x, x.ring = [] → (f x).ring = []) (h : s.emptied) :
    (s.modFlog q f).emptied :=
  ⟨h.1, h.2.1, h.2.2.1, vmod_all (fun x => x.ring = []) s.flogs q f hf h.2.2.2⟩

/-- A new owner of a sequencer keeps what is empty. -/
theorem State.emptied_setSeqOwner (s : State) (q : Fin 4) (o : Owner) (h : s.emptied) : (s.setSeqOwner q o).emptied := by
  unfold State.setSeqOwner
  split
  · exact h
  · exact State.emptied_modFlog ((s.modSeq q (fun x => { x with owner := o })).clearMap q) q _ (fun x _ => rfl) h

/-- A group given up keeps what is empty. -/
theorem State.emptied_releaseGrp (s : State) (g : Fin 8) (h : s.emptied) : (s.releaseGrp g).emptied := by
  unfold State.releaseGrp State.dropIdleSeqs
  refine forFin_inv State.emptied 4 _ _ ?_ ?_
  · intro q t ht
    split
    · exact State.emptied_setSeqOwner t q .none ht
    · exact ht
  · have hp : ((s.modGrp g (fun x => { x with owner := .none, seq := none, jobs := [] })).resetPins g).emptied := by
      unfold State.resetPins
      refine forFin_inv State.emptied 16 _ _ ?_ h
      intro e t ht
      exact ht
    generalize (s.modGrp g (fun x => { x with owner := .none, seq := none, jobs := [] })).resetPins g = t at hp ⊢
    exact hp

/-- A page evicted from an empty store leaves it empty. -/
theorem State.emptied_evictPage (s : State) (n : Nat) (h : s.emptied) : (s.evictPage n).emptied := by
  have hs : ((s.modStore (fun t => { t.evict n with hostin := t.hostin.filter (fun w => w.page != n) })).emptied) := by
    refine ⟨?_, ?_, h.2.2.1, h.2.2.2⟩
    · show s.store.pages.filter _ = []
      rw [h.1]; rfl
    · show s.store.written.filter _ = []
      rw [h.2.1]; rfl
  unfold State.evictPage
  dsimp only
  split
  · exact hs
  · exact hs

/-- What each part of giving up a context keeps, giving up a context keeps. -/
theorem State.releaseCtx_inv (P : State → Prop) (hg : ∀ t g, P t → P (t.releaseGrp g)) (hn : ∀ t n, P t → P (t.releaseChan n))
    (he : ∀ t e, P t → P (t.modCap e Cap.released)) (hu : ∀ t u f, P t → P ((t.modTmu u Tmu.released).forgetGong f))
    (ha : ∀ t n, P t → P (t.modAlarm n Alarm.released)) (hm : ∀ t n, P t → P (t.modMc n TimeCap.released))
    (hp : ∀ t n, P t → P (t.evictPage n)) (hw : ∀ t c, P t → P (t.clearWindow c)) (hc : ∀ t c f, P t → P (t.modCtx c f))
    (s : State) (c : Fin 8) (h : P s) : P (s.releaseCtx c) := by
  have step : ∀ {n : Nat} (b : Fin n → State → Bool) (f : Fin n → State → State), (∀ i t, P t → P (f i t)) →
      ∀ t, P t → P (forFin n (fun i t => if b i t then f i t else t) t) := by
    intro n b f hf t ht
    refine forFin_inv P n _ t ?_ ht
    intro i u hu
    split
    · exact hf i u hu
    · exact hu
  unfold State.releaseCtx State.releaseOwned
  refine hc _ _ _ (hw _ _ ?_)
  refine foldl_keeps P _ (fun r x hr => hp r _ hr) _ _ ?_
  refine step _ _ (fun i t ht => hm t i ht) _ ?_
  refine step _ _ (fun i t ht => ha t i ht) _ ?_
  refine step _ _ (fun i t ht => hu t i _ ht) _ ?_
  refine step _ _ (fun i t ht => he t i ht) _ ?_
  refine step _ _ (fun i t ht => hn t i ht) _ ?_
  exact step _ _ (fun i t ht => hg t i ht) _ h

/-- A context given up keeps what is empty. -/
theorem State.emptied_releaseCtx (s : State) (c : Fin 8) (h : s.emptied) : (s.releaseCtx c).emptied :=
  State.releaseCtx_inv State.emptied State.emptied_releaseGrp (fun _ _ ht => State.emptied_of_eq rfl rfl rfl ht)
    (fun t e ht => State.emptied_modCap t e _ (fun _ hx => hx) ht) (fun _ _ _ ht => State.emptied_of_eq rfl rfl rfl ht)
    (fun _ _ ht => State.emptied_of_eq rfl rfl rfl ht) (fun _ _ ht => State.emptied_of_eq rfl rfl rfl ht)
    State.emptied_evictPage (fun _ _ ht => State.emptied_of_eq rfl rfl rfl ht) State.emptied_modCtx s c h

/-- What every change of a context and every release of a context keeps, the settling of a context keeps. -/
theorem State.settle_inv (P : State → Prop) (hc : ∀ t c f, P t → P (t.modCtx c f)) (hr : ∀ t c, P t → P (t.releaseCtx c))
    (s : State) (c : Fin 8) (h : P s) : P (s.settle c) := by
  have hp : ∀ (t : State) c k e, P t → P (t.pushEntry c k e) := fun t c k e ht => hc t c _ ht
  have hl : ∀ (t : State) c n, P t → P (t.leave c n) := fun t c n ht => hc t c _ ht
  have hseal : P (s.settleSeal c) := by
    unfold State.settleSeal
    split
    · exact h
    · split
      · dsimp only
        split
        · exact hl _ _ _ (hc _ _ _ h)
        · exact hp _ _ _ _ (hc _ _ _ h)
      · exact h
  have hfence : ∀ n t, P t → P (t.settleFences c n) := by
    intro n
    induction n with
    | zero => exact fun t ht => ht
    | succ n ih =>
      intro t ht
      unfold State.settleFences
      split
      · exact ht
      · split
        · dsimp only
          apply ih
          split
          · exact hl _ _ _ (hc _ _ _ ht)
          · exact hp _ _ _ _ (hc _ _ _ ht)
        · exact ht
  have hclose : ∀ t, P t → P (t.settleClose c) := by
    intro t ht
    unfold State.settleClose
    split
    · exact ht
    · split
      · exact hp _ _ _ _ (hc _ _ _ (hr _ _ ht))
      · exact ht
  exact hclose _ (hfence _ _ hseal)

/-- What every change of a context and every release of a context keeps, an answer keeps. -/
theorem State.replyAt_inv (P : State → Prop) (hc : ∀ t c f, P t → P (t.modCtx c f)) (hr : ∀ t c, P t → P (t.releaseCtx c))
    (s : State) (h : Hdr) (st sub d : Nat) (pay : List Byte) (ts : Ts) (hs : P s) : P (s.replyAt h st sub d pay ts) := by
  unfold State.replyAt
  split
  · unfold State.finish
    split
    · exact hs
    · exact State.settle_inv P hc hr _ _ (hc _ _ _ hs)
  · generalize replyEntries h st sub d pay ts = es
    induction es generalizing s with
    | nil => exact hs
    | cons e es ih => exact ih _ (hc _ _ _ hs)

/-- A group given up changes nothing of the store. -/
theorem State.releaseGrp_store (s : State) (g : Fin 8) : (s.releaseGrp g).store = s.store := by
  unfold State.releaseGrp State.dropIdleSeqs
  have h1 : ∀ t : State, (forFin 4 (fun q t => if (t.grpsOf q).isEmpty then t.setSeqOwner q .none else t) t).store = t.store := by
    intro t
    refine forFin_inv (fun u : State => u.store = t.store) 4 _ t ?_ rfl
    intro q u hu
    split
    · unfold State.setSeqOwner
      split
      · exact hu
      · exact hu
    · exact hu
  rw [h1]
  have h2 : ∀ (t : State), (t.forgetGroup g).store = t.store := fun _ => rfl
  rw [h2]
  unfold State.resetPins
  refine forFin_inv (fun u : State => u.store = s.store) 16 _ _ ?_ rfl
  intro e u hu
  exact hu

/-- A store without pages and written bits. -/
def State.bare (s : State) : Prop := s.store.pages = [] ∧ s.store.written = []

/-- What is bare depends on the store alone. -/
theorem State.bare_of_eq {s t : State} (h1 : t.store = s.store) (h : s.bare) : t.bare := by
  unfold State.bare
  rw [h1]
  exact h

/-- A page evicted from a bare store leaves it bare. -/
theorem State.bare_evictPage (s : State) (n : Nat) (h : s.bare) : (s.evictPage n).bare := by
  have hs : (s.modStore (fun t => { t.evict n with hostin := t.hostin.filter (fun w => w.page != n) })).bare := by
    constructor
    · show s.store.pages.filter _ = []
      rw [h.1]; rfl
    · show s.store.written.filter _ = []
      rw [h.2]; rfl
  unfold State.evictPage
  dsimp only
  split
  · exact hs
  · exact hs

/-- A context given up leaves a bare store bare. -/
theorem State.bare_releaseCtx (s : State) (c : Fin 8) (h : s.bare) : (s.releaseCtx c).bare :=
  State.releaseCtx_inv State.bare (fun t g ht => State.bare_of_eq (State.releaseGrp_store t g) ht) (fun _ _ ht => State.bare_of_eq rfl ht)
    (fun _ _ ht => State.bare_of_eq rfl ht) (fun _ _ _ ht => State.bare_of_eq rfl ht) (fun _ _ ht => State.bare_of_eq rfl ht)
    (fun _ _ ht => State.bare_of_eq rfl ht) State.bare_evictPage (fun _ _ ht => State.bare_of_eq rfl ht)
    (fun _ _ _ ht => State.bare_of_eq rfl ht) s c h

/-- A block joins the written blocks. -/
theorem addBlock_contains (x : Nat) : ∀ (l : List Nat) (b : Nat), (addBlock l b).contains x = (l.contains x || decide (x = b))
  | [], b => by simp [addBlock]
  | y :: l, b => by
    unfold addBlock
    split
    · by_cases h : x = b <;> simp [h, Bool.or_comm]
    · split
      · rename_i h1 h2
        subst h2
        by_cases h : x = b <;> simp [h]
      · simp only [List.contains_cons, addBlock_contains x l b, Bool.or_assoc]

/-- An answer keeps what is empty. -/
theorem State.emptied_ok (s : State) (h : Hdr) (hs : s.emptied) : (s.ok h).emptied :=
  State.replyAt_inv State.emptied (fun _ _ _ ht => ht) State.emptied_releaseCtx s h _ _ _ _ _ hs

end Sys2Proof.Machine
end

