-- ==== Sys2Proof/Laws/Sram.lean ====
section
/-! SUPPORT. The SRAMs as files of codewords, and the code itself: no error, one error, two errors. -/

namespace Sys2Proof.Machine

open Sys2Proof

/-- An SRAM that was replaced is the one put in its place. -/
theorem State.cmem_putCmem (s : State) (mem : Nat) (q : Fin 4) (m : CMem) : (s.putCmem mem q m).cmem mem q = m := by
  unfold State.putCmem State.cmem
  by_cases h0 : mem = 0
  · simp [h0, State.modSram]
  by_cases h1 : mem = 1
  · simp [h1, State.modSram]
  by_cases h2 : mem = 2
  · simp [h2, State.modFmap]
  by_cases h7 : mem = 7
  · simp [h7, State.modSram]
  · simp only [h0, h1, h2, h7, if_false, State.modSram]
    exact vmod_self _ _ _

/-- Every SRAM of a state with canonical memories is canonical. -/
theorem State.cmem_wf (s : State) (mem : Nat) (q : Fin 4) (h : s.memWf) : (s.cmem mem q).wf = true := by
  obtain ⟨_, _, hf, hs, hx, hp, hc⟩ := h
  unfold State.cmem
  split
  · exact hs
  split
  · exact hx
  split
  · exact hf q
  split
  · exact hc
  · exact hp _

/-- Counting a correctable error changes no SRAM. -/
theorem State.countCe_cmem (s : State) (m : Fin 9) (a mem : Nat) (q : Fin 4) : (s.countCe m a).cmem mem q = s.cmem mem q := rfl

/-- Counting an uncorrectable error changes no SRAM. -/
theorem State.countUe_cmem (s : State) (m : Fin 9) (a mem : Nat) (q : Fin 4) : (s.countUe m a).cmem mem q = s.cmem mem q := rfl

/-- A read of one byte. -/
theorem State.sramBytes_one (s : State) (mem : Nat) (q : Fin 4) (a : Nat) : s.sramBytes mem q a 1 = [readData ((s.cmem mem q).code a)] := by
  simp [State.sramBytes]

/-- A range of one byte that is uncorrectable. -/
theorem State.badBytes_one (s : State) (mem : Nat) (q : Fin 4) (a : Nat) (h : judge ((s.cmem mem q).code a) = .bad) :
    s.badBytes mem q a 1 = [a] := by
  simp [State.badBytes, h]

/-- An exclusive or of bits is linear. -/
theorem xorBits_xor (c d : Codeword) (l : List Nat) : xorBits (c ^^^ d) l = (xorBits c l ^^ xorBits d l) := by
  have h : ∀ (l : List Nat) (a b : Bool), l.foldl (fun x i => x ^^ (c ^^^ d).getLsbD i) (a ^^ b) =
      (l.foldl (fun x i => x ^^ c.getLsbD i) a ^^ l.foldl (fun x i => x ^^ d.getLsbD i) b) := by
    intro l
    induction l with
    | nil => intro a b; rfl
    | cons i l ih =>
      intro a b
      simp only [List.foldl_cons]
      rw [← ih, BitVec.getLsbD_xor]
      have e : ((a ^^ b) ^^ (c.getLsbD i ^^ d.getLsbD i)) = ((a ^^ c.getLsbD i) ^^ (b ^^ d.getLsbD i)) := by
        cases a <;> cases b <;> cases c.getLsbD i <;> cases d.getLsbD i <;> rfl
      rw [e]
  exact h l false false

/-- Four bits as a number, combined bit by bit. -/
theorem nibble_xor : ∀ a b c d e f g h : Bool, b2n (a ^^ e) + 2 * b2n (b ^^ f) + 4 * b2n (c ^^ g) + 8 * b2n (d ^^ h) =
    (b2n a + 2 * b2n b + 4 * b2n c + 8 * b2n d) ^^^ (b2n e + 2 * b2n f + 4 * b2n g + 8 * b2n h) := by decide

/-- The syndrome is linear. -/
theorem syndrome_xor (c d : Codeword) : syndrome (c ^^^ d) = syndrome c ^^^ syndrome d := by
  have h1 : (c ^^^ d).toNat / 256 % 16 = (c.toNat / 256 % 16) ^^^ (d.toNat / 256 % 16) := by
    rw [BitVec.toNat_xor, show (256 : Nat) = 2 ^ 8 from rfl, show (16 : Nat) = 2 ^ 4 from rfl, Nat.xor_div_two_pow, Nat.xor_mod_two_pow]
  have h2 : checks4 (c ^^^ d) = checks4 c ^^^ checks4 d := by
    simp only [checks4, xorBits_xor]
    exact nibble_xor _ _ _ _ _ _ _ _
  simp only [syndrome, h1, h2]
  simp only [Nat.xor_assoc, Nat.xor_left_comm]

/-- The parity is linear. -/
theorem parity13_xor (c d : Codeword) : parity13 (c ^^^ d) = (parity13 c ^^ parity13 d) := xorBits_xor c d _

/-- The data of a fresh codeword. -/
theorem ecc_data : ∀ b : Byte, eccData (eccEnc b) = b := by decide +kernel

/-- A fresh codeword has syndrome 0 and even parity. -/
theorem ecc_fresh : ∀ b : Byte, syndrome (eccEnc b) = 0 ∧ parity13 (eccEnc b) = false := by decide +kernel

/-- A fresh codeword has no error. -/
theorem ecc_good (b : Byte) : judge (eccEnc b) = .good := by
  simp [judge, (ecc_fresh b).1, (ecc_fresh b).2]

/-- The judgement of a fresh codeword with errors depends on the errors alone. -/
theorem judge_errors (b : Byte) (e : Codeword) : judge (eccEnc b ^^^ e) =
    if parity13 e then
      (if syndrome e = 0 then .corr (eccEnc b ^^^ e ^^^ 4096) else if syndrome e ≤ 12 then .corr (eccEnc b ^^^ e ^^^ BitVec.ofNat 13 (2 ^ errBit (syndrome e))) else .bad)
    else if syndrome e = 0 then .good else .bad := by
  simp [judge, syndrome_xor, parity13_xor, (ecc_fresh b).1, (ecc_fresh b).2]

/-- One flipped bit is corrected. -/
theorem ecc_one (b : Byte) (i : Fin 13) : judge (eccEnc b ^^^ BitVec.ofNat 13 (2 ^ i.val)) = .corr (eccEnc b) := by
  have h : ∀ i : Fin 13, parity13 (BitVec.ofNat 13 (2 ^ i.val)) = true ∧
      (if syndrome (BitVec.ofNat 13 (2 ^ i.val)) = 0 then i.val = 12 else
        syndrome (BitVec.ofNat 13 (2 ^ i.val)) ≤ 12 ∧ errBit (syndrome (BitVec.ofNat 13 (2 ^ i.val))) = i.val) := by decide +kernel
  obtain ⟨h1, h2⟩ := h i
  rw [judge_errors, h1, if_pos rfl]
  split
  · rename_i h0
    rw [if_pos h0] at h2
    rw [h2]
    simp
  · rename_i h0
    rw [if_neg h0] at h2
    rw [if_pos h2.1, h2.2, BitVec.xor_assoc]
    simp

/-- A codeword judged good reads as its data. -/
theorem readData_good (c : Codeword) (h : judge c = .good) : readData c = eccData c := by
  unfold readData; rw [h]

/-- A codeword judged correctable reads as the corrected data. -/
theorem readData_corr (c f : Codeword) (h : judge c = .corr f) : readData c = eccData f := by
  unfold readData; rw [h]

/-- Two flipped bits are uncorrectable. -/
theorem ecc_two (b : Byte) (i j : Fin 13) (hij : i ≠ j) :
    judge (eccEnc b ^^^ BitVec.ofNat 13 (2 ^ i.val) ^^^ BitVec.ofNat 13 (2 ^ j.val)) = .bad := by
  have h : ∀ i j : Fin 13, i ≠ j → parity13 (BitVec.ofNat 13 (2 ^ i.val) ^^^ BitVec.ofNat 13 (2 ^ j.val)) = false ∧
      syndrome (BitVec.ofNat 13 (2 ^ i.val) ^^^ BitVec.ofNat 13 (2 ^ j.val)) ≠ 0 := by decide +kernel
  obtain ⟨h1, h2⟩ := h i j hij
  rw [BitVec.xor_assoc, judge_errors, h1, if_neg (by decide), if_neg h2]

end Sys2Proof.Machine
end

