-- ==== Sys2Proof/Tests/Slice0.lean ====
section
/-! SUPPORT. Tests of the model: what WellFormed refuses, and for every statement a state and operands that meet its hypotheses. -/

namespace Sys2Proof.Tests

set_option Elab.async false

open Sys2Proof Sys2Proof.Machine

/-- The state at a tick of the Metronome. -/
def later (s : State) (n : Nat) : State := { s with metro := 512 * n }

/-- A small state: the device is up, context 0 is the only open one and owns everything. -/
def st0 : State :=
  { power := { vin := true, stepDone := 12, ready := true, locked := true }, link := { linkUp := true },
    ctxs := vmod State.reset.ctxs 0 (fun x => { x with isOpen := true, expert := true, officer := true, allowCycle := true, quota := 512, rings := vmod x.rings 0 (fun r => { r with isOpen := true, size := 4096 }) }),
    seqs := vmap State.reset.seqs (fun _ x => { x with owner := .ctx 0 }), grps := vmap State.reset.grps (fun _ x => { x with owner := .ctx 0, seq := some 0 }),
    caps := vmap State.reset.caps (fun _ x => { x with owner := .ctx 0 }), tmus := vmap State.reset.tmus (fun _ x => { x with owner := .ctx 0, configured := true }),
    taps := { chans := vmap State.reset.taps.chans (fun _ x => { x with owner := .ctx 0 }) }, ring := { trained := true },
    cfg := { caps := vmap State.reset.cfg.caps (fun _ x => { x with lanes := 1 }), seqs := vmap State.reset.cfg.seqs (fun _ x => { x with fmBlocks := 1 }) } }

/-- The bytes of a vector line with an opcode and an operand. -/
def lineB (op arg : Nat) : List Byte := words [arg, op * 2 ^ 26]

/-- Sequencer 0 without groups, its next vector in its buffer. -/
def stVec (op arg : Nat) (f : Seq → Seq) : State :=
  { st0 with grps := State.reset.grps, metro := 100000000, cfg := { seqs := vmap State.reset.cfg.seqs (fun _ x => { x with global := true }) }, seqs := vmod st0.seqs 0 (fun x => f { x with buf := [{ data := lineB op arg ++ zeros 56, written := true }] }) }

/-- The same with every memory initialized. -/
def stInit : State := { st0 with brush := vmap st0.brush (fun _ x => { x with initDone := true }) }

/-- The same with a full staging set. -/
def stFull : State := st0.modCtx 0 (fun x => { x with stage := List.replicate 1024 {} })

/-- The same with a challenge and an offered session. -/
def stChal : State := st0.modCtx 0 (fun x => { x with challenge := zeros 32, session := { x.session with offered := true } })

/-- A state admits a packet, and what a statement asks of the command holds of it. -/
def Meets (s : State) (c : Fin 8) (op : Nat) (p : Pkt) (pre : Hdr → Pkt → State → Prop) : Prop :=
  s.Admits c op p ∧ pre (s.answer c op p) (s.plain c op p) (s.taken c op p)

/-- The conditions of Admits on a packet in plain, one test each. -/
def admitTests (s : State) (c : Fin 8) (op : Nat) (p : Pkt) : List Bool :=
  [s.takes c, decide (s.ctxs[c].pending = 0), decide (pktUnits p.units ≤ 32767), s.ctxs[c].isOpen, (intakeFail s c op p).isNone, (roleFail s c op p).isNone,
    !p.isS, ((s.taken c op p).faultFail op (s.plain c op p)).isNone]

/-- The tests show Admits. -/
theorem meets_of {s : State} {c : Fin 8} {op : Nat} {p : Pkt} {pre : Hdr → Pkt → State → Prop} (h : (admitTests s c op p).all id = true)
    (hp : pre (s.answer c op p) (s.plain c op p) (s.taken c op p)) : Meets s c op p pre := by
  have t : ∀ b ∈ admitTests s c op p, b = true := List.all_eq_true.1 h
  unfold admitTests at t
  simp only [List.forall_mem_cons, decide_eq_true_eq, Option.isNone_iff_eq_none, Bool.not_eq_true'] at t
  exact And.intro { takes := t.1, front := t.2.1, fits := t.2.2.1, opened := t.2.2.2.1, intake := t.2.2.2.2.1, role := t.2.2.2.2.2.1, seals := by simp [t.2.2.2.2.2.2.1], health := t.2.2.2.2.2.2.2.1 } hp

/-- Nothing is listed in any memory of the small state. -/
theorem st0_memWf : st0.memWf := by
  unfold State.memWf
  decide +kernel


/-! ### Every host command: its packet is admitted and its own conditions are met -/

theorem test_ready_ctxClose : Meets st0 0 0x002 (({} : Pkt).withA0 0 0 0) (fun h q a => q.units = 0 ∧ a.ctxRuns h.mb = false) :=
  meets_of (by decide +kernel) (by decide +kernel)

theorem test_ready_ctxCloseForce : Meets st0 0 0x002 (({} : Pkt).withA0 0 0 1) (fun _ q _ => q.units = 0) :=
  meets_of (by decide +kernel) (by decide +kernel)

theorem test_ready_fence : Meets st0 0 0x005 ({} : Pkt) (fun _ q _ => q.units = 0) :=
  meets_of (by decide +kernel) (by decide +kernel)

theorem test_ready_echo : Meets st0 0 0x006 ({} : Pkt) (fun _ _ _ => True) :=
  meets_of (by decide +kernel) (by trivial)

theorem test_ready_deviceInfo : Meets st0 0 0x007 ({} : Pkt) (fun _ q _ => q.units = 0) :=
  meets_of (by decide +kernel) (by decide +kernel)

theorem test_ready_seqConfig : Meets st0 0 0x302 ({} : Pkt) (fun h q a => seqMine h q a ∧ seqConfigForm q = none ∧ stageRoom h q a) :=
  meets_of (by decide +kernel) (by unfold seqMine stageRoom; decide +kernel)

theorem test_ready_tsetWrite : Meets st0 0 0x401 ({ payload := zeros 160 } : Pkt) (fun h q a => groupMine h q a ∧ tsetForm q = none ∧ stageRoom h q a) :=
  meets_of (by decide +kernel) (by unfold groupMine stageRoom; decide +kernel)

theorem test_ready_periodSet : Meets st0 0 0x402 ({ payload := zeros 32 } : Pkt) (fun h q a => seqMine h q a ∧ periodForm q = none ∧ stageRoom h q a) :=
  meets_of (by decide +kernel) (by unfold seqMine stageRoom; decide +kernel)

theorem test_ready_deskewWrite : Meets st0 0 0x403 ({ payload := zeros 256 } : Pkt) (fun h q a => groupMine h q a ∧ deskewForm q = none ∧ stageRoom h q a) :=
  meets_of (by decide +kernel) (by unfold groupMine stageRoom; decide +kernel)

theorem test_ready_formatSet : Meets st0 0 0x501 ({ payload := zeros 128 } : Pkt) (fun h q a => groupMine h q a ∧ formatForm q = none ∧ stageRoom h q a) :=
  meets_of (by decide +kernel) (by unfold groupMine stageRoom; decide +kernel)

theorem test_ready_reflexSet : Meets st0 0 0x502 (({ payload := zeros 128 } : Pkt).withA0 15 15 0) (fun h q a => groupMine h q a ∧ reflexForm q = none ∧ stageRoom h q a) :=
  meets_of (by decide +kernel) (by unfold groupMine stageRoom; decide +kernel)

theorem test_ready_loadSet : Meets st0 0 0x503 ({ payload := zeros 256 } : Pkt) (fun h q a => groupMine h q a ∧ loadForm q = none ∧ stageRoom h q a) :=
  meets_of (by decide +kernel) (by unfold groupMine stageRoom; decide +kernel)

theorem test_ready_levelsSet : Meets st0 0 0x504 ({ payload := zeros 512 } : Pkt) (fun h q a => groupMine h q a ∧ levelsForm q = none ∧ stageRoom h q a) :=
  meets_of (by decide +kernel) (by unfold groupMine stageRoom; decide +kernel)

theorem test_ready_maskSetPinMask : Meets st0 0 0x601 (({} : Pkt).withA0 13 12 0) (fun h q a => groupMine h q a ∧ maskForm q = none ∧ stageRoom h q a) :=
  meets_of (by decide +kernel) (by unfold groupMine stageRoom; decide +kernel)

theorem test_ready_maskSetRanges : Meets st0 0 0x601 (({ payload := zeros 256 } : Pkt).withA0 13 12 1) (fun h q a => groupMine h q a ∧ maskForm q = none ∧ stageRoom h q a) :=
  meets_of (by decide +kernel) (by unfold groupMine stageRoom; decide +kernel)

theorem test_ready_maskSetFailproc : Meets st0 0 0x601 (({ payload := zeros 64 } : Pkt).withA0 13 12 2) (fun h q a => seqMine h q a ∧ maskForm q = none ∧ stageRoom h q a) :=
  meets_of (by decide +kernel) (by unfold seqMine stageRoom; decide +kernel)

theorem test_ready_fixtureDelay : Meets st0 0 0xB04 ({ payload := zeros 128 } : Pkt) (fun h q a => groupMine h q a ∧ fixtureForm q = none ∧ stageRoom h q a) :=
  meets_of (by decide +kernel) (by unfold groupMine stageRoom; decide +kernel)

theorem test_ready_capConfig : Meets st0 0 0x701 ({ arg3 := 0x00100004, payload := words [0, 0x00080C00, 1, 0, 0, 1000] ++ zeros 72 } : Pkt) (fun h q a => (a.caps[pktEng q].owner = .none ∨ a.caps[pktEng q].owner = h.who) ∧ a.seqs[(capOf q).seq].owner = h.who ∧ capForm q = none ∧ stageRoom h q a) :=
  meets_of (by decide +kernel) (by unfold stageRoom; decide +kernel)

theorem test_ready_commit : Meets st0 0 0x003 (({} : Pkt).withA0 0 0 0) (fun h q a => q.units = 0 ∧ commitOk h a) :=
  meets_of (by decide +kernel) (by unfold commitOk; decide +kernel)

theorem test_ready_commitAt : Meets st0 0 0x003 (({ arg1 := 9 } : Pkt).withA0 0 0 1) (fun h q a => q.units = 0 ∧ commitOk h a ∧ a.tick < q.arg1.toNat + 2 ^ 32 * q.arg2.toNat) :=
  meets_of (by decide +kernel) (by unfold commitOk; decide +kernel)

theorem test_ready_discard : Meets st0 0 0x004 ({} : Pkt) (fun h q a => q.units = 0) :=
  meets_of (by decide +kernel) (by decide +kernel)

theorem test_ready_alarmSet : Meets st0 0 0x404 (({} : Pkt).withA0 15 14 0) (fun h q a => q.b0 12 = false ∧ (a.alarms[alarmUnit q].owner = .none ∨ a.alarms[alarmUnit q].owner = h.who) ∧ q.units = 0) :=
  meets_of (by decide +kernel) (by decide +kernel)

theorem test_ready_alarmSet2 : Meets st0 0 0x404 (({ arg0 := 0x1000 } : Pkt).withA0 15 14 0) (fun h q a => q.b0 12 = true ∧ (a.mcs[alarmUnit q].owner = .none ∨ a.mcs[alarmUnit q].owner = h.who) ∧ q.units = 0 ∧ q.a2 3 0 ≤ 10 ∧ q.a1 15 0 + 2 ^ q.a2 3 0 * 16 ≤ 65536) :=
  meets_of (by decide +kernel) (by decide +kernel)

theorem test_ready_alarmQuery : Meets st0 0 0x404 (({} : Pkt).withA0 15 15 1) (fun h q a => (if q.b0 12 then a.mcs[alarmUnit q].owner = .none ∨ a.mcs[alarmUnit q].owner = h.who else a.alarms[alarmUnit q].owner = .none ∨ a.alarms[alarmUnit q].owner = h.who) ∧ q.units = 0) :=
  meets_of (by decide +kernel) (by decide +kernel)

theorem test_ready_alarmRelease : Meets st0 0 0x404 (({} : Pkt).withA0 15 14 1) (fun h q a => (if q.b0 12 then a.mcs[alarmUnit q].owner = .none ∨ a.mcs[alarmUnit q].owner = h.who else a.alarms[alarmUnit q].owner = .none ∨ a.alarms[alarmUnit q].owner = h.who) ∧ q.units = 0) :=
  meets_of (by decide +kernel) (by decide +kernel)

theorem test_ready_storePartition : Meets st0 0 0x201 ({ arg0 := 0x0401 } : Pkt) (fun h q a => storeStarts 0x201 h q a ∧ a.sole h = true ∧ a.storeRuns = false ∧ q.units = 0 ∧ 4 ≤ q.a0 15 8 ∧ 1 ≤ q.a0 7 0 ∧ q.a0 15 8 + q.a0 7 0 + 16 ≤ 142 ∧ (q.isE = true → q.a1 7 0 ≤ 52 ∧ 100 ≤ q.a2 16 0 ∧ q.a2 16 0 ≤ 100000)) :=
  meets_of (by decide +kernel) (by unfold storeStarts; decide +kernel)

theorem test_ready_pageFill : Meets st0 0 0x202 ({} : Pkt) (fun h q a => storeStarts 0x202 h q a ∧ pageTaken (q.a0 20 0) h a = none ∧ q.units % 512 = 0 ∧ q.units ≤ 32768 ∧ q.a1 8 0 * 4096 + q.payload.length ≤ 2 ^ 21 ∧ (q.payload = [] ∨ (∀ g, a.store.page (q.a0 20 0) = some g → g.resident = false) ∨ a.pinned (q.a0 20 0) = false) ∧ (a.assign h (q.a0 20 0)).isSome = true) :=
  meets_of (by decide +kernel) (by unfold storeStarts; decide +kernel)

theorem test_ready_pageEvict : Meets st0 0 0x203 { ({} : Pkt) with arg1 := ({} : Pkt).arg1 &&& 0xFFFFFFFE } (fun h q a => storeStarts 0x203 h q a ∧ pageTaken (q.a0 20 0) h a = none ∧ q.units = 0 ∧ (a.store.page (q.a0 20 0) = none ∨ a.pinned (q.a0 20 0) = false)) :=
  meets_of (by decide +kernel) (by unfold storeStarts; decide +kernel)

theorem test_ready_pageEvictAll : Meets st0 0 0x203 { ({} : Pkt) with arg1 := ({} : Pkt).arg1 ||| 1 } (fun h q a => storeStarts 0x203 h q a ∧ q.units = 0 ∧ ∀ n ∈ (a.store.pages.filter (fun x => x.owner == h.who)).map (fun x => x.num), a.pinned n = false) :=
  meets_of (by decide +kernel) (by unfold storeStarts; decide +kernel)

theorem test_ready_storeWrite : Meets st0 0 0x204 { ({} : Pkt) with arg2 := ({} : Pkt).arg2 &&& 0xFFFFFFFE } (fun h q a => storeStarts 0x204 h q a ∧ pageTaken (pageOf (storeAddr q)) h a = none ∧ storeAddr q % 64 = 0 ∧ q.payload.length % 64 = 0 ∧ storeAddr q % 2 ^ 21 + q.payload.length ≤ 2 ^ 21 ∧ ((∀ g, a.store.page (pageOf (storeAddr q)) = some g → g.resident = false) ∨ a.pinned (pageOf (storeAddr q)) = false) ∧ (a.assign h (pageOf (storeAddr q))).isSome = true) :=
  meets_of (by decide +kernel) (by unfold storeStarts; decide +kernel)

theorem test_ready_storeClearWritten : Meets st0 0 0x204 { ({ arg3 := 1, flags := 1 } : Pkt) with arg2 := ({ arg3 := 1, flags := 1 } : Pkt).arg2 ||| 1 } (fun h q a => storeStarts 0x204 h q a ∧ pageTaken (pageOf (storeAddr q)) h a = none ∧ q.isE = true ∧ q.units = 0 ∧ storeAddr q % 4096 = 0 ∧ q.arg3.toNat ≠ 0 ∧ storeAddr q % 2 ^ 21 + 4096 * q.arg3.toNat ≤ 2 ^ 21 ∧ ((∀ g, a.store.page (pageOf (storeAddr q)) = some g → g.resident = false) ∨ a.pinned (pageOf (storeAddr q)) = false)) :=
  meets_of (by decide +kernel) (by unfold storeStarts; decide +kernel)

theorem test_ready_storeRead : Meets st0 0 0x205 ({ arg3 := 64 } : Pkt) (fun h q a => storeStarts 0x205 h q a ∧ pageTaken (pageOf (storeAddr q)) h a = none ∧ q.units = 0 ∧ storeAddr q % 64 = 0 ∧ q.arg3.toNat % 64 = 0 ∧ q.arg3.toNat ≠ 0 ∧ storeAddr q % 2 ^ 21 + q.arg3.toNat ≤ 2 ^ 21 ∧ (h.isS = true ∨ ∀ g, a.store.page (pageOf (storeAddr q)) = some g → g.sealed = false)) :=
  meets_of (by decide +kernel) (by unfold storeStarts; decide +kernel)

theorem test_ready_ringStatus : Meets st0 0 0x103 ({} : Pkt) (fun h q a => q.units = 0) :=
  meets_of (by decide +kernel) (by decide +kernel)

theorem test_ready_ringSetup : Meets st0 0 0x101 ({ arg0 := 16, arg1 := 2048 } : Pkt) (fun h q a => a.sole h = true ∧ a.ring.inTraining = false ∧ a.globalRuns = false ∧ q.units = (if q.isE then 32 else 0) ∧ 16 ≤ q.a0 4 0 ∧ q.a0 4 0 ≤ 30 ∧ 2048 ≤ q.arg1.toNat ∧ q.arg1.toNat ≤ 134217728 ∧ ∀ k, k < 32 → flightOf q k ≤ 1800000) :=
  meets_of (by decide +kernel) (by decide +kernel)

theorem test_ready_ringTrain : Meets st0 0 0x102 ({} : Pkt) (fun h q a => q.units = 0 ∧ (a.ring.master = true → a.ring.enable = true ∧ a.ring.conflict = false ∧ a.ring.inTraining = false ∧ a.anyRuns = false)) :=
  meets_of (by decide +kernel) (by decide +kernel)

theorem test_ready_gongConfigSource : Meets st0 0 0xC01 (({ arg0 := 0x040000, arg1 := 0x80000000 } : Pkt).withA0 31 30 0) (fun h q a => gongOwns h q a = none ∧ q.units = 0 ∧ gongForm q = none) :=
  meets_of (by decide +kernel) (by decide +kernel)

theorem test_ready_gongConfigQuiet : Meets st0 0 0xC01 (({ arg2 := 1 } : Pkt).withA0 31 30 1) (fun h q a => gongOwns h q a = none ∧ q.units = 0 ∧ gongForm q = none) :=
  meets_of (by decide +kernel) (by decide +kernel)

theorem test_ready_gongConfigNotice : Meets st0 0 0xC01 (({} : Pkt).withA0 31 30 2) (fun h q a => gongOwns h q a = none ∧ q.units = 0 ∧ gongForm q = none) :=
  meets_of (by decide +kernel) (by decide +kernel)

theorem test_ready_gongReadLog : Meets st0 0 0xC02 (({} : Pkt).withA0 0 0 0) (fun h q a => q.units = 0 ∧ q.a2 12 0 ≤ 4096) :=
  meets_of (by decide +kernel) (by decide +kernel)

theorem test_ready_gongReadCounters : Meets st0 0 0xC02 (({} : Pkt).withA0 0 0 1) (fun h q a => q.units = 0 ∧ q.a2 12 0 ≤ 4096) :=
  meets_of (by decide +kernel) (by decide +kernel)

theorem test_ready_tapRoute : Meets st0 0 0x901 (({ payload := zeros 64 } : Pkt).withA0 15 15 0) (fun h q a => (a.taps.chans[fin 64 (q.a0 5 0)].owner = .none ∨ a.taps.chans[fin 64 (q.a0 5 0)].owner = h.who) ∧ a.chanRuns a.taps.chans[fin 64 (q.a0 5 0)] = false ∧ a.chanRuns (routeOf h q a.taps.chans[fin 64 (q.a0 5 0)]) = false ∧ q.units = 8 ∧ routeForm q (routeOf h q a.taps.chans[fin 64 (q.a0 5 0)]) = true ∧ (q.isE = true ∧ q.a3 0 0 = 1 → a.ctxs[h.mb].allowCycle = true) ∧ a.routeUse h (routeOf h q a.taps.chans[fin 64 (q.a0 5 0)]) = none ∧ a.routeSec (routeOf h q a.taps.chans[fin 64 (q.a0 5 0)]) = true ∧ a.ring.trained = true ∧ (tapCycle (vmod a.taps.chans (fin 64 (q.a0 5 0)) (fun _ => routeOf h q a.taps.chans[fin 64 (q.a0 5 0)])) (fin 64 (q.a0 5 0)) = none ∨ (q.isE = true ∧ q.a3 0 0 = 1))) :=
  meets_of (by decide +kernel) (by decide +kernel)

theorem test_ready_tapRelease : Meets st0 0 0x901 (({ payload := zeros 64 } : Pkt).withA0 15 15 1) (fun h q a => (a.taps.chans[fin 64 (q.a0 5 0)].owner = .none ∨ a.taps.chans[fin 64 (q.a0 5 0)].owner = h.who) ∧ a.chanRuns a.taps.chans[fin 64 (q.a0 5 0)] = false ∧ q.units = 8) :=
  meets_of (by decide +kernel) (by decide +kernel)

theorem test_ready_tapStatus : Meets st0 0 0x902 ({} : Pkt) (fun h q a => a.taps.chans[fin 64 (q.a0 5 0)].owner = h.who ∧ q.units = 0) :=
  meets_of (by decide +kernel) (by decide +kernel)

theorem test_ready_groupAssign : Meets st0 0 0x301 (({} : Pkt).withA0 15 15 0) (fun h q a => (∀ g ∈ pktGrps q, a.grps[g].owner = .none ∨ a.grps[g].owner = h.who) ∧ (a.seqs[assignSeq q].owner = .none ∨ a.seqs[assignSeq q].owner = h.who) ∧ (a.seqs[assignSeq q].st = .idle ∧ ∀ g ∈ pktGrps q, a.grpRuns g = false ∧ a.tuned g = false) ∧ (∀ g ∈ pktGrps q, a.grpMeasures g = false) ∧ q.units = 0 ∧ checksAssign a.cfg ((pktGrps q).map (fun g => (g, some (assignSeq q)))) = none) :=
  meets_of (by decide +kernel) (by decide +kernel)

theorem test_ready_groupRelease : Meets st0 0 0x301 (({} : Pkt).withA0 15 15 1) (fun h q a => (∀ g ∈ pktGrps q, a.grps[g].owner = .none ∨ a.grps[g].owner = h.who) ∧ (∀ g ∈ pktGrps q, a.grpRuns g = false ∧ a.tuned g = false) ∧ (∀ g ∈ pktGrps q, a.grpMeasures g = false) ∧ q.units = 0) :=
  meets_of (by decide +kernel) (by decide +kernel)

theorem test_ready_burstStart : Meets st0 0 0x303 ({ flags := 1, payload := zeros 32 ++ words [0x00010000, 1000, 0, 0, 0, 0, 0, 0] } : Pkt) (fun h q a => seqMine h q a ∧ burstBusy h q a = none ∧ (q.isE = true ∨ q.units = if q.b0 7 then 1 else 0) ∧ (q.isE = true → q.b0 7 = true ∨ startTickOf q = 0) ∧ a.globalFail q (pktSeq q) = none ∧ (∃ d, a.descImage h q = some d ∧ descOk d = true ∧ a.admitFail d (a.cfg.seqs[pktSeq q]).shortest = none) ∧ (q.b0 7 = true → a.nowSI.tick + 8000 ≤ startTickOf q)) :=
  meets_of (by decide +kernel) (by unfold seqMine; decide +kernel)

theorem test_ready_burstStop : Meets st0 0 0x304 (({} : Pkt).withA0 8 8 0) (fun h q a => seqMine h q a ∧ q.units = 0) :=
  meets_of (by decide +kernel) (by unfold seqMine; decide +kernel)

theorem test_ready_burstStopAtRestart : Meets st0 0 0x304 (({} : Pkt).withA0 8 8 1) (fun h q a => seqMine h q a ∧ q.units = 0) :=
  meets_of (by decide +kernel) (by unfold seqMine; decide +kernel)

theorem test_ready_seqStatus : Meets st0 0 0x305 ({} : Pkt) (fun h q a => q.units = 0) :=
  meets_of (by decide +kernel) (by decide +kernel)

theorem test_ready_reflexQuery : Meets st0 0 0x502 (({} : Pkt).withA0 15 15 1) (fun h q a => groupMine h q a ∧ q.units = 0) :=
  meets_of (by decide +kernel) (by unfold groupMine; decide +kernel)

theorem test_ready_guardSet : Meets st0 0 0x505 (({ payload := zeros 256 } : Pkt).withA0 15 14 0) (fun h q a => groupMine h q a ∧ guardForm q = none) :=
  meets_of (by decide +kernel) (by unfold groupMine; decide +kernel)

theorem test_ready_guardClear : Meets st0 0 0x505 (({} : Pkt).withA0 14 14 1) (fun h q a => groupMine h q a ∧ guardForm q = none ∧ q.b0 15 = false) :=
  meets_of (by decide +kernel) (by unfold groupMine; decide +kernel)

theorem test_ready_guardQuery : Meets st0 0 0x505 (({} : Pkt).withA0 15 15 1) (fun h q a => groupMine h q a ∧ guardForm q = none) :=
  meets_of (by decide +kernel) (by unfold groupMine; decide +kernel)

theorem test_ready_ppmuSet : Meets st0 0 0x506 ({ payload := zeros 512 } : Pkt) (fun h q a => groupMine h q a ∧ ppmuBusy h q a = none ∧ ppmuForm q = none) :=
  meets_of (by decide +kernel) (by unfold groupMine; decide +kernel)

theorem test_ready_ppmuMeasure : Meets st0 0 0x507 ({ arg2 := 1 } : Pkt) (fun h q a => groupMine h q a ∧ q.units = 0 ∧ (∀ e ∈ entriesOf (pktMask q), a.pins[pinOf (pktGroup q) e].ppmu.mode ≠ 0) ∧ 1 ≤ q.a2 16 0 ∧ q.a2 16 0 ≤ 65536) :=
  meets_of (by decide +kernel) (by unfold groupMine; decide +kernel)

theorem test_ready_levelMeasureRamp : Meets st0 0 0x508 (({ arg1 := 0, arg2 := 1000, arg3 := 0x1000A } : Pkt).withA0 17 16 0) (fun h q a => groupMine h q a ∧ levelBusy h q a = none ∧ levelForm q = none) :=
  meets_of (by decide +kernel) (by unfold groupMine; decide +kernel)

theorem test_ready_levelMeasureSlope : Meets st0 0 0x508 (({ arg1 := 1, arg2 := 1 } : Pkt).withA0 17 16 1) (fun h q a => groupMine h q a ∧ levelForm q = none) :=
  meets_of (by decide +kernel) (by unfold groupMine; decide +kernel)

theorem test_ready_compCheckStatus : Meets st0 0 0x509 (({} : Pkt).withA0 17 16 0) (fun h q a => groupMine h q a ∧ q.units = 0) :=
  meets_of (by decide +kernel) (by unfold groupMine; decide +kernel)

theorem test_ready_compCheckSwap : Meets st0 0 0x509 (({} : Pkt).withA0 17 16 1) (fun h q a => groupMine h q a ∧ checkBusy h q a = none ∧ q.units = 0) :=
  meets_of (by decide +kernel) (by unfold groupMine; decide +kernel)

theorem test_ready_compCheckTie : Meets st0 0 0x509 (({} : Pkt).withA0 17 16 2) (fun h q a => groupMine h q a ∧ checkBusy h q a = none ∧ q.units = 0) :=
  meets_of (by decide +kernel) (by unfold groupMine; decide +kernel)

theorem test_ready_failRead : Meets st0 0 0x602 ({} : Pkt) (fun h q a => groupMine h q a ∧ q.units = 0 ∧ (a.grpSealed (pktGroup q) = false ∨ h.isS = true)) :=
  meets_of (by decide +kernel) (by unfold groupMine; decide +kernel)

theorem test_ready_failmapRead : Meets st0 0 0x603 ({ arg3 := 64 } : Pkt) (fun h q a => seqMine h q a ∧ q.units = 0 ∧ q.arg1.toNat % 64 = 0 ∧ q.arg3.toNat % 64 = 0 ∧ q.arg3.toNat ≤ 8388608 ∧ q.arg3.toNat ≠ 0 ∧ q.arg1.toNat + q.arg3.toNat ≤ (a.cfg.seqs[pktSeq q]).mapBytes ∧ (a.fmaps[pktSeq q].sealed = false ∨ h.isS = true)) :=
  meets_of (by decide +kernel) (by unfold seqMine; decide +kernel)

theorem test_ready_failmapStatus : Meets st0 0 0x603 { ({} : Pkt) with arg3 := 0 } (fun h q a => seqMine h q a ∧ q.units = 0 ∧ q.arg1.toNat % 64 = 0 ∧ q.arg1.toNat ≤ (a.cfg.seqs[pktSeq q]).mapBytes) :=
  meets_of (by decide +kernel) (by unfold seqMine; decide +kernel)

theorem test_ready_faillogDrain : Meets st0 0 0x604 ({} : Pkt) (fun h q a => seqMine h q a ∧ q.units = 0) :=
  meets_of (by decide +kernel) (by unfold seqMine; decide +kernel)

theorem test_ready_capArm : Meets st0 0 0x702 ({} : Pkt) (fun h q a => a.caps[pktEng q].owner = h.who ∧ a.caps[pktEng q].held = false ∧ q.units = 0 ∧ (a.cfg.caps[pktEng q]).lanes ≠ 0 ∧ a.seqs[(a.cfg.caps[pktEng q]).seq].owner = h.who ∧ a.ownsPins (a.cfg.caps[pktEng q]).seq ((a.cfg.caps[pktEng q]).selPins ||| (a.cfg.caps[pktEng q]).care) = true ∧ (a.caps.toList.map (fun e => e.segHeld)).sum + (a.cfg.caps[pktEng q]).seg ≤ a.store.capUnits * 16 ∧ (a.cfg.caps[pktEng q]).kCap ≤ min (16 - a.capHeld) a.placeable) :=
  meets_of (by decide +kernel) (by decide +kernel)

theorem test_ready_capDisarm : Meets st0 0 0x703 (({} : Pkt).withA0 10 10 0) (fun h q a => a.caps[pktEng q].owner = h.who ∧ q.units = 0) :=
  meets_of (by decide +kernel) (by decide +kernel)

theorem test_ready_capQuery : Meets st0 0 0x703 (({} : Pkt).withA0 10 10 1) (fun h q a => a.caps[pktEng q].owner = h.who ∧ q.units = 0) :=
  meets_of (by decide +kernel) (by decide +kernel)

theorem test_ready_tmuConfig : Meets st0 0 0x801 ({ payload := zeros 16 } : Pkt) (fun h q a => tmuCfgOwns h q a = none ∧ tmuCfgBusy h q a = none ∧ tmuForm q = none) :=
  meets_of (by decide +kernel) (by decide +kernel)

theorem test_ready_tmuArm : Meets st0 0 0x802 (({} : Pkt).withA0 9 8 0) (fun h q a => a.tmus[armUnit q].owner = h.who ∧ a.tmus[armUnit q].st = .idle ∧ q.units = 0 ∧ a.tmus[armUnit q].configured = true ∧ a.tmuPins h a.tmus[armUnit q].cfg = none ∧ a.lanesLack a.tmus[armUnit q].cfg = none) :=
  meets_of (by decide +kernel) (by decide +kernel)

theorem test_ready_tmuDisarm : Meets st0 0 0x802 (({} : Pkt).withA0 9 8 1) (fun h q a => a.tmus[armUnit q].owner = h.who ∧ q.units = 0) :=
  meets_of (by decide +kernel) (by decide +kernel)

theorem test_ready_tmuRelease : Meets st0 0 0x802 (({} : Pkt).withA0 9 9 1) (fun h q a => a.tmus[armUnit q].owner = h.who ∧ q.units = 0) :=
  meets_of (by decide +kernel) (by decide +kernel)

theorem test_ready_tmuResult : Meets st0 0 0x803 ({} : Pkt) (fun h q a => a.tmus[armUnit q].owner = h.who ∧ q.units = 0 ∧ q.a1 8 0 ≤ 256) :=
  meets_of (by decide +kernel) (by decide +kernel)

theorem test_ready_scratchRead : Meets st0 0 0xA01 (({ arg1 := 0x200000, arg2 := 64 } : Pkt).withA0 1 0 0) (fun h q a => (h.context = 15 → scratchAddr q + scratchSize q ≤ 2 ^ 22) ∧ (h.context ≠ 15 → 0x200000 + h.mb.val * 0x40000 ≤ scratchAddr q ∧ scratchAddr q + scratchSize q ≤ 0x200000 + h.mb.val * 0x40000 + 0x40000) ∧ 1 ≤ scratchSize q ∧ scratchSize q ≤ 262144 ∧ (q.isE = false → scratchAddr q % 64 = 0 ∧ scratchSize q % 64 = 0) ∧ q.units = 0) :=
  meets_of (by decide +kernel) (by decide +kernel)

theorem test_ready_scratchWrite : Meets st0 0 0xA01 (({ payload := zeros 64, arg1 := 0x200000, arg2 := 64 } : Pkt).withA0 1 0 1) (fun h q a => (h.context = 15 → scratchAddr q + scratchSize q ≤ 2 ^ 22 ∧ 0x200000 ≤ scratchAddr q) ∧ (h.context ≠ 15 → 0x200000 + h.mb.val * 0x40000 ≤ scratchAddr q ∧ scratchAddr q + scratchSize q ≤ 0x200000 + h.mb.val * 0x40000 + 0x40000) ∧ 1 ≤ scratchSize q ∧ scratchSize q ≤ 262144 ∧ (q.isE = false → scratchAddr q % 64 = 0 ∧ scratchSize q % 64 = 0) ∧ q.units = (scratchSize q + 7) / 8) :=
  meets_of (by decide +kernel) (by decide +kernel)

theorem test_ready_scratchSet : Meets st0 0 0xA01 (({ payload := zeros 8, arg1 := 0x200000, arg2 := 1, flags := 1 } : Pkt).withA0 1 0 2) (fun h q a => (h.context = 15 → scratchAddr q + scratchSize q ≤ 2 ^ 22 ∧ 0x200000 ≤ scratchAddr q) ∧ (h.context ≠ 15 → 0x200000 + h.mb.val * 0x40000 ≤ scratchAddr q ∧ scratchAddr q + scratchSize q ≤ 0x200000 + h.mb.val * 0x40000 + 0x40000) ∧ 1 ≤ scratchSize q ∧ scratchSize q ≤ 262144 ∧ (q.isE = false → scratchAddr q % 64 = 0 ∧ scratchSize q % 64 = 0) ∧ q.isE = true ∧ q.units = (scratchSize q + 7) / 8) :=
  meets_of (by decide +kernel) (by decide +kernel)

theorem test_ready_scratchClr : Meets st0 0 0xA01 (({ payload := zeros 8, arg1 := 0x200000, arg2 := 1, flags := 1 } : Pkt).withA0 1 0 3) (fun h q a => (h.context = 15 → scratchAddr q + scratchSize q ≤ 2 ^ 22 ∧ 0x200000 ≤ scratchAddr q) ∧ (h.context ≠ 15 → 0x200000 + h.mb.val * 0x40000 ≤ scratchAddr q ∧ scratchAddr q + scratchSize q ≤ 0x200000 + h.mb.val * 0x40000 + 0x40000) ∧ 1 ≤ scratchSize q ∧ scratchSize q ≤ 262144 ∧ (q.isE = false → scratchAddr q % 64 = 0 ∧ scratchSize q % 64 = 0) ∧ q.isE = true ∧ q.units = (scratchSize q + 7) / 8) :=
  meets_of (by decide +kernel) (by decide +kernel)

theorem test_ready_eccDiagReadRaw : Meets st0 0 0xA02 (({ flags := 1, arg1 := 0x200000, arg2 := 1 } : Pkt).withA0 1 0 0) (fun h q a => diagOwns h q a = none ∧ diagBusy h q a = none ∧ a.diagForm q = true) :=
  meets_of (by decide +kernel) (by decide +kernel)

theorem test_ready_eccDiagWriteRaw : Meets st0 0 0xA02 (({ payload := zeros 8, flags := 1, arg1 := 0x200000, arg2 := 1 } : Pkt).withA0 1 0 1) (fun h q a => diagOwns h q a = none ∧ diagBusy h q a = none ∧ a.diagForm q = true) :=
  meets_of (by decide +kernel) (by decide +kernel)

theorem test_ready_eccDiagFlip : Meets st0 0 0xA02 (({ payload := zeros 8, flags := 1, arg1 := 0x200000, arg2 := 1 } : Pkt).withA0 1 0 2) (fun h q a => diagOwns h q a = none ∧ diagBusy h q a = none ∧ a.diagForm q = true) :=
  meets_of (by decide +kernel) (by decide +kernel)

theorem test_ready_brushStatus : Meets st0 0 0xA03 ({} : Pkt) (fun h q a => q.units = 0 ∧ (q.b0 0 = false ∨ h.context = 15)) :=
  meets_of (by decide +kernel) (by decide +kernel)

theorem test_ready_tuneRunFull : Meets st0 0 0xB01 (({ arg0 := 0x100 } : Pkt).withA0 17 16 0) (fun h q a => tuneOwns h q a = none ∧ tuneBusy h q a = none ∧ tuneForm q = none) :=
  meets_of (by decide +kernel) (by decide +kernel)

theorem test_ready_tuneRunReflect : Meets st0 0 0xB01 (({ arg0 := 1 } : Pkt).withA0 17 16 1) (fun h q a => tuneOwns h q a = none ∧ tuneBusy h q a = none ∧ tuneForm q = none) :=
  meets_of (by decide +kernel) (by decide +kernel)

theorem test_ready_tuneRunLive : Meets st0 0 0xB01 (({} : Pkt).withA0 17 16 2) (fun h q a => tuneOwns h q a = none ∧ tuneBusy h q a = none ∧ tuneForm q = none) :=
  meets_of (by decide +kernel) (by decide +kernel)

theorem test_ready_tuneStatus : Meets st0 0 0xB02 ({} : Pkt) (fun h q a => q.units = 0) :=
  meets_of (by decide +kernel) (by decide +kernel)

theorem test_ready_calStore : Meets st0 0 0xB03 ({} : Pkt) (fun h q a => calStoreOwns h q a = none ∧ calStoreBusy h q a = none ∧ q.units = 0) :=
  meets_of (by decide +kernel) (by decide +kernel)

theorem test_ready_officerAuthChallenge : Meets st0 0 0xD01 (({} : Pkt).withA0 1 0 0) (fun h q a => q.units = 0) :=
  meets_of (by decide +kernel) (by decide +kernel)

theorem test_ready_officerAuthPolicy : Meets st0 0 0xD01 (({} : Pkt).withA0 1 0 2) (fun h q a => q.units = 0) :=
  meets_of (by decide +kernel) (by decide +kernel)

theorem test_ready_officerAuthRelinquish : Meets st0 0 0xD01 (({} : Pkt).withA0 1 0 3) (fun h q a => q.units = 0) :=
  meets_of (by decide +kernel) (by decide +kernel)

theorem test_ready_officerAuthProve (h : ∀ k m g, Config.verify k m g = true) : Meets stChal 0 0xD01 (({ payload := zeros 3736, arg0 := 0x100 } : Pkt).withA0 1 0 1) (fun h q a => q.units = 467 ∧ (∀ t, a.sec.lockTick = some t → t + 4000000000 ≤ a.tick) ∧ (∀ d : Fin 8, d ≠ h.mb → a.officer d = false) ∧ (q.b0 8 = true → a.sec.otp.officerHash = none ∧ a.sole { h with context := 0 } = true) ∧ a.challengeOk h.mb = true ∧ Config.verify (q.body.take 1312) (a.ctxs[h.mb].challenge ++ le 8 Config.serial ++ le 1 h.mb.val) ((q.body.drop 0x520).take 2420) = true ∧ (q.b0 8 = true ∨ a.sec.otp.officerHash = some (Config.sha3 (q.body.take 1312)))) :=
  meets_of (by decide +kernel) (by exact ⟨by decide +kernel, by decide +kernel, by decide +kernel, by decide +kernel, by decide +kernel, h _ _ _, by decide +kernel⟩)

theorem test_ready_attestReport : Meets st0 0 0xD02 (({ payload := zeros 32 } : Pkt).withA0 0 0 0) (fun h q a => q.units = 4 ∧ a.sec.otp.seedGone = false) :=
  meets_of (by decide +kernel) (by decide +kernel)

theorem test_ready_attestCert (h : Config.certOk = true) : Meets st0 0 0xD02 (({} : Pkt).withA0 0 0 1) (fun h q a => q.units = 0 ∧ Config.certOk = true) :=
  meets_of (by decide +kernel) (by exact ⟨by decide +kernel, h⟩)

theorem test_ready_sealOpenOffer (h : Config.kemPairOk 0 = true) : Meets st0 0 0xD03 (({} : Pkt).withA0 1 0 0) (fun h q a => q.units = 0 ∧ a.sec.otp.seedGone = false ∧ a.sec.zeroPin = false ∧ Config.kemPairOk a.sec.drbg = true) :=
  meets_of (by decide +kernel) (by exact ⟨by decide +kernel, by decide +kernel, by decide +kernel, h⟩)

theorem test_ready_sealOpenAccept (h : ∀ n bs, (Config.kemDecap n bs).isSome = true) : Meets stChal 0 0xD03 (({ payload := zeros 1120 } : Pkt).withA0 1 0 1) (fun h q a => q.units = 140 ∧ a.sec.otp.seedGone = false ∧ a.ctxs[h.mb].session.isOpen = false ∧ a.ctxs[h.mb].session.offered = true ∧ a.tick < a.ctxs[h.mb].session.offerTick + 4000000000 * 10 ∧ (Config.kemDecap a.ctxs[h.mb].session.kemSeed (q.body.take 1088)).isSome = true) :=
  meets_of (by decide +kernel) (by exact ⟨by decide +kernel, by decide +kernel, by decide +kernel, by decide +kernel, by decide +kernel, h _ _⟩)

theorem test_ready_sealOpenClose : Meets st0 0 0xD03 (({} : Pkt).withA0 1 0 2) (fun h q a => q.units = 0 ∧ a.sec.otp.seedGone = false) :=
  meets_of (by decide +kernel) (by decide +kernel)

theorem test_ready_zeroize : Meets st0 0 0xD04 ({} : Pkt) (fun h q a => q.units = 0) :=
  meets_of (by decide +kernel) (by decide +kernel)

theorem test_ready_debugUnlock (h1 : Config.serial = 0) (h2 : ∀ k n, (Config.sha3 k == Config.slotHash n) = true) (h3 : ∀ k m g, Config.verify k m g = true) : Meets stChal 0 0xD06 ({ payload := zeros 4096 } : Pkt) (fun h q a => q.units = 512 ∧ a.tokenOk h.mb q.body = true) :=
  meets_of (by decide +kernel) (by refine ⟨by decide +kernel, ?_⟩; unfold State.tokenOk; dsimp only; rw [h1, h2, h3]; decide +kernel)

theorem test_ready_fwUpdateWrite : Meets st0 0 0xD05 (({ payload := zeros 8 } : Pkt).withA0 1 0 0) (fun h q a => q.payload ≠ [] ∧ q.units ≤ 32768 ∧ q.arg1.toNat + q.body.length ≤ 2 ^ 24 ∧ a.flashBusy = false) :=
  meets_of (by decide +kernel) (by decide +kernel)

theorem test_ready_fwUpdateVerify : Meets st0 0 0xD05 (({} : Pkt).withA0 1 0 1) (fun h q a => q.units = 0 ∧ a.flashBusy = false) :=
  meets_of (by decide +kernel) (by decide +kernel)

theorem test_ready_fwUpdateAdvance : Meets st0 0 0xD05 (({} : Pkt).withA0 1 0 2) (fun h q a => q.units = 0 ∧ a.flashBusy = false) :=
  meets_of (by decide +kernel) (by decide +kernel)

theorem test_ready_fwUpdateRevoke : Meets st0 0 0xD05 (({ arg1 := 1 } : Pkt).withA0 1 0 3) (fun h q a => q.units = 0 ∧ q.arg1.toNat ≤ 2 ∧ q.arg1.toNat ≠ a.sec.running.slot ∧ (∃ i, i < 3 ∧ i ≠ q.arg1.toNat ∧ a.sec.otp.slotGone i = false)) :=
  meets_of (by decide +kernel) (by decide +kernel)

theorem test_ready_healthRead : Meets st0 0 0xE01 ({} : Pkt) (fun h q a => q.units = 0) :=
  meets_of (by decide +kernel) (by decide +kernel)

theorem test_ready_full_seqConfig : Meets stFull 0 0x302 ({} : Pkt) (fun h q a => seqMine h q a ∧ seqConfigForm q = none ∧ ¬ stageRoom h q a) :=
  meets_of (by decide +kernel) (by unfold seqMine stageRoom; decide +kernel)

theorem test_ready_full_tsetWrite : Meets stFull 0 0x401 ({ payload := zeros 160 } : Pkt) (fun h q a => groupMine h q a ∧ tsetForm q = none ∧ ¬ stageRoom h q a) :=
  meets_of (by decide +kernel) (by unfold groupMine stageRoom; decide +kernel)

theorem test_ready_full_periodSet : Meets stFull 0 0x402 ({ payload := zeros 32 } : Pkt) (fun h q a => seqMine h q a ∧ periodForm q = none ∧ ¬ stageRoom h q a) :=
  meets_of (by decide +kernel) (by unfold seqMine stageRoom; decide +kernel)

theorem test_ready_full_deskewWrite : Meets stFull 0 0x403 ({ payload := zeros 256 } : Pkt) (fun h q a => groupMine h q a ∧ deskewForm q = none ∧ ¬ stageRoom h q a) :=
  meets_of (by decide +kernel) (by unfold groupMine stageRoom; decide +kernel)

theorem test_ready_full_formatSet : Meets stFull 0 0x501 ({ payload := zeros 128 } : Pkt) (fun h q a => groupMine h q a ∧ formatForm q = none ∧ ¬ stageRoom h q a) :=
  meets_of (by decide +kernel) (by unfold groupMine stageRoom; decide +kernel)

theorem test_ready_full_reflexSet : Meets stFull 0 0x502 (({ payload := zeros 128 } : Pkt).withA0 15 15 0) (fun h q a => groupMine h q a ∧ reflexForm q = none ∧ ¬ stageRoom h q a) :=
  meets_of (by decide +kernel) (by unfold groupMine stageRoom; decide +kernel)

theorem test_ready_full_loadSet : Meets stFull 0 0x503 ({ payload := zeros 256 } : Pkt) (fun h q a => groupMine h q a ∧ loadForm q = none ∧ ¬ stageRoom h q a) :=
  meets_of (by decide +kernel) (by unfold groupMine stageRoom; decide +kernel)

theorem test_ready_full_levelsSet : Meets stFull 0 0x504 ({ payload := zeros 512 } : Pkt) (fun h q a => groupMine h q a ∧ levelsForm q = none ∧ ¬ stageRoom h q a) :=
  meets_of (by decide +kernel) (by unfold groupMine stageRoom; decide +kernel)

theorem test_ready_full_maskSetPinMask : Meets stFull 0 0x601 (({} : Pkt).withA0 13 12 0) (fun h q a => groupMine h q a ∧ maskForm q = none ∧ ¬ stageRoom h q a) :=
  meets_of (by decide +kernel) (by unfold groupMine stageRoom; decide +kernel)

theorem test_ready_full_maskSetRanges : Meets stFull 0 0x601 (({ payload := zeros 256 } : Pkt).withA0 13 12 1) (fun h q a => groupMine h q a ∧ maskForm q = none ∧ ¬ stageRoom h q a) :=
  meets_of (by decide +kernel) (by unfold groupMine stageRoom; decide +kernel)

theorem test_ready_full_maskSetFailproc : Meets stFull 0 0x601 (({ payload := zeros 64 } : Pkt).withA0 13 12 2) (fun h q a => seqMine h q a ∧ maskForm q = none ∧ ¬ stageRoom h q a) :=
  meets_of (by decide +kernel) (by unfold seqMine stageRoom; decide +kernel)

theorem test_ready_full_fixtureDelay : Meets stFull 0 0xB04 ({ payload := zeros 128 } : Pkt) (fun h q a => groupMine h q a ∧ fixtureForm q = none ∧ ¬ stageRoom h q a) :=
  meets_of (by decide +kernel) (by unfold groupMine stageRoom; decide +kernel)

theorem test_ready_full_capConfig : Meets stFull 0 0x701 ({ arg3 := 0x00100004, payload := words [0, 0x00080C00, 1, 0, 0, 1000] ++ zeros 72 } : Pkt) (fun h q a => (a.caps[pktEng q].owner = .none ∨ a.caps[pktEng q].owner = h.who) ∧ a.seqs[(capOf q).seq].owner = h.who ∧ capForm q = none ∧ ¬ stageRoom h q a) :=
  meets_of (by decide +kernel) (by unfold stageRoom; decide +kernel)

/-! ### Every vector opcode: a running burst issues it -/

theorem test_issues_nop : ∃ (q : Fin 4) (s : State) (l : VLine) (u : State), Issues s q 0x00 l u :=
  ⟨0, (stVec 0 0 (fun x => { x with st := .running })), lineOf (lineB 0 0), ((stVec 0 0 (fun x => { x with st := .running })).prepare 0).2.1, ⟨by decide +kernel, by decide +kernel, ⟨none, false, by decide +kernel⟩, by decide +kernel, by decide +kernel, rfl⟩⟩

theorem test_issues_rpt : ∃ (q : Fin 4) (s : State) (l : VLine) (u : State), Issues s q 0x01 l u ∧ u.seqs[q].reps + 1 < max 1 l.operand :=
  ⟨0, (stVec 1 2 (fun x => { x with st := .running })), lineOf (lineB 1 2), ((stVec 1 2 (fun x => { x with st := .running })).prepare 0).2.1, ⟨by decide +kernel, by decide +kernel, ⟨none, false, by decide +kernel⟩, by decide +kernel, by decide +kernel, rfl⟩, by decide +kernel⟩

theorem test_issues_rpt2 : ∃ (q : Fin 4) (s : State) (l : VLine) (u : State), Issues s q 0x01 l u ∧ ¬ u.seqs[q].reps + 1 < max 1 l.operand :=
  ⟨0, (stVec 1 0 (fun x => { x with st := .running })), lineOf (lineB 1 0), ((stVec 1 0 (fun x => { x with st := .running })).prepare 0).2.1, ⟨by decide +kernel, by decide +kernel, ⟨none, false, by decide +kernel⟩, by decide +kernel, by decide +kernel, rfl⟩, by decide +kernel⟩

theorem test_issues_lpb : ∃ (q : Fin 4) (s : State) (l : VLine) (u : State), Issues s q 0x02 l u :=
  ⟨0, (stVec 2 3 (fun x => { x with st := .running })), lineOf (lineB 2 3), ((stVec 2 3 (fun x => { x with st := .running })).prepare 0).2.1, ⟨by decide +kernel, by decide +kernel, ⟨none, false, by decide +kernel⟩, by decide +kernel, by decide +kernel, rfl⟩⟩

theorem test_issues_lpe : ∃ (q : Fin 4) (s : State) (l : VLine) (u : State), Issues s q 0x03 l u ∧ u.seqs[q].loops = [{ addr := 0, count := 2 }] :=
  ⟨0, (stVec 3 0 (fun x => { x with st := .running, loops := [{ addr := 0, count := 2 }] })), lineOf (lineB 3 0), ((stVec 3 0 (fun x => { x with st := .running, loops := [{ addr := 0, count := 2 }] })).prepare 0).2.1, ⟨by decide +kernel, by decide +kernel, ⟨none, false, by decide +kernel⟩, by decide +kernel, by decide +kernel, rfl⟩, by decide +kernel⟩

theorem test_issues_lpe2 : ∃ (q : Fin 4) (s : State) (l : VLine) (u : State), Issues s q 0x03 l u ∧ u.seqs[q].loops = [{ addr := 0, count := 1 }] :=
  ⟨0, (stVec 3 0 (fun x => { x with st := .running, loops := [{ addr := 0, count := 1 }] })), lineOf (lineB 3 0), ((stVec 3 0 (fun x => { x with st := .running, loops := [{ addr := 0, count := 1 }] })).prepare 0).2.1, ⟨by decide +kernel, by decide +kernel, ⟨none, false, by decide +kernel⟩, by decide +kernel, by decide +kernel, rfl⟩, by decide +kernel⟩

theorem test_issues_call : ∃ (q : Fin 4) (s : State) (l : VLine) (u : State), Issues s q 0x04 l u :=
  ⟨0, (stVec 4 64 (fun x => { x with st := .running })), lineOf (lineB 4 64), ((stVec 4 64 (fun x => { x with st := .running })).prepare 0).2.1, ⟨by decide +kernel, by decide +kernel, ⟨none, false, by decide +kernel⟩, by decide +kernel, by decide +kernel, rfl⟩⟩

theorem test_issues_ret : ∃ (q : Fin 4) (s : State) (l : VLine) (u : State), Issues s q 0x05 l u ∧ u.seqs[q].calls = [{ ret := 9, depth := 0 }] :=
  ⟨0, (stVec 5 0 (fun x => { x with st := .running, calls := [{ ret := 9, depth := 0 }] })), lineOf (lineB 5 0), ((stVec 5 0 (fun x => { x with st := .running, calls := [{ ret := 9, depth := 0 }] })).prepare 0).2.1, ⟨by decide +kernel, by decide +kernel, ⟨none, false, by decide +kernel⟩, by decide +kernel, by decide +kernel, rfl⟩, by decide +kernel⟩

theorem test_issues_jmp : ∃ (q : Fin 4) (s : State) (l : VLine) (u : State), Issues s q 0x06 l u :=
  ⟨0, (stVec 6 64 (fun x => { x with st := .running })), lineOf (lineB 6 64), ((stVec 6 64 (fun x => { x with st := .running })).prepare 0).2.1, ⟨by decide +kernel, by decide +kernel, ⟨none, false, by decide +kernel⟩, by decide +kernel, by decide +kernel, rfl⟩⟩

theorem test_issues_jmpf : ∃ (q : Fin 4) (s : State) (l : VLine) (u : State), Issues s q 0x07 l u :=
  ⟨0, (stVec 7 64 (fun x => { x with st := .running })), lineOf (lineB 7 64), ((stVec 7 64 (fun x => { x with st := .running })).prepare 0).2.1, ⟨by decide +kernel, by decide +kernel, ⟨none, false, by decide +kernel⟩, by decide +kernel, by decide +kernel, rfl⟩⟩

theorem test_issues_jmpg : ∃ (q : Fin 4) (s : State) (l : VLine) (u : State), Issues s q 0x08 l u :=
  ⟨0, (stVec 8 268435464 (fun x => { x with st := .running })), lineOf (lineB 8 268435464), ((stVec 8 268435464 (fun x => { x with st := .running })).prepare 0).2.1, ⟨by decide +kernel, by decide +kernel, ⟨none, false, by decide +kernel⟩, by decide +kernel, by decide +kernel, rfl⟩⟩

theorem test_issues_matchRep : ∃ (q : Fin 4) (s : State) (l : VLine) (u : State), Issues s q 0x09 l u :=
  ⟨0, (stVec 9 65544 (fun x => { x with st := .running })), lineOf (lineB 9 65544), ((stVec 9 65544 (fun x => { x with st := .running })).prepare 0).2.1, ⟨by decide +kernel, by decide +kernel, ⟨none, false, by decide +kernel⟩, by decide +kernel, by decide +kernel, rfl⟩⟩

theorem test_issues_tapw : ∃ (q : Fin 4) (s : State) (l : VLine) (u : State), Issues s q 0x0A l u ∧ u.seqs[q].wait = .tapw :=
  ⟨0, (stVec 10 1 (fun x => { x with st := .running, wait := .tapw, dec := .tapw 0 1 })), lineOf (lineB 10 1), ((stVec 10 1 (fun x => { x with st := .running, wait := .tapw, dec := .tapw 0 1 })).prepare 0).2.1, ⟨by decide +kernel, by decide +kernel, ⟨none, false, by decide +kernel⟩, by decide +kernel, by decide +kernel, rfl⟩, by decide +kernel⟩

theorem test_issues_tapw2 : ∃ (q : Fin 4) (s : State) (l : VLine) (u : State), Issues s q 0x0A l u ∧ u.seqs[q].wait ≠ .tapw ∧ u.seqs[q].tapPend.testBit (bits l.operand 29 24) = true :=
  ⟨0, (stVec 10 1 (fun x => { x with st := .running, tapPend := 1 })), lineOf (lineB 10 1), ((stVec 10 1 (fun x => { x with st := .running, tapPend := 1 })).prepare 0).2.1, ⟨by decide +kernel, by decide +kernel, ⟨none, false, by decide +kernel⟩, by decide +kernel, by decide +kernel, rfl⟩, by decide +kernel, by decide +kernel⟩

theorem test_issues_tapw3 : ∃ (q : Fin 4) (s : State) (l : VLine) (u : State), Issues s q 0x0A l u ∧ u.seqs[q].wait ≠ .tapw ∧ u.seqs[q].tapPend.testBit (bits l.operand 29 24) = false :=
  ⟨0, (stVec 10 1 (fun x => { x with st := .running })), lineOf (lineB 10 1), ((stVec 10 1 (fun x => { x with st := .running })).prepare 0).2.1, ⟨by decide +kernel, by decide +kernel, ⟨none, false, by decide +kernel⟩, by decide +kernel, by decide +kernel, rfl⟩, by decide +kernel, by decide +kernel⟩

theorem test_issues_tset : ∃ (q : Fin 4) (s : State) (l : VLine) (u : State), Issues s q 0x0C l u :=
  ⟨0, (stVec 12 3221225473 (fun x => { x with st := .running })), lineOf (lineB 12 3221225473), ((stVec 12 3221225473 (fun x => { x with st := .running })).prepare 0).2.1, ⟨by decide +kernel, by decide +kernel, ⟨none, false, by decide +kernel⟩, by decide +kernel, by decide +kernel, rfl⟩⟩

theorem test_issues_clrf : ∃ (q : Fin 4) (s : State) (l : VLine) (u : State), Issues s q 0x0E l u :=
  ⟨0, (stVec 14 0 (fun x => { x with st := .running })), lineOf (lineB 14 0), ((stVec 14 0 (fun x => { x with st := .running })).prepare 0).2.1, ⟨by decide +kernel, by decide +kernel, ⟨none, false, by decide +kernel⟩, by decide +kernel, by decide +kernel, rfl⟩⟩

theorem test_issues_sync : ∃ (q : Fin 4) (s : State) (l : VLine) (u : State), Issues s q 0x0F l u :=
  ⟨0, (stVec 15 1 (fun x => { x with st := .running })), lineOf (lineB 15 1), ((stVec 15 1 (fun x => { x with st := .running })).prepare 0).2.1, ⟨by decide +kernel, by decide +kernel, ⟨none, false, by decide +kernel⟩, by decide +kernel, by decide +kernel, rfl⟩⟩

theorem test_issues_tapr : ∃ (q : Fin 4) (s : State) (l : VLine) (u : State), Issues s q 0x0B l u :=
  ⟨0, (stVec 11 0 (fun x => { x with st := .running })), lineOf (lineB 11 0), ((stVec 11 0 (fun x => { x with st := .running })).prepare 0).2.1, ⟨by decide +kernel, by decide +kernel, ⟨none, false, by decide +kernel⟩, by decide +kernel, by decide +kernel, rfl⟩⟩

theorem test_issues_mark : ∃ (q : Fin 4) (s : State) (l : VLine) (u : State), Issues s q 0x0D l u :=
  ⟨0, (stVec 13 5 (fun x => { x with st := .running })), lineOf (lineB 13 5), ((stVec 13 5 (fun x => { x with st := .running })).prepare 0).2.1, ⟨by decide +kernel, by decide +kernel, ⟨none, false, by decide +kernel⟩, by decide +kernel, by decide +kernel, rfl⟩⟩

theorem test_issues_halt : ∃ (q : Fin 4) (s : State) (l : VLine) (u : State), Issues s q 0x3F l u :=
  ⟨0, (stVec 63 0 (fun x => { x with st := .running })), lineOf (lineB 63 0), ((stVec 63 0 (fun x => { x with st := .running })).prepare 0).2.1, ⟨by decide +kernel, by decide +kernel, ⟨none, false, by decide +kernel⟩, by decide +kernel, by decide +kernel, rfl⟩⟩

/-! ### Every other statement with hypotheses -/

theorem test_meets_queueFrontIsExecuted : ∃ (c : Instr) (cs : List Instr) (s : State), s.pending = c :: cs :=
  ⟨.quietExpire, [.brownOut], { st0 with pending := [.quietExpire, .brownOut] }, by decide +kernel⟩

theorem test_meets_emptyQueueRunsTheClock : ∃ (s : State), s.pending = [] ∧ s.power.locked = true :=
  ⟨st0, by decide +kernel, by decide +kernel⟩

theorem test_meets_emptyQueueRunsTheClock2 : ∃ (s : State), s.pending = [] ∧ s.power.locked = false :=
  ⟨State.reset, by decide +kernel, by decide +kernel⟩

theorem test_meets_ctxOpen : ∃ (c : Fin 8) (p : Pkt) (s : State), s.takes c = true ∧ s.ctxs[c].pending = 0 ∧ pktUnits p.units ≤ 32767 ∧ s.ctxs[c].isOpen = false ∧ intakeFail s c 0x001 p = none ∧ (s.fetched c 0x001 p).openFail c p = none :=
  ⟨1, { arg0 := 0x10000, context := 1, payload := words [0, 0, 12] ++ zeros 20 }, st0, by decide +kernel, by decide +kernel, by decide +kernel, by decide +kernel, by decide +kernel, by decide +kernel⟩

theorem test_meets_pcieLinkDown : ∃ (s : State), s.link.linkUp = true :=
  ⟨st0, by decide +kernel⟩

theorem test_meets_doorbellWrite : ∃ (c : Fin 8) (off : Nat) (bs : List Byte) (v : Word) (s : State), s.link.linkUp = true ∧ (s.ctxs[c].writeWindow off bs).doorbellOk v.toNat = true :=
  ⟨0, 0, [1], 1, st0, by decide +kernel, by decide +kernel⟩

theorem test_meets_doorbellWrite2 : ∃ (c : Fin 8) (off : Nat) (bs : List Byte) (v : Word) (s : State), s.link.linkUp = true ∧ (s.ctxs[c].writeWindow off bs).doorbellOk v.toNat = false :=
  ⟨0, 0, [1], 0x8000, st0, by decide +kernel, by decide +kernel⟩

theorem test_meets_ringConsWrite : ∃ (c : Fin 8) (k : Fin 4) (v : Word) (s : State), s.link.linkUp = true ∧ (s.ctxs[c].rings[k]).consOk v.toNat = true :=
  ⟨0, 0, 0, st0, by decide +kernel, by decide +kernel⟩

theorem test_meets_ringConsWrite2 : ∃ (c : Fin 8) (k : Fin 4) (v : Word) (s : State), s.link.linkUp = true ∧ (s.ctxs[c].rings[k]).consOk v.toNat = false :=
  ⟨0, 0, 1, st0, by decide +kernel, by decide +kernel⟩

theorem test_meets_time0Read : ∃ (s : State), s.link.linkUp = true :=
  ⟨st0, by decide +kernel⟩

theorem test_meets_xbBusyClear : ∃ (v : Word) (s : State), s.link.linkUp = true :=
  ⟨1, st0, by decide +kernel⟩

theorem test_meets_msixTableWrite : ∃ (vec : Fin 64) (k : Fin 4) (v : Word) (s : State), s.link.linkUp = true :=
  ⟨63, 3, 1, st0, by decide +kernel⟩

theorem test_meets_frontRegisterAccessesComplete : ∃ (i : Instr) (s : State), s.link.linkUp = false ∧ ((∃ c off bs v, i = .doorbellWrite c off bs v) ∨ (∃ c k v, i = .ringConsWrite c k v) ∨ i = .time0Read ∨ (∃ v, i = .xbBusyClear v) ∨ (∃ n k v, i = .msixTableWrite n k v)) :=
  ⟨.time0Read, State.reset, by decide +kernel, by exact .inr (.inr (.inl rfl))⟩

theorem test_meets_responsePost : ∃ (c : Fin 8) (k : Fin 4) (s : State) (e : Entry) (es : List Entry), (s.ctxs[c].rings[k]).queue = e :: es ∧ s.link.linkUp = true ∧ s.supDead = false ∧ (s.ctxs[c].rings[k]).isOpen = true ∧ (s.ctxs[c].rings[k]).used + e.units + 1 ≤ (s.ctxs[c].rings[k]).size / 32 :=
  ⟨0, 0, st0.modRing 0 0 (fun r => { r with prod := 126, queue := [{}] }), {}, [], by decide +kernel, by decide +kernel, by decide +kernel, by decide +kernel, by decide +kernel⟩

theorem test_meets_responsePost2 : ∃ (c : Fin 8) (k : Fin 4) (s : State), ((s.ctxs[c].rings[k]).queue = [] ∨ s.link.linkUp = false ∨ s.supDead = true ∨ (s.ctxs[c].rings[k]).isOpen = false) :=
  ⟨0, 0, st0, by decide +kernel⟩

theorem test_meets_responsePost3 : ∃ (c : Fin 8) (k : Fin 4) (s : State) (e : Entry) (es : List Entry), (s.ctxs[c].rings[k]).queue = e :: es ∧ (s.ctxs[c].rings[k]).size / 32 < (s.ctxs[c].rings[k]).used + e.units + 1 :=
  ⟨0, 0, st0.modRing 0 0 (fun r => { r with prod := 127, queue := [{}] }), {}, [], by decide +kernel, by decide +kernel⟩

theorem test_meets_msixTimerExpire : ∃ (c : Fin 8) (k : Fin 4) (s : State), (s.ctxs[c].rings[k]).unsignaled ≠ 0 ∧ (s.ctxs[c].rings[k]).time ≠ 0 ∧ (s.ctxs[c].rings[k]).firstUnsig + 4000 * (s.ctxs[c].rings[k]).time ≤ s.tick ∧ s.link.linkUp = true :=
  ⟨0, 0, (later st0 4000).modRing 0 0 (fun r => { r with unsignaled := 1, time := 1 }), by decide +kernel, by decide +kernel, by decide +kernel, by decide +kernel⟩

theorem test_meets_msixTimerExpire2 : ∃ (c : Fin 8) (k : Fin 4) (s : State), ((s.ctxs[c].rings[k]).unsignaled = 0 ∨ (s.ctxs[c].rings[k]).time = 0 ∨ s.tick < (s.ctxs[c].rings[k]).firstUnsig + 4000 * (s.ctxs[c].rings[k]).time) :=
  ⟨0, 0, st0, by decide +kernel⟩

theorem test_meets_alarmFire : ∃ (n : Fin 8) (s : State), s.alarms[n].enabled = true ∧ s.alarms[n].due ≤ s.tick :=
  ⟨7, (later st0 5).modAlarm 7 (fun x => { x with enabled := true, due := 5 }), by decide +kernel, by decide +kernel⟩

theorem test_meets_alarmFire2 : ∃ (n : Fin 8) (s : State), (s.alarms[n].enabled = false ∨ s.tick < s.alarms[n].due) :=
  ⟨0, st0, by decide +kernel⟩

theorem test_meets_alarmFire3 : ∃ (n : Fin 8) (s : State), (s.alarms[n].enabled = false ∨ s.tick < s.alarms[n].due) ∧ s.alarms[n].enabled = true :=
  ⟨0, st0.modAlarm 0 (fun x => { x with enabled := true, due := 1 }), by decide +kernel, by decide +kernel⟩

theorem test_meets_pageDemand : ∃ (q : Fin 4) (s : State), (s.seqs[q].st = .admitted ∨ s.seqs[q].st = .running) :=
  ⟨0, (st0).modSeq 0 (fun x => { x with st := .running, plan := [{ page := 3, firstUse := 0 }] }), by decide +kernel⟩

theorem test_meets_gongReport : ∃ (e : ExtReport) (s : State), (gongScope e.src).isSome = true :=
  ⟨{ src := 2 }, st0, by decide +kernel⟩

theorem test_meets_gongReport2 : ∃ (s : State) (r : GReport) (rs : List GReport), s.gong.inbox = r :: rs :=
  ⟨(st0).modGong (fun x => { x with inbox := [{ src := 1 }] }), { src := 1 }, [], by decide +kernel⟩

theorem test_meets_quietExpire : ∃ (s : State), s.gong.fault = true ∧ s.gong.fatal = false ∧ s.gong.faultCond = false ∧ s.gong.quietFrom + 512 * (4000000 * s.gong.quietMs) ≤ s.metro :=
  ⟨((later st0 400000000)).modGong (fun x => { x with fault := true }), by decide +kernel, by decide +kernel, by decide +kernel, by decide +kernel⟩

theorem test_meets_quietExpire2 : ∃ (s : State), (s.gong.fault = false ∨ s.gong.fatal = true ∨ s.gong.faultCond = true ∨ s.metro < s.gong.quietFrom + 512 * (4000000 * s.gong.quietMs)) :=
  ⟨st0, by decide +kernel⟩

theorem test_meets_quietExpire3 : ∃ (s : State), (s.gong.fault = false ∨ s.gong.fatal = true ∨ s.gong.faultCond = true ∨ s.metro < s.gong.quietFrom + 512 * (4000000 * s.gong.quietMs)) ∧ s.gong.fault = true :=
  ⟨((later st0 399999999)).modGong (fun x => { x with fault := true }), by decide +kernel, by decide +kernel⟩

theorem test_meets_holdExpire : ∃ (src inst : Nat) (s : State), ((s.gongInst src inst).holdSafe = true ∨ (s.gongInst src inst).holdTick = true) ∧ (s.gongInst src inst).holdHi = false ∧ (s.gongInst src inst).lastRep + 512 * (4000000 * s.gong.quietMs) ≤ s.metro :=
  ⟨0x11, 0, ((later st0 400000000)).modGong (fun x => { x with insts := [{ src := 0x11, holdSafe := true }] }), by decide +kernel, by decide +kernel, by decide +kernel⟩

theorem test_meets_tickToggle : ∃ (s : State), s.power.ready = true ∧ s.gong.fault = false ∧ (∀ i ∈ s.gong.insts, i.holdTick = false) ∧ s.gong.tickAt ≤ s.tick :=
  ⟨st0, by decide +kernel, by decide +kernel, by decide +kernel, by decide +kernel⟩

theorem test_meets_supHang : ∃ (core : Fin 4) (s : State), 3 ≤ s.power.stepDone ∧ s.gong.beats[core] + 200000000 < s.tick :=
  ⟨3, (later st0 200000001), by decide +kernel, by decide +kernel⟩

theorem test_meets_tapRaise : ∃ (s : State) (r : Raise), s.taps.raises.find? (fun r => decide (s.hubTime r ≤ s.metro)) = some r :=
  ⟨(later st0 40).modTaps (fun m => { m with raises := [{ prod := 0x40 }] }), { prod := 0x40 }, by decide +kernel⟩

theorem test_meets_tapHubRoute : ∃ (ch : Fin 64) (s u : State) (t0 : Tap), u = s.enterAll ∧ u.taps.hub.find? (fun t => t.chan == ch && decide (t.usable + 2560 ≤ u.metro)) = some t0 :=
  ⟨0, (later st0 40).modTaps (fun m => { m with hub := [{}] }), ((later st0 40).modTaps (fun m => { m with hub := [{}] })).enterAll, {}, by rfl, by decide +kernel⟩

theorem test_meets_tapActivation : ∃ (i : Fin 161) (s0 s : State) (t0 : Tap), s = s0.moveTaps ∧ s.taps.deliver.find? (fun t => (t.consumers.any (fun e => e.1 == i.val)) && decide (t.usable ≤ s.metro)) = some t0 :=
  ⟨0x80, st0.modTaps (fun m => { m with deliver := [{ consumers := [(0x80, false, 8)] }] }), (st0.modTaps (fun m => { m with deliver := [{ consumers := [(0x80, false, 8)] }] })).moveTaps, { consumers := [(0x80, false, 8)] }, by rfl, by decide +kernel⟩

theorem test_meets_consumerBusyEnd : ∃ (i : Fin 161) (s : State) (t : Nat), s.taps.ins[i].busyTo = some t ∧ t ≤ s.metro :=
  ⟨0, st0.modIn 0 (fun x => { x with busyTo := some 0 }), 0, by decide +kernel, by decide +kernel⟩

theorem test_meets_eventPinEdge : ∃ (n : Fin 4) (level : Bool) (s : State), s.taps.gates[n].level ≠ level ∧ 7 ≤ s.power.stepDone :=
  ⟨3, true, st0, by decide +kernel, by decide +kernel⟩

theorem test_meets_eventPinEdge2 : ∃ (n : Fin 8) (level : Bool) (s : State), s.taps.ios[n].level ≠ level ∧ s.taps.ios[n].isOut = false ∧ 7 ≤ s.power.stepDone :=
  ⟨7, true, st0, by decide +kernel, by decide +kernel, by decide +kernel⟩

theorem test_meets_tapIoPulseEnd : ∃ (n : Fin 8) (s : State) (t : Nat), s.taps.ios[n].pulseTo = some t ∧ t ≤ s.tick :=
  ⟨0, st0.modIo 0 (fun e => { e with pulseTo := some 0 }), 0, by decide +kernel, by decide +kernel⟩

theorem test_meets_tapIoReturnInput : ∃ (n : Fin 8) (s : State) (t : Nat), s.taps.ios[n].releaseBy = some t :=
  ⟨0, st0.modIo 0 (fun e => { e with releaseBy := some 0 }), 0, by decide +kernel⟩

theorem test_meets_commitApplyAtVector : ∃ (q : Fin 4) (s : State) (l : VLine) (unw : Option Nat) (sl : Bool), s.seqs[q].st = .running ∧ s.seqs[q].due ≤ s.metro ∧ (s.prepare q).2.2 = .issue l unw sl :=
  ⟨0, stVec 0 0 (fun x => { x with st := .running }), lineOf (lineB 0 0), none, false, by decide +kernel, by decide +kernel, by decide +kernel⟩

theorem test_meets_burstVector0 : ∃ (q : Fin 4) (s : State), s.seqs[q].st = .admitted ∧ s.seqs[q].due ≤ s.metro :=
  ⟨0, (st0).modSeq 0 (fun x => { x with st := .admitted }), by decide +kernel, by decide +kernel⟩

theorem test_meets_burstEventsActAsTheirRulesSay : ∃ (q : Fin 4) (s : State) (sl : Bool), (s.cfg.seqs[q]).logMode ≠ 0 ∧ s.flogs[q].lost = none ∧ s.flogs[q].staging.length < 2048 :=
  ⟨0, { st0 with cfg := { seqs := vmap State.reset.cfg.seqs (fun _ x => { x with logMode := 1 }) } }, false, by decide +kernel, by decide +kernel, by decide +kernel⟩

theorem test_meets_burstFinal : ∃ (q : Fin 4) (s : State), s.seqs[q].st = .ending ∧ issueAt s.seqs[q].endFine ≤ s.metro ∧ s.resultsIn q = true ∧ s.capTaken q = true ∧ s.finalQueued q = false :=
  ⟨0, (st0).modSeq 0 (fun x => { x with st := .ending }), by decide +kernel, by decide +kernel, by decide +kernel, by decide +kernel, by decide +kernel⟩

theorem test_meets_driveEvent : ∃ (p : Fin 128) (s : State) (e : DrvEv) (es : List DrvEv), s.pins[p].driveQ = e :: es ∧ e.fine / 512 ≤ s.tick :=
  ⟨0, (st0).modPin 0 (fun x => { x with driveQ := [{}] }), {}, [], by decide +kernel, by decide +kernel⟩

theorem test_meets_driveEvent2 : ∃ (p : Fin 128) (s : State), (∀ e ∈ s.pins[p].driveQ.head?, s.tick < e.fine / 512) :=
  ⟨0, (st0).modPin 0 (fun x => { x with driveQ := [{ fine := 512 }] }), by decide +kernel⟩

theorem test_meets_comparatorCrossing : ∃ (p : Fin 128) (voh rising : Bool) (t : Nat) (s : State), (if voh then s.pins[p].voh else s.pins[p].vol).canCross rising t = true ∧ (∀ c ∈ s.pins[p].crosses.head?, c.t ≤ t) ∧ t / 512 ≤ s.tick :=
  ⟨0, true, true, 0, (st0).modPin 0 (fun x => { x with voh := { out := .low } }), by decide +kernel, by decide +kernel, by decide +kernel⟩

theorem test_meets_comparatorValid : ∃ (p : Fin 128) (voh above : Bool) (s : State), (let k := if voh then s.pins[p].voh else s.pins[p].vol; k.out = .invalid) ∧ (let k := if voh then s.pins[p].voh else s.pins[p].vol; k.off = false) ∧ (let k := if voh then s.pins[p].voh else s.pins[p].vol; 7 ≤ s.power.stepDone) ∧ (let k := if voh then s.pins[p].voh else s.pins[p].vol; (k.enabledAt + 200 * 2048) / 512 ≤ s.tick) :=
  ⟨0, false, true, (later st0 800), by decide +kernel, by decide +kernel, by decide +kernel, by decide +kernel⟩

theorem test_meets_guardTrip : ∃ (p : Fin 128) (g : Guard) (s : State), 7 ≤ s.power.stepDone ∧ s.pins[p].guardOn g = true ∧ (s.pins[p].guard g).latched = false :=
  ⟨127, .ov, st0, by decide +kernel, by decide +kernel, by decide +kernel⟩

theorem test_meets_guardArmed : ∃ (p : Fin 128) (g : Guard) (s : State), 7 ≤ s.power.stepDone ∧ s.pins[p].guardOn g = true ∧ (s.pins[p].guard g).latched = false :=
  ⟨127, .ov, st0, by decide +kernel, by decide +kernel, by decide +kernel⟩

theorem test_meets_ppmuSettled : ∃ (p : Fin 128) (s : State), s.pins[p].ppmu.mode ≠ 0 ∧ s.pins[p].ppmu.settled = false ∧ s.pins[p].ppmu.wroteTick + 4000 * s.pins[p].ppmu.settling ≤ s.tick :=
  ⟨0, ((later st0 4000)).modPin 0 (fun x => { x with ppmu := { mode := 1, settled := false, settleUs := 1 } }), by decide +kernel, by decide +kernel, by decide +kernel⟩

theorem test_meets_ppmuMeasureDone : ∃ (g : Fin 8) (samples : List (List Sample)) (s : State) (m : Meas) (js : List MeasJob) (t : Nat), s.grps[g].jobs = .ppmu m :: js ∧ m.started = some t ∧ samples.length = (entriesOf m.mask).length ∧ (∀ l ∈ samples, l.length = m.samples) ∧ t + 4000 * ((entriesOf m.mask).length * (5 + m.samples)) ≤ s.tick :=
  ⟨0, [[{}]], (later st0 24000).modGrp 0 (fun x => { x with jobs := [.ppmu { mask := 1, samples := 1, started := some 0 }] }), { mask := 1, samples := 1, started := some 0 }, [], 0, by decide +kernel, by decide +kernel, by decide +kernel, by decide +kernel, by decide +kernel⟩

theorem test_meets_levelMeasureDone : ∃ (g : Fin 8) (ramps : List (Option Nat)) (s : State) (m : LevMeas) (js : List MeasJob), s.grps[g].jobs = .level m :: js ∧ m.slope = true ∧ (m.count ≤ m.dts.length ∨ m.startTick + 4000 * m.timeout ≤ s.tick) :=
  ⟨0, [], st0.modGrp 0 (fun x => { x with jobs := [.level { slope := true }] }), { slope := true }, [], by decide +kernel, by decide +kernel, by decide +kernel⟩

theorem test_meets_levelMeasureDone2 : ∃ (g : Fin 8) (ramps : List (Option Nat)) (s : State) (m : LevMeas) (js : List MeasJob), s.grps[g].jobs = .level m :: js ∧ m.slope = false ∧ ramps.length = m.ramps ∧ (∀ d, some d ∈ ramps → d ≤ m.sweep) ∧ m.startTick * 512 + m.ramps * (1000 * 2048 + m.sweep) ≤ s.metro :=
  ⟨0, [none], (later st0 4000).modGrp 0 (fun x => { x with jobs := [.level { ramps := 1, rate := 1 }] }), { ramps := 1, rate := 1 }, [], by decide +kernel, by decide +kernel, by decide +kernel, by simp, by decide +kernel⟩

theorem test_meets_compCheckDone : ∃ (g : Fin 8) (errs : List (Int × Int)) (s : State) (m : CompChk) (js : List MeasJob), s.grps[g].jobs = .check m :: js ∧ errs.length = (chansOfMask m.mask).length ∧ m.startTick + 4000 * (if m.tie then 120 else 40) ≤ s.tick :=
  ⟨0, [(0, 0)], (later st0 160000).modGrp 0 (fun x => { x with jobs := [.check { mask := 1 }] }), { mask := 1 }, [], by decide +kernel, by decide +kernel, by decide +kernel⟩

theorem test_meets_strobe : ∃ (p : Fin 128) (s : State) (e : StrobeEv) (es : List StrobeEv), s.pins[p].strobeQ = e :: es ∧ (e.closes + 4096) / 512 ≤ s.tick :=
  ⟨0, ((later st0 8)).modPin 0 (fun x => { x with strobeQ := [{}] }), {}, [], by decide +kernel, by decide +kernel⟩

theorem test_meets_flogSlotDrain : ∃ (s : State) (q : Fin 4), s.slotFree = true ∧ s.slot ∈ [4, 20, 36, 52] ∧ s.flogTurn = some q :=
  ⟨(later st0 16).modFlog 3 (fun f => { f with staging := [{}] }), 3, by decide +kernel, by decide +kernel, by decide +kernel⟩

theorem test_meets_capArmed : ∃ (i : Fin 8) (s : State), s.caps[i].admitted = true ∧ s.caps[i].armTick ≤ s.tick :=
  ⟨0, (st0).modCap 0 (fun x => { x with admitted := true }), by decide +kernel, by decide +kernel⟩

theorem test_meets_triggerEval : ∃ (i : Fin 8) (s : State), s.caps[i].armed = true ∧ s.capRuns i = true :=
  ⟨0, ((st0).modSeq 0 (fun x => { x with st := .running })).modCap 0 (fun x => { x with st := .ready }), by decide +kernel, by decide +kernel⟩

theorem test_meets_autoTrigger : ∃ (i : Fin 8) (s : State), (let u := s.trigEval i; (u.cfg.caps[i]).mode = 2) ∧ (let u := s.trigEval i; (u.caps[i]).st = .ready) ∧ (let u := s.trigEval i; (u.caps[i]).readyTick + 4000 * (u.cfg.caps[i]).autoUs ≤ u.tick) :=
  ⟨0, { (((later st0 4000)).modCap 0 (fun x => { x with st := .ready })) with cfg := st0.cfg.modCap 0 (fun x => { x with mode := 2, autoUs := 1 }) }, by decide +kernel, by decide +kernel, by decide +kernel⟩

theorem test_meets_captureEnd : ∃ (i : Fin 8) (s : State), s.caps[i].st = .post ∧ (let u := s.capSync (s.cfg.caps[i]).seq; (u.caps[i]).st = .post) ∧ ((s.capSync (s.cfg.caps[i]).seq).caps[i]).postVec < ((s.capSync (s.cfg.caps[i]).seq).caps[i]).vecsIn :=
  ⟨0, (st0).modCap 0 (fun x => { x with st := .post, vecsIn := 1 }), by decide +kernel, by decide +kernel, by decide +kernel⟩

theorem test_meets_rearmDone : ∃ (i : Fin 8) (s : State), s.caps[i].st = .rearm ∧ s.caps[i].rearmAt ≤ s.tick :=
  ⟨0, (st0).modCap 0 (fun x => { x with st := .rearm }), by decide +kernel, by decide +kernel⟩

theorem test_meets_singleDrained : ∃ (i : Fin 8) (s : State), s.caps[i].st = .done ∧ s.caps[i].undrained = false :=
  ⟨0, (st0).modCap 0 (fun x => { x with st := .done }), by decide +kernel, by decide +kernel⟩

theorem test_meets_ladderEval : ∃ (i : Fin 8) (s : State), s.caps[i].armed = true ∧ s.tick % 256 = 0 ∧ s.caps[i].missedBar = s.tick / 256 ∧ (let e := s.caps[i]; let high := decide (3 * e.room < 4 * e.ringUnits); (high = true ∨ 1536 < e.stageUnits)) ∧ (let e := s.caps[i]; let high := decide (3 * e.room < 4 * e.ringUnits); e.level < 3) ∧ (let e := s.caps[i]; let high := decide (3 * e.room < 4 * e.ringUnits); (∀ b, e.lastDown = some b → b + 16 ≤ s.tick / 256)) :=
  ⟨0, (st0).modCap 0 (fun x => { x with st := .ready, staging := List.replicate 1537 { bytes := zeros 32 } }), by decide +kernel, by decide +kernel, by decide +kernel, by decide +kernel, by decide +kernel, by decide +kernel⟩

theorem test_meets_capSlotWrite : ∃ (i : Fin 8) (s : State), s.slotFree = true ∧ s.slot ∈ s.caps[i].slots ∧ s.caps[i].staging ≠ [] :=
  ⟨0, ((later st0 4)).modCap 0 (fun x => { x with staging := [{}], slots := [1] }), by decide +kernel, by decide +kernel, by decide +kernel⟩

theorem test_meets_tmuSettingDone : ∃ (u : Fin 16) (c1s c2s c1p c2p : Nat) (s : State), s.tmus[u].st = .setting ∧ s.tmus[u].enterAt + 16 * 2048 ≤ s.metro :=
  ⟨0, 0, 0, 0, 0, ((later st0 64)).modTmu 0 (fun x => { x with st := .setting }), by decide +kernel, by decide +kernel⟩

theorem test_meets_tmuWindowOpen : ∃ (u : Fin 16) (i : TmuIn) (rest : List TmuIn) (s : State), s.tmus[u].inq = i :: rest ∧ s.tmus[u].st ≠ .idle ∧ i.due / 512 ≤ s.tick ∧ s.tmus[u].waits i.t = false ∧ i.sig = .opens :=
  ⟨0, { sig := .opens }, [], (st0).modTmu 0 (fun x => { x with st := .ready, inq := [{ sig := .opens }] }), by decide +kernel, by decide +kernel, by decide +kernel, by decide +kernel, by decide +kernel⟩

theorem test_meets_tmuWindowOpen2 : ∃ (u : Fin 16) (i : TmuIn) (rest : List TmuIn) (s : State), s.tmus[u].inq = i :: rest ∧ s.tmus[u].st ≠ .idle ∧ i.due / 512 ≤ s.tick ∧ s.tmus[u].waits i.t = false ∧ i.sig = .closes :=
  ⟨0, { sig := .closes }, [], (st0).modTmu 0 (fun x => { x with st := .ready, inq := [{ sig := .closes }] }), by decide +kernel, by decide +kernel, by decide +kernel, by decide +kernel, by decide +kernel⟩

theorem test_meets_tmuWindowOpen3 : ∃ (u : Fin 16) (i : TmuIn) (rest : List TmuIn) (s : State), s.tmus[u].inq = i :: rest ∧ s.tmus[u].st ≠ .idle ∧ i.due / 512 ≤ s.tick ∧ s.tmus[u].waits i.t = false ∧ i.sig = .stop :=
  ⟨0, { sig := .stop }, [], (st0).modTmu 0 (fun x => { x with st := .ready, inq := [{ sig := .stop }] }), by decide +kernel, by decide +kernel, by decide +kernel, by decide +kernel, by decide +kernel⟩

theorem test_meets_tmuRangeExpire : ∃ (u : Fin 16) (s : State), s.tmus[u].st = .measuring ∧ (laterOf s.tmus[u].start s.tmus[u].stop + 2 ^ 49) / 512 ≤ s.tick :=
  ⟨0, ((later st0 (2 ^ 40))).modTmu 0 (fun x => { x with st := .measuring }), by decide +kernel, by decide +kernel⟩

theorem test_meets_tmuLatch : ∃ (u : Fin 16) (s : State), s.tmus[u].st = .latch ∧ (s.tmus[u].doneAt + 4 * 2048) / 512 ≤ s.tick :=
  ⟨0, ((later st0 16)).modTmu 0 (fun x => { x with st := .latch }), by decide +kernel, by decide +kernel⟩

theorem test_meets_xbHostRead : ∃ (off be : Nat) (s : State), s.link.linkUp = true ∧ s.xbOpen = true ∧ off < 0x30000 ∧ be % 16 ≠ 0 :=
  ⟨0x2FFFC, 15, stInit, by decide +kernel, by decide +kernel, by decide +kernel, by decide +kernel⟩

theorem test_meets_xbHostWrite : ∃ (off be : Nat) (v : Word) (s : State), s.link.linkUp = true ∧ s.xbOpen = true ∧ off < 0x30000 ∧ be % 16 ≠ 0 :=
  ⟨0x2FFFC, 15, 1, stInit, by decide +kernel, by decide +kernel, by decide +kernel, by decide +kernel⟩

theorem test_meets_xbSetAliasWrite : ∃ (off be : Nat) (v : Word) (s : State), s.link.linkUp = true ∧ s.xbOpen = true ∧ off < 0x30000 ∧ be % 16 ≠ 0 :=
  ⟨0x2FFFC, 15, 1, stInit, by decide +kernel, by decide +kernel, by decide +kernel, by decide +kernel⟩

theorem test_meets_xbClrAliasWrite : ∃ (off be : Nat) (v : Word) (s : State), s.link.linkUp = true ∧ s.xbOpen = true ∧ off < 0x30000 ∧ be % 16 ≠ 0 :=
  ⟨0x2FFFC, 15, 1, stInit, by decide +kernel, by decide +kernel, by decide +kernel, by decide +kernel⟩

theorem test_meets_xpRead : ∃ (w : Fin 16384) (pt2 : Bool) (s : State), s.xbOpen = true ∧ s.sram.lastB.hits s.bankCycle w.val false = false :=
  ⟨16383, true, stInit, by decide +kernel, by decide +kernel⟩

theorem test_meets_xpWrite : ∃ (w : Fin 16384) (v : Word) (pt2 : Bool) (s : State), s.xbOpen = true ∧ s.sram.lastB.hits s.bankCycle w.val true = false :=
  ⟨16383, 1, true, stInit, by decide +kernel, by decide +kernel⟩

theorem test_meets_brushScrub : ∃ (m : Fin 9) (errs : List MemErr) (s : State), s.brush[m].initDone = true ∧ m ≠ 8 ∧ s.brush[m].lastOpp + brushPace m.val ≤ s.tick ∧ (m = 1 → s.sram.lastB.cycle ≠ some s.bankCycle) :=
  ⟨7, [], (later stInit 40), by decide +kernel, by decide +kernel, by decide +kernel, by decide +kernel⟩

theorem test_meets_brushScrub2 : ∃ (errs : List MemErr) (s : State), s.brush[(8 : Fin 9)].initDone = true ∧ s.idleSlot = true ∧ s.slotFree = true ∧ s.store.reads = [] ∧ s.brushUsedBar = false :=
  ⟨[], (later stInit 4), by decide +kernel, by decide +kernel, by decide +kernel, by decide +kernel, by decide +kernel⟩

theorem test_meets_brushStall : ∃ (m : Fin 9) (s : State), s.brush[m].initDone = true ∧ s.brush[m].stalling = false ∧ s.brush[m].lastOpp + 4000000 ≤ s.tick :=
  ⟨0, (later stInit 4000000), by decide +kernel, by decide +kernel, by decide +kernel⟩

theorem test_meets_idleSlot : ∃ (errs : List MemErr) (s : State), s.idleSlot = true ∧ s.slotFree = true ∧ s.store.reads = [] ∧ s.brushUsedBar = false ∧ s.brush[(8 : Fin 9)].initDone = true :=
  ⟨[], (later stInit 4), by decide +kernel, by decide +kernel, by decide +kernel, by decide +kernel, by decide +kernel⟩

theorem test_meets_idleSlot2 : ∃ (errs : List MemErr) (s : State), s.idleSlot = true ∧ s.slotFree = true ∧ s.store.reads = [{}] :=
  ⟨[], (later stInit 4).modStore (fun t => { t with reads := [{}] }), by decide +kernel, by decide +kernel, by decide +kernel⟩

theorem test_meets_seqSlotFetch : ∃ (q : Fin 4) (alt : Bool) (addr : Nat) (errs : List MemErr) (s : State), (s.seqs[q].st = .admitted ∨ s.seqs[q].st = .running) ∧ s.slotFree = true ∧ s.slot ∈ s.seqs[q].slots ∧ addr < 2 ^ 42 :=
  ⟨0, false, 64, [], ((later st0 4)).modSeq 0 (fun x => { x with st := .running, slots := [1] }), by decide +kernel, by decide +kernel, by decide +kernel, by decide +kernel⟩

theorem test_meets_hostinSlot : ∃ (s : State) (w : HostIn), s.slotFree = true ∧ s.slot ∈ [0, 16, 32, 48] ∧ s.nextHostIn = some w :=
  ⟨st0.modStore (fun t => { t with hostin := [{}] }), {}, by decide +kernel, by decide +kernel, by decide +kernel⟩

theorem test_meets_hostoutSlot : ∃ (s : State) (q : Fin 4) (d : DrainOp) (ds : List DrainOp), s.slotFree = true ∧ s.slot ∈ [8, 24, 40, 56] ∧ s.drainTurn = some q ∧ s.flogs[q].drains = d :: ds ∧ (s.capTurn = none ∨ s.outFlog = true) :=
  ⟨(later st0 32).modFlog 0 (fun f => { f with drains := [{}] }), 0, {}, [], by decide +kernel, by decide +kernel, by decide +kernel, by decide +kernel, by decide +kernel⟩

theorem test_meets_hostoutSlot2 : ∃ (s : State) (i : Fin 8) (h : Hdr), s.slotFree = true ∧ s.slot ∈ [8, 24, 40, 56] ∧ s.capTurn = some (i, h) ∧ (s.drainTurn = none ∨ s.outFlog = false) :=
  ⟨((later st0 32)).modCap 0 (fun x => { x with hdr := some {}, segment := [{ kept := true }] }), 0, {}, by decide +kernel, by decide +kernel, by decide +kernel, by decide +kernel⟩

theorem test_meets_maintSlot : ∃ (s : State), s.slotFree = true ∧ s.slot ∈ [12, 15, 28, 31, 44, 47, 60] :=
  ⟨(later st0 48), by decide +kernel, by decide +kernel⟩

theorem test_meets_supSlot : ∃ (s : State), s.slotFree = true ∧ s.slot = 63 ∧ s.planTurn = none :=
  ⟨(later st0 252), by decide +kernel, by decide +kernel, by decide +kernel⟩

theorem test_meets_supSlot2 : ∃ (s : State), s.slotFree = true ∧ s.slot = 63 ∧ s.planTurn = some 0 :=
  ⟨((later st0 252)).modSeq 0 (fun x => { x with st := .running, planRest := [{ page := 3, firstUse := 0 }] }), by decide +kernel, by decide +kernel, by decide +kernel⟩

theorem test_meets_tuneFullDieDone : ∃ (res : List TuneRes) (s : State) (f : FullPass) (fs : List FullPass) (d : Fin 4) (ds : List (Fin 4)), s.tune.full = f :: fs ∧ f.dies = d :: ds ∧ s.fullFault f = true :=
  ⟨[], ((st0).modTune (fun t => { t with full := [{ dies := [0, 1], dieTick := 6 }] })).modGong (fun x => { x with fault := true, faultTick := 5 }), { dies := [0, 1], dieTick := 6 }, [], 0, [1], by decide +kernel, by decide +kernel, by decide +kernel⟩

theorem test_meets_tuneFullDieDone2 : ∃ (res : List TuneRes) (s : State) (f : FullPass) (fs : List FullPass) (d : Fin 4) (ds : List (Fin 4)), s.tune.full = f :: fs ∧ f.dies = d :: ds ∧ s.fullFault f = false ∧ s.senderGone f.hdr = true :=
  ⟨[], (st0).modTune (fun t => { t with full := [{ dies := [0], hdr := { gone := true } }] }), { dies := [0], hdr := { gone := true } }, [], 0, [], by decide +kernel, by decide +kernel, by decide +kernel, by decide +kernel⟩

theorem test_meets_tuneFullDieDone3 : ∃ (res : List TuneRes) (s : State) (f : FullPass) (fs : List FullPass) (d : Fin 4) (ds : List (Fin 4)), s.tune.full = f :: fs ∧ f.dies = d :: ds ∧ s.fullFault f = false ∧ s.senderGone f.hdr = false ∧ f.dieTick + 4000000000 * 2 ≤ s.tick ∧ ds ≠ [] :=
  ⟨[], ((later st0 8000000000)).modTune (fun t => { t with full := [{ dies := [0, 1] }] }), { dies := [0, 1] }, [], 0, [1], by decide +kernel, by decide +kernel, by decide +kernel, by decide +kernel, by decide +kernel, by decide +kernel⟩

theorem test_meets_tuneFullDieDone4 : ∃ (res : List TuneRes) (s : State) (f : FullPass) (fs : List FullPass) (d : Fin 4) (ds : List (Fin 4)), s.tune.full = f :: fs ∧ f.dies = d :: ds ∧ s.fullFault f = false ∧ s.senderGone f.hdr = false ∧ f.dieTick + 4000000000 * 2 ≤ s.tick ∧ (s.fullApply f d res).tune.full ≠ [] :=
  ⟨[], ((later st0 8000000000)).modTune (fun t => { t with full := [{ dies := [0] }] }), { dies := [0] }, [], 0, [], by decide +kernel, by decide +kernel, by decide +kernel, by decide +kernel, by decide +kernel, by decide +kernel⟩

theorem test_meets_reflectDone : ∃ (g : Fin 8) (trips : List (Option Nat)) (s : State) (r : Reflect), s.tune.reflects.find? (fun r => r.grp == g) = some r ∧ trips.length = (setBits 16 r.mask).length ∧ r.startTick + 4000 * (10 * (setBits 16 r.mask).length) ≤ s.tick :=
  ⟨0, [none], ((later st0 40000)).modTune (fun t => { t with reflects := [{ mask := 1 }] }), { mask := 1 }, by decide +kernel, by decide +kernel, by decide +kernel⟩

theorem test_meets_calStoreDone : ∃ (ok : Bool) (s : State) (h : Hdr), s.tune.storing = some h :=
  ⟨true, (st0).modTune (fun t => { t with storing := some {} }), {}, by decide +kernel⟩

theorem test_meets_calStoreDone2 : ∃ (ok : Bool) (s : State) (h : Hdr), s.tune.storing = some h :=
  ⟨false, (st0).modTune (fun t => { t with storing := some {} }), {}, by decide +kernel⟩

theorem test_meets_gapCalibration : ∃ (p : Fin 128) (cell : Fin 7) (meas gain : Int) (s : State), s.grps[grpOf p].take.live = true ∧ s.tuned (grpOf p) = false ∧ s.pins[p].gap cell s.tick = true ∧ (∀ t, (s.pins[p].cells[cell]).lastUpd = some t → t + 4000 * 10 ≤ s.tick) ∧ gain.natAbs ≤ 30000 :=
  ⟨0, 0, 1, 30000, st0, by decide +kernel, by decide +kernel, by decide +kernel, by decide +kernel, by decide +kernel⟩

theorem test_meets_gapCalibration2 : ∃ (p : Fin 128) (cell : Fin 7) (meas gain : Int) (s : State), s.grps[grpOf p].take.live = true ∧ s.tuned (grpOf p) = false ∧ s.pins[p].gap cell s.tick = true ∧ (∀ t, (s.pins[p].cells[cell]).lastUpd = some t → t + 4000 * 10 ≤ s.tick) ∧ 30000 < gain.natAbs :=
  ⟨0, 6, 1, -30001, st0, by decide +kernel, by decide +kernel, by decide +kernel, by decide +kernel, by decide +kernel⟩

theorem test_meets_edgeCellStarved : ∃ (p : Fin 128) (cell : Fin 7) (s : State), cell.val < 6 ∧ s.grps[grpOf p].take.live = true ∧ (s.pins[p].cells[cell]).lastGap + 4000000 * 10 ≤ s.tick :=
  ⟨0, 5, (later st0 40000000), by decide +kernel, by decide +kernel, by decide +kernel⟩

theorem test_meets_takeoverCycle : ∃ (g : Fin 8) (s : State), s.grps[g].take.live = true ∧ s.gong.fault = false ∧ s.tuned g = false ∧ s.grps[g].take.st = .idle ∧ s.grps[g].take.carried = none ∧ (s.grps[g].take.tapBusy = true ∨ s.grps[g].take.cycleTick + 4000000 * s.grps[g].take.ms ≤ s.tick) ∧ s.grpRuns g = false :=
  ⟨0, (st0).modGrp 0 (fun x => { x with take := { x.take with tapBusy := true } }), by decide +kernel, by decide +kernel, by decide +kernel, by decide +kernel, by decide +kernel, by decide +kernel, by decide +kernel⟩

theorem test_meets_takeoverCycle2 : ∃ (g : Fin 8) (s : State), s.grps[g].take.live = true ∧ s.gong.fault = false ∧ s.tuned g = false ∧ s.grps[g].take.st = .idle ∧ s.grps[g].take.carried = none ∧ (s.grps[g].take.tapBusy = true ∨ s.grps[g].take.cycleTick + 4000000 * s.grps[g].take.ms ≤ s.tick) ∧ s.grpRuns g = true ∧ ((List.finRange 16).map (fun i => s.grps[g].take.next + i)).find? (s.eligible g) = some 0 :=
  ⟨0, ((st0).modSeq 0 (fun x => { x with st := .running })).modGrp 0 (fun x => { x with take := { x.take with tapBusy := true } }), by decide +kernel, by decide +kernel, by decide +kernel, by decide +kernel, by decide +kernel, by decide +kernel, by decide +kernel, by decide +kernel⟩

theorem test_meets_takeoverPrepareDone : ∃ (g : Fin 8) (r : Int) (o : Option Nat) (s : State), s.grps[g].take.st = .prepare ∧ s.tuned g = false ∧ s.tick ≤ s.grps[g].take.phaseTick + 4000 * 250 ∧ s.adcBusy g = false ∧ r.natAbs ≤ 2000 :=
  ⟨0, -2000, some 1, (st0).modGrp 0 (fun x => { x with take := { x.take with st := .prepare } }), by decide +kernel, by decide +kernel, by decide +kernel, by decide +kernel, by decide +kernel⟩

theorem test_meets_takeoverPrepareDone2 : ∃ (g : Fin 8) (r : Int) (o : Option Nat) (s : State), s.grps[g].take.st = .prepare ∧ s.tuned g = false ∧ s.tick ≤ s.grps[g].take.phaseTick + 4000 * 250 ∧ s.adcBusy g = false ∧ ¬ r.natAbs ≤ 2000 :=
  ⟨0, 2001, none, (st0).modGrp 0 (fun x => { x with take := { x.take with st := .prepare } }), by decide +kernel, by decide +kernel, by decide +kernel, by decide +kernel, by decide +kernel⟩

theorem test_meets_handoff : ∃ (g : Fin 8) (s : State), s.grps[g].take.direct = false ∧ s.tuned g = false ∧ s.handoffNow g = true ∧ s.grps[g].take.st = .search :=
  ⟨0, ((st0).modSeq 0 (fun x => { x with st := .running, lastAddr := 7, hist := [{ addr := 7 }] })).modGrp 0 (fun x => { x with take := { x.take with st := .search, handAddr := some 7 } }), by decide +kernel, by decide +kernel, by decide +kernel, by decide +kernel⟩

theorem test_meets_handoff2 : ∃ (g : Fin 8) (s : State), s.grps[g].take.direct = false ∧ s.tuned g = false ∧ s.handoffNow g = true ∧ s.grps[g].take.st = .handback ∧ s.slowEnough g = true :=
  ⟨0, ((st0).modSeq 0 (fun x => { x with st := .running, lastAddr := 7, hist := [{ addr := 7 }] })).modGrp 0 (fun x => { x with take := { x.take with st := .handback, handAddr := some 7 } }), by decide +kernel, by decide +kernel, by decide +kernel, by decide +kernel, by decide +kernel⟩

theorem test_meets_takeoverDefer : ∃ (g : Fin 8) (o : Option Nat) (s : State), (let late := s.grps[g].take.handAddr = none ∨ s.grps[g].take.phaseTick + 4000 * 100 ≤ s.tick ∨ s.issuing g = false; late) ∧ s.grps[g].take.st = .search :=
  ⟨0, none, (st0).modGrp 0 (fun x => { x with take := { x.take with st := .search } }), by decide +kernel, by decide +kernel⟩

theorem test_meets_takeoverDefer2 : ∃ (g : Fin 8) (o : Option Nat) (s : State), (let late := s.grps[g].take.handAddr = none ∨ s.grps[g].take.phaseTick + 4000 * 100 ≤ s.tick ∨ s.issuing g = false; late) ∧ s.grps[g].take.st = .handback ∧ s.issuing g = true :=
  ⟨0, some 1, ((st0).modSeq 0 (fun x => { x with st := .running })).modGrp 0 (fun x => { x with take := { x.take with st := .handback } }), by decide +kernel, by decide +kernel, by decide +kernel⟩

theorem test_meets_carryDone : ∃ (g : Fin 8) (res : List TuneRes) (o : Option Nat) (s : State), s.grps[g].take.st = .carry ∧ s.tuned g = false ∧ s.adcBusy g = false ∧ s.tick ≤ s.grps[g].take.phaseTick + 4000 * 300 :=
  ⟨0, [], none, (st0).modGrp 0 (fun x => { x with take := { x.take with st := .carry } }), by decide +kernel, by decide +kernel, by decide +kernel, by decide +kernel⟩

theorem test_meets_handbackAfterBurst : ∃ (g : Fin 8) (s : State) (e : Fin 16) (t : Nat), s.grps[g].take.carried = some e ∧ s.grps[g].take.endAt = some t ∧ (t + 100 * 2048) / 512 ≤ s.tick :=
  ⟨0, ((later st0 400)).modGrp 0 (fun x => { x with take := { x.take with carried := some 3, endAt := some 0 } }), 3, 0, by decide +kernel, by decide +kernel, by decide +kernel⟩

theorem test_meets_enumeration : ∃ (count : Nat) (own : Bool) (s : State), s.ring.bypass = false ∧ s.ring.master = false :=
  ⟨33, true, (st0).modBeat (fun x => { x with bypass := false }), by decide +kernel, by decide +kernel⟩

theorem test_meets_enumeration2 : ∃ (count : Nat) (own : Bool) (s : State), s.ring.bypass = false ∧ s.ring.master = true ∧ own = true ∧ s.ring.inTraining = true ∧ 1 ≤ count ∧ count ≤ 32 :=
  ⟨32, true, (st0).modBeat (fun x => { x with bypass := false, master := true, inTraining := true }), by decide +kernel, by decide +kernel, by decide +kernel, by decide +kernel, by decide +kernel, by decide +kernel⟩

theorem test_meets_enumeration3 : ∃ (count : Nat) (own : Bool) (s : State), s.ring.bypass = false ∧ s.ring.master = true ∧ own = true ∧ s.ring.inTraining = true ∧ 32 < count :=
  ⟨33, true, (st0).modBeat (fun x => { x with bypass := false, master := true, inTraining := true }), by decide +kernel, by decide +kernel, by decide +kernel, by decide +kernel, by decide +kernel⟩

theorem test_meets_enumeration4 : ∃ (count : Nat) (own : Bool) (s : State), s.ring.bypass = false ∧ s.ring.master = true ∧ own = false ∧ s.ring.conflict = false ∧ s.ring.inTraining = false :=
  ⟨2, false, (st0).modBeat (fun x => { x with bypass := false, master := true }), by decide +kernel, by decide +kernel, by decide +kernel, by decide +kernel, by decide +kernel⟩

theorem test_meets_loopMeasured : ∃ (raw : Nat) (passes : List Nat) (s : State), s.ring.master = true ∧ s.ring.inTraining = true ∧ s.ring.st = .training ∧ (let b := s.ring; let n := b.countNew + 1; let ps := (List.range n).map (fun k => passes.getD k 0); let decl := (List.range n).map (fun k => (fsToFine b.flights[fin 32 k]).toNat); let rem : Int := (raw : Int) - (ps.sum : Nat) - (decl.sum : Nat); let fs := shareFlights decl rem; let frames := max 1 (raw / (1024 * n)); let ui := ceilDiv (raw * 25) (4096 * frames); let loop := (2 * frames * ui * 4096 + 25) / 50; 18432 * n < loop) :=
  ⟨40000, [1000], (st0).modBeat (fun x => { x with master := true, inTraining := true, st := .training }), by decide +kernel, by decide +kernel, by decide +kernel, by decide +kernel⟩

theorem test_meets_loopMeasured2 : ∃ (raw : Nat) (passes : List Nat) (s : State), s.ring.master = true ∧ s.ring.inTraining = true ∧ s.ring.st = .training ∧ (let b := s.ring; let n := b.countNew + 1; let ps := (List.range n).map (fun k => passes.getD k 0); let decl := (List.range n).map (fun k => (fsToFine b.flights[fin 32 k]).toNat); let rem : Int := (raw : Int) - (ps.sum : Nat) - (decl.sum : Nat); let fs := shareFlights decl rem; let frames := max 1 (raw / (1024 * n)); let ui := ceilDiv (raw * 25) (4096 * frames); let loop := (2 * frames * ui * 4096 + 25) / 50; loop ≤ 18432 * n ∧ (∀ k, k < n → ps.getD k 0 + fs.getD k 0 ≤ 18432) ∧ 0 ∈ decl) :=
  ⟨2000, [1000], (st0).modBeat (fun x => { x with master := true, inTraining := true, st := .training }), by decide +kernel, by decide +kernel, by decide +kernel, by decide +kernel⟩

theorem test_meets_countLoad : ∃ (m dk : Nat) (s : State), s.ring.inTraining = true ∧ s.ring.loaded = false ∧ s.ring.master = true :=
  ⟨512, 3, (st0).modBeat (fun x => { x with inTraining := true, master := true }), by decide +kernel, by decide +kernel, by decide +kernel⟩

theorem test_meets_countLoad2 : ∃ (m dk : Nat) (s : State), s.ring.inTraining = true ∧ s.ring.loaded = false ∧ s.ring.master = false :=
  ⟨512, 3, (st0).modBeat (fun x => { x with inTraining := true }), by decide +kernel, by decide +kernel, by decide +kernel⟩

theorem test_meets_trainingEnd : ∃ (s : State), s.ring.inTraining = true ∧ s.ring.loaded = true ∧ (s.ring.master = true ∨ 3 ≤ s.ring.goodDbs) :=
  ⟨(st0).modBeat (fun x => { x with inTraining := true, loaded := true, goodDbs := 3 }), by decide +kernel, by decide +kernel, by decide +kernel⟩

theorem test_meets_trainTimeout : ∃ (s : State), s.ring.inTraining = true ∧ s.ring.trainStart + 4000000 * 4 + 8 * 2 ^ (if s.ring.master then s.ring.dbLog2 else s.ring.db) ≤ s.tick :=
  ⟨((later st0 16524288)).modBeat (fun x => { x with inTraining := true, dbTrained := 16 }), by decide +kernel, by decide +kernel⟩

theorem test_meets_controlBlock : ∃ (cb : CtlBlock) (s : State), s.ring.bypass = false ∧ cb.kind = 0 ∧ s.ring.inTraining = false :=
  ⟨{ kind := 0 }, (st0).modBeat (fun x => { x with bypass := false }), by decide +kernel, by decide +kernel, by decide +kernel⟩

theorem test_meets_controlBlock2 : ∃ (cb : CtlBlock) (s : State), s.ring.bypass = false ∧ cb.kind = 0 ∧ s.ring.master = true ∧ s.ring.inTraining = true ∧ cb.running = true :=
  ⟨{ kind := 0, running := true }, (st0).modBeat (fun x => { x with bypass := false, master := true, inTraining := true }), by decide +kernel, by decide +kernel, by decide +kernel, by decide +kernel, by decide +kernel⟩

theorem test_meets_controlBlock3 : ∃ (cb : CtlBlock) (s : State), s.ring.bypass = false ∧ cb.kind = 1 ∧ s.ring.master = false ∧ s.ring.inTraining = true :=
  ⟨{ kind := 1 }, (st0).modBeat (fun x => { x with bypass := false, inTraining := true }), by decide +kernel, by decide +kernel, by decide +kernel, by decide +kernel⟩

theorem test_meets_controlBlock4 : ∃ (cb : CtlBlock) (s : State), s.ring.bypass = false ∧ cb.kind = 2 ∧ s.ring.master = false ∧ s.ring.inTraining = true :=
  ⟨{ kind := 2 }, (st0).modBeat (fun x => { x with bypass := false, inTraining := true }), by decide +kernel, by decide +kernel, by decide +kernel, by decide +kernel⟩

theorem test_meets_decisionWord : ∃ (w : Word) (valid : Bool) (s : State), s.ring.trained = true :=
  ⟨1, true, st0, by decide +kernel⟩

theorem test_meets_gtSlot : ∃ (pos : Fin 32) (slot : BitVec 16) (valid : Bool) (s : State), s.ring.trained = true ∧ pos.val ≤ s.ring.countM1 ∧ pos.val = s.ring.pos :=
  ⟨0, 0x8000, true, st0, by decide +kernel, by decide +kernel, by decide +kernel⟩

theorem test_meets_gtSlot2 : ∃ (pos : Fin 32) (slot : BitVec 16) (valid : Bool) (s : State), s.ring.trained = true ∧ pos.val ≤ s.ring.countM1 ∧ pos.val ≠ s.ring.pos ∧ valid = false :=
  ⟨1, 0x8000, false, (st0).modBeat (fun x => { x with countM1 := 1 }), by decide +kernel, by decide +kernel, by decide +kernel, by decide +kernel⟩

theorem test_meets_gtSlot3 : ∃ (pos : Fin 32) (slot : BitVec 16) (valid : Bool) (s : State), s.ring.trained = true ∧ pos.val ≤ s.ring.countM1 ∧ pos.val ≠ s.ring.pos ∧ valid = true ∧ bit slot.toNat 15 = true :=
  ⟨1, 0x8000, true, (st0).modBeat (fun x => { x with countM1 := 1 }), by decide +kernel, by decide +kernel, by decide +kernel, by decide +kernel, by decide +kernel⟩

theorem test_meets_downbeat : ∃ (tick carried measured : Nat) (s : State), s.ring.follows = true ∧ tick % 2 ^ s.ring.db = 0 ∧ s.ring.master = true :=
  ⟨0, 0, 0, (st0).modBeat (fun x => { x with master := true }), by decide +kernel, by decide +kernel, by decide +kernel⟩

theorem test_meets_downbeat2 : ∃ (tick carried measured : Nat) (s : State), s.ring.follows = true ∧ tick % 2 ^ s.ring.db = 0 ∧ s.ring.master = false ∧ (let e : Int := (measured : Int) - (((tick + carried) * 512 + s.ring.delay : Nat) : Int); 64 < e.natAbs) :=
  ⟨0, 0, 65, st0, by decide +kernel, by decide +kernel, by decide +kernel, by decide +kernel⟩

theorem test_meets_downbeat3 : ∃ (tick carried measured : Nat) (s : State), s.ring.follows = true ∧ tick % 2 ^ s.ring.db = 0 ∧ s.ring.master = false ∧ (let e : Int := (measured : Int) - (((tick + carried) * 512 + s.ring.delay : Nat) : Int); e.natAbs ≤ 64) :=
  ⟨0, 0, 64, st0, by decide +kernel, by decide +kernel, by decide +kernel, by decide +kernel⟩

theorem test_meets_alignStep : ∃ (s : State), s.ring.corr ≠ 0 ∧ s.ring.corrDone < 8 ∧ s.ring.corrBar ≠ s.tick / 256 :=
  ⟨((later st0 256)).modBeat (fun x => { x with corr := -1 }), by decide +kernel, by decide +kernel, by decide +kernel⟩

theorem test_meets_downbeatMissed : ∃ (s : State), s.ring.follows = true :=
  ⟨st0, by decide +kernel⟩

theorem test_meets_ringErrorBlock : ∃ (lane : Fin 4) (s : State), s.ring.bypass = false :=
  ⟨3, (st0).modBeat (fun x => { x with bypass := false }), by decide +kernel⟩

theorem test_meets_ringLaneLock : ∃ (lane : Fin 4) (s : State), s.laneReported lane = true ∧ s.ring.laneLock[lane] = false :=
  ⟨3, (st0).modGong (fun x => { x with inbox := [{ src := 0x0A, inst := 3 }] }), by decide +kernel, by decide +kernel⟩

theorem test_meets_fwUpdateDone : ∃ (s : State) (h : Hdr) (op : Nat), s.sec.fwHdr = some (h, op) :=
  ⟨(st0).modSec (fun x => { x with fwHdr := some ({}, 1) }), {}, 1, by decide +kernel⟩

theorem test_meets_challengeExpire : ∃ (c : Fin 8) (s : State), s.challengeOk c = false :=
  ⟨0, ((later st0 40000000000)).modCtx 0 (fun x => { x with challenge := zeros 32 }), by decide +kernel⟩

theorem test_meets_lockoutExpire : ∃ (s : State) (t : Nat), s.sec.lockTick = some t ∧ t + 4000000000 ≤ s.tick :=
  ⟨((later st0 4000000000)).modSec (fun x => { x with lockTick := some 0 }), 0, by decide +kernel, by decide +kernel⟩

theorem test_meets_offerExpire : ∃ (c : Fin 8) (s : State), s.ctxs[c].session.offered = true ∧ s.ctxs[c].session.offerTick + 4000000000 * 10 ≤ s.tick :=
  ⟨0, ((later st0 40000000000)).modCtx 0 (fun x => { x with session := { offered := true } }), by decide +kernel, by decide +kernel⟩

theorem test_meets_zeroizeDone : ∃ (s : State) (l : Nat), s.sec.zeroing = some l ∧ s.sealedRuns = false ∧ s.sec.debugHdr = none :=
  ⟨(st0).modSec (fun x => { x with zeroing := some 0 }), 0, by decide +kernel, by decide +kernel, by decide +kernel⟩

theorem test_meets_zeroizeDone2 : ∃ (s : State) (l : Nat), s.sec.zeroing = some l ∧ s.sealedRuns = false ∧ s.sec.debugHdr = some ({}, 1) :=
  ⟨(st0).modSec (fun x => { x with zeroing := some 0, debugHdr := some ({}, 1) }), 0, by decide +kernel, by decide +kernel, by decide +kernel⟩

theorem test_meets_powerOn : ∃ (m : Bool) (s : State), s.power.vin = false :=
  ⟨true, State.reset, by decide +kernel⟩

theorem test_meets_startupStepDone : ∃ (r : StepResult) (s : State), s.power.vin = true ∧ s.power.held = false ∧ s.power.failed = false ∧ s.power.stepDone < 7 ∧ (2 ≤ s.power.stepDone → s.power.locked = true) :=
  ⟨{}, (st0).modPower (fun x => { x with stepDone := 6 }), by decide +kernel, by decide +kernel, by decide +kernel, by decide +kernel, by decide +kernel⟩

theorem test_meets_railTimeout : ∃ (rail : Fin 11) (s : State), s.power.vin = true ∧ s.power.held = false ∧ s.power.failed = false ∧ s.power.stepDone = 1 :=
  ⟨10, (st0).modPower (fun x => { x with stepDone := 1 }), by decide +kernel, by decide +kernel, by decide +kernel, by decide +kernel⟩

theorem test_meets_refclkWaitTimeout : ∃ (s : State), s.power.vin = true ∧ s.power.held = false ∧ s.power.failed = false ∧ s.power.stepDone = 1 ∧ s.power.refclkOk = false :=
  ⟨(st0).modPower (fun x => { x with stepDone := 1, refclkOk := false }), by decide +kernel, by decide +kernel, by decide +kernel, by decide +kernel, by decide +kernel⟩

theorem test_meets_brownOut : ∃ (s : State), s.power.vin = true :=
  ⟨st0, by decide +kernel⟩

theorem test_meets_overvoltageRelease : ∃ (m : Bool) (s : State), s.power.held = true ∧ s.power.cause = 3 :=
  ⟨true, (st0).modPower (fun x => { x with held := true, cause := 3 }), by decide +kernel, by decide +kernel⟩

theorem test_meets_resetNAssert : ∃ (m : Bool) (s : State), s.power.vin = true ∧ s.power.held = false :=
  ⟨true, st0, by decide +kernel, by decide +kernel⟩

theorem test_meets_perstNAssert : ∃ (s : State), s.link.perstLow = false ∧ s.power.vin = true ∧ s.power.held = false :=
  ⟨st0, by decide +kernel, by decide +kernel, by decide +kernel⟩

theorem test_meets_pcieLinkUp : ∃ (s : State), s.link.training = true ∧ s.link.perstLow = false ∧ s.link.linkUp = false :=
  ⟨{ st0 with link := { training := true } }, by decide +kernel, by decide +kernel, by decide +kernel⟩

theorem test_meets_refclkLoss : ∃ (s : State), s.power.locked = true :=
  ⟨st0, by decide +kernel⟩

theorem test_meets_refclkReturn : ∃ (s : State), s.power.refclkOk = false ∧ s.refclkReported = true :=
  ⟨((st0).modPower (fun x => { x with refclkOk := false })).modGong (fun x => { x with inbox := [{ src := 3 }] }), by decide +kernel, by decide +kernel⟩

theorem test_meets_supplyCondition : ∃ (rail : Fin 11) (out : Bool) (mv : Int) (s : State), s.power.vin = true ∧ s.power.held = false ∧ 2 ≤ s.power.stepDone ∧ (s.power.rails[rail]).out ≠ out :=
  ⟨0, true, 900, st0, by decide +kernel, by decide +kernel, by decide +kernel, by decide +kernel⟩

theorem test_meets_tempSample : ∃ (sensor : Fin 16) (temp : Int) (s : State), s.power.vin = true ∧ s.power.held = false ∧ 2 ≤ s.power.stepDone ∧ ¬ 2000 ≤ temp :=
  ⟨15, 1999, st0, by decide +kernel, by decide +kernel, by decide +kernel, by decide +kernel⟩

theorem test_meets_tempSample2 : ∃ (sensor : Fin 16) (temp : Int) (s : State), s.power.vin = true ∧ s.power.held = false ∧ 2 ≤ s.power.stepDone ∧ 2000 ≤ temp :=
  ⟨15, 2000, st0, by decide +kernel, by decide +kernel, by decide +kernel, by decide +kernel⟩

theorem test_meets_subsysReset : ∃ (s : State) (r : Nat × Nat × Nat), s.gong.resets.find? (fun r => decide (r.2.2 ≤ s.tick)) = some r :=
  ⟨(st0).modGong (fun x => { x with resets := [(1, 0, 0)] }), (1, 0, 0), by decide +kernel⟩

theorem test_meets_encodedPacketIsReadBackFromTheMailbox : ∃ (s : State) (c : Fin 8) (op : Nat) (p : Pkt), op < 4096 ∧ p.wf = true ∧ s.ctxs[c].window.wf = true ∧ s.ctxs[c].prod < 32768 ∧ s.ctxs[c].cons < 32768 ∧ s.ctxs[c].pending = 0 ∧ pktUnits p.units ≤ 32767 :=
  ⟨st0, 0, 0xFFF, { payload := zeros 8 }, by decide +kernel, by decide +kernel, by decide +kernel, by decide +kernel, by decide +kernel, by decide +kernel, by decide +kernel⟩

theorem test_meets_eccCheckBitsOfEveryByte : ∃ (s : State) (mem : Nat) (q : Fin 4) (a x : Nat) (b : Byte), mem < 8 ∧ s.memWf :=
  ⟨st0, 7, 0, 5, 5, 1, by decide +kernel, by exact st0_memWf⟩

theorem test_meets_sramSurvivesOneFlippedBit : ∃ (s : State) (mem : Fin 8) (q : Fin 4) (a : Nat) (b : Byte) (i j : Fin 13) (f : Byte → Byte), s.memWf ∧ i ≠ j :=
  ⟨st0, 7, 0, 5, 1, 0, 12, id, by exact st0_memWf, by decide +kernel⟩

theorem test_meets_hostCommandsWaitForTheDevice : ∃ (i : Instr) (c : Fin 8) (op : Nat) (p : Pkt) (s : State), i.sends = some (c, op, p) ∧ s.link.linkUp = false :=
  ⟨.echo 0 {}, 0, 6, {}, State.reset, by decide +kernel, by decide +kernel⟩

theorem test_meets_hostCommandsWaitForTheDevice2 : ∃ (i : Instr) (c : Fin 8) (op : Nat) (p : Pkt) (s : State), i.sends = some (c, op, p) ∧ s.link.linkUp = true ∧ (s.takes c = false ∨ s.ctxs[c].pending ≠ 0 ∨ 32767 < pktUnits p.units) ∧ s.takes c = false :=
  ⟨.echo 0 {}, 0, 6, {}, (st0).modCtx 0 (fun x => { x with closing := true }), by decide +kernel, by decide +kernel, by decide +kernel, by decide +kernel⟩

theorem test_meets_hostCommandsWaitForTheDevice3 : ∃ (i : Instr) (c : Fin 8) (op : Nat) (p : Pkt) (s : State), i.sends = some (c, op, p) ∧ s.link.linkUp = true ∧ (s.takes c = false ∨ s.ctxs[c].pending ≠ 0 ∨ 32767 < pktUnits p.units) ∧ s.ctxs[c].pending ≠ 0 :=
  ⟨.echo 0 {}, 0, 6, {}, (st0).modCtx 0 (fun x => { x with prod := 1 }), by decide +kernel, by decide +kernel, by decide +kernel, by decide +kernel⟩

theorem test_meets_closedContextDropsItsPackets : ∃ (s : State) (c : Fin 8), s.ctxs[c].isOpen = false ∧ (let hd := s.ctxs[c].frontHead; let len := headLen hd; s.ctxs[c].pending < pktUnits len) :=
  ⟨st0.modCtx 1 (fun x => { x with prod := 1, window := [(4, 1)] }), 1, by decide +kernel, by decide +kernel⟩

theorem test_meets_closedContextDropsItsPackets2 : ∃ (s : State) (c : Fin 8), s.ctxs[c].isOpen = false ∧ (let hd := s.ctxs[c].frontHead; let len := headLen hd; pktUnits len ≤ s.ctxs[c].pending ∧ crcOk hd (s.ctxs[c].frontPay len) = false) :=
  ⟨st0.modCtx 1 (fun x => { x with prod := 1 }), 1, by decide +kernel, by decide +kernel⟩

theorem test_meets_closedContextDropsItsPackets3 : ∃ (s : State) (c : Fin 8), s.ctxs[c].isOpen = false ∧ (let hd := s.ctxs[c].frontHead; let len := headLen hd; pktUnits len ≤ s.ctxs[c].pending ∧ crcOk hd (s.ctxs[c].frontPay len) = true ∧ headOp hd = 0x001) :=
  ⟨State.place st0 1 0x001 { context := 1 }, 1, by decide +kernel, by decide +kernel⟩

theorem test_meets_closedContextDropsItsPackets4 : ∃ (s : State) (c : Fin 8), s.ctxs[c].isOpen = false ∧ (let hd := s.ctxs[c].frontHead; let len := headLen hd; pktUnits len ≤ s.ctxs[c].pending ∧ crcOk hd (s.ctxs[c].frontPay len) = true ∧ headOp hd ≠ 0x001) :=
  ⟨State.place st0 1 0x006 { context := 1 }, 1, by decide +kernel, by decide +kernel⟩

theorem test_meets_closedContextDropsItsPackets5 : ∃ (i : Instr) (c : Fin 8) (op : Nat) (p : Pkt) (s : State), i.sends = some (c, op, p) ∧ s.takes c = true ∧ s.ctxs[c].pending = 0 ∧ pktUnits p.units ≤ 32767 ∧ s.ctxs[c].isOpen = false ∧ op ≠ 0x001 :=
  ⟨.echo 1 {}, 1, 6, {}, st0, by decide +kernel, by decide +kernel, by decide +kernel, by decide +kernel, by decide +kernel, by decide +kernel⟩

theorem test_meets_intakeRejectsBeforeTheCommand : ∃ (i : Instr) (c : Fin 8) (op : Nat) (p : Pkt) (s : State) (f : Fail), i.sends = some (c, op, p) ∧ s.takes c = true ∧ s.ctxs[c].pending = 0 ∧ pktUnits p.units ≤ 32767 ∧ s.ctxs[c].isOpen = true ∧ intakeFail s c op p = some f :=
  ⟨.echo 0 { version := 2 }, 0, 6, { version := 2 }, st0, (0x030, 0x0002), by decide +kernel, by decide +kernel, by decide +kernel, by decide +kernel, by decide +kernel, by decide +kernel⟩

theorem test_meets_intakeRejectsBeforeTheCommand2 : ∃ (i : Instr) (c : Fin 8) (op : Nat) (p : Pkt) (s : State) (f : Fail), i.sends = some (c, op, p) ∧ s.takes c = true ∧ s.ctxs[c].pending = 0 ∧ pktUnits p.units ≤ 32767 ∧ s.ctxs[c].isOpen = true ∧ intakeFail s c op p = none ∧ roleFail s c op p = some f :=
  ⟨.tmuConfig 0 { flags := 1 }, 0, 0x801, { flags := 1 }, (st0).modCtx 0 (fun x => { x with expert := false }), (0x042, 0x0040), by decide +kernel, by decide +kernel, by decide +kernel, by decide +kernel, by decide +kernel, by decide +kernel, by decide +kernel⟩

theorem test_meets_faultStateRefusesWhatItMust : ∃ (i : Instr) (c : Fin 8) (op : Nat) (p : Pkt) (s : State), i.sends = some (c, op, p) ∧ s.takes c = true ∧ s.ctxs[c].pending = 0 ∧ pktUnits p.units ≤ 32767 ∧ s.ctxs[c].isOpen = true ∧ intakeFail s c op p = none ∧ roleFail s c op p = none ∧ p.isS = false ∧ ((s.gong.fatal = true ∧ op ∉ [0x001, 0x002, 0x007, 0xC02, 0xE01, 0xD02, 0x703] ∧ (op = 0x802 → p.b0 8 = false ∧ p.b0 9 = false)) ∨ (s.gong.fault = true ∧ (op ∈ [0x303, 0x702, 0xB01, 0x102] ∨ (op = 0x802 ∧ p.b0 8 = false ∧ p.b0 9 = false)))) ∧ s.gong.fault = true :=
  ⟨.ringTrain 0 {}, 0, 0x102, {}, (st0).modGong (fun x => { x with fault := true }), by decide +kernel, by decide +kernel, by decide +kernel, by decide +kernel, by decide +kernel, by decide +kernel, by decide +kernel, by decide +kernel, by decide +kernel, by decide +kernel⟩

theorem test_meets_faultStateRefusesWhatItMust2 : ∃ (i : Instr) (c : Fin 8) (op : Nat) (p : Pkt) (s : State), i.sends = some (c, op, p) ∧ s.takes c = true ∧ s.ctxs[c].pending = 0 ∧ pktUnits p.units ≤ 32767 ∧ s.ctxs[c].isOpen = true ∧ intakeFail s c op p = none ∧ roleFail s c op p = none ∧ p.isS = false ∧ ((s.gong.fatal = true ∧ op ∉ [0x001, 0x002, 0x007, 0xC02, 0xE01, 0xD02, 0x703] ∧ (op = 0x802 → p.b0 8 = false ∧ p.b0 9 = false)) ∨ (s.gong.fault = true ∧ (op ∈ [0x303, 0x702, 0xB01, 0x102] ∨ (op = 0x802 ∧ p.b0 8 = false ∧ p.b0 9 = false)))) ∧ s.gong.fatal = true :=
  ⟨.echo 0 {}, 0, 0x006, {}, (st0).modGong (fun x => { x with fatal := true }), by decide +kernel, by decide +kernel, by decide +kernel, by decide +kernel, by decide +kernel, by decide +kernel, by decide +kernel, by decide +kernel, by decide +kernel, by decide +kernel⟩

theorem test_meets_faultStateRefusesWhatItMust3 : ∃ (c : Fin 8) (r : Pkt) (x : Instr × Nat × Pkt × (Hdr → Pkt → State → Option Fail)) (s : State), x ∈ [(.burstStart c r, 0x303, r, ownSeq), (.capArm c r, 0x702, r, engOwns), (.tmuArm c r, 0x802, r.withA0 9 8 0, tmuArmOwns), (.tuneRunFull c r, 0xB01, r.withA0 17 16 0, tuneOwns), (.tuneRunReflect c r, 0xB01, r.withA0 17 16 1, tuneOwns), (.tuneRunLive c r, 0xB01, r.withA0 17 16 2, tuneOwns), (.ringTrain c r, 0x102, r, noFail)] ∧ (let op := x.2.1; let p := x.2.2.1; s.takes c = true) ∧ (let op := x.2.1; let p := x.2.2.1; s.ctxs[c].pending = 0) ∧ (let op := x.2.1; let p := x.2.2.1; pktUnits p.units ≤ 32767) ∧ (let op := x.2.1; let p := x.2.2.1; s.ctxs[c].isOpen = true) ∧ (let op := x.2.1; let p := x.2.2.1; intakeFail s c op p = none) ∧ (let op := x.2.1; let p := x.2.2.1; roleFail s c op p = none) ∧ (let op := x.2.1; let p := x.2.2.1; p.isS = false) ∧ (let op := x.2.1; let p := x.2.2.1; (s.gong.fatal = true ∨ s.gong.fault = true)) ∧ (let op := x.2.1; let p := x.2.2.1; x.2.2.2 (p.hdr c op p.rsel) p ((s.fetched c op p).enter c op p) = none) :=
  ⟨0, {}, (.ringTrain 0 {}, 0x102, {}, noFail), (st0).modGong (fun x => { x with fault := true }), by simp, by decide +kernel, by decide +kernel, by decide +kernel, by decide +kernel, by decide +kernel, by decide +kernel, by decide +kernel, by decide +kernel, by decide +kernel⟩

theorem test_meets_everyStepKeepsMemoriesCanonical : ∃ (s t : State), s.memWf ∧ step s = .next t :=
  ⟨{ st0 with pending := [.zeroizeNRelease] }, st0.modSec (fun x => { x with zeroPin := false }), by exact st0_memWf, by rfl⟩

theorem test_meets_patternWritesReadBack : ∃ (t : Store) (a : Nat) (bs : List Byte), t.mem.wf = true ∧ a % 4096 + bs.length ≤ 4096 :=
  ⟨{}, 4095, [1], by decide +kernel, by decide +kernel⟩

theorem test_meets_tempSample3 : ∃ (n : Fin 16) (temp : Int) (s : State), 2000 ≤ temp ∧ s.power.vin = true ∧ s.power.held = false :=
  ⟨0, 2000, st0, by decide +kernel, by decide +kernel, by decide +kernel⟩

theorem test_meets_thermalRestart : ∃ (m : Bool) (s : State), s.power.held = true ∧ s.power.cause = 4 ∧ s.power.sensors[(14 : Fin 16)].temp < 85 * 16 ∧ s.power.sensors[(15 : Fin 16)].temp < 85 * 16 :=
  ⟨true, (st0).modPower (fun x => { x with held := true, cause := 4 }), by decide +kernel, by decide +kernel, by decide +kernel, by decide +kernel⟩

theorem test_meets_thermalRestart2 : ∃ (m : Bool) (s : State), s.power.held = true ∧ s.power.cause = 4 ∧ 85 * 16 ≤ s.power.sensors[(14 : Fin 16)].temp :=
  ⟨true, (st0).modPower (fun x => { x with held := true, cause := 4, sensors := vmap x.sensors (fun _ y => { y with temp := 1360 }) }), by decide +kernel, by decide +kernel, by decide +kernel⟩

theorem test_meets_ctxOpen2 : ∃ (c : Fin 8) (p : Pkt) (s : State), s.takes c = true ∧ s.ctxs[c].pending = 0 ∧ pktUnits p.units ≤ 32767 ∧ s.ctxs[c].isOpen = false ∧ intakeFail s c 0x001 p = none ∧ (1 ≤ openRings p ∧ openRings p ≤ 4 ∧ p.units = 4 * openRings p ∧ p.a0 12 0 ≤ 4096 ∧ (∀ k < openRings p, descInRange (openDesc p k) = true) ∧ s.permits c p = true) ∧ s.quotaFree < openQuota p :=
  ⟨1, { arg0 := 0x11000, context := 1, payload := words [0, 0, 12] ++ zeros 20 }, st0, by decide +kernel, by decide +kernel, by decide +kernel, by decide +kernel, by decide +kernel, by decide +kernel, by decide +kernel⟩

theorem test_meets_ctxOpen3 : ∃ (c : Fin 8) (p : Pkt) (s : State), s.takes c = true ∧ s.ctxs[c].pending = 0 ∧ pktUnits p.units ≤ 32767 ∧ s.ctxs[c].isOpen = false ∧ (s.ctxs.toList.map (fun x => if x.isOpen then x.quota else 0)).sum ≤ 4096 :=
  ⟨1, { arg0 := 0x10E00, context := 1, payload := words [0, 0, 12] ++ zeros 20 }, st0, by decide +kernel, by decide +kernel, by decide +kernel, by decide +kernel, by decide +kernel⟩

theorem test_meets_openContextsShareTheQuotaPool : ∃ (p : Pkt), p.a0 12 0 = 0 :=
  ⟨{}, by decide +kernel⟩

/-! ### Worked examples of the spec -/

/-- The check value of R37. -/
theorem test_crc_check_value : crc32c [0x31, 0x32, 0x33, 0x34, 0x35, 0x36, 0x37, 0x38, 0x39] = 0xE3069283 := by decide +kernel

/-- The packet of the example "opening CTX2" (02). -/
def ctx2Open : Pkt := { context := 2, tag := 5, arg0 := 0x00010200, arg1 := 1, payload := words [0x23400000, 0x41, 0x914, 0x00140008, 0, 0, 0, 0] }

/-- Words 0 to 6 of the command packet, and its size, as the example writes them (02). -/
theorem test_ctx2_packet : (ctx2Open.encode 0x001).take 28 = words [0x03001000, 0x20050004, 0x00010200, 1, 0, 0, 0] ∧ (ctx2Open.encode 0x001).length = 64 := by
  decide +kernel

/-- The device of the example at tick 3,400,000,130, its own contexts closed. -/
def ctx2State : State := { (later st0 3400000130) with ctxs := State.reset.ctxs }

/-- The response of the example: its words 0 to 6 in the first entry of the ring (02). -/
theorem test_ctx2_response : (match exec (.ctxOpen 2 ctx2Open) ctx2State with
    | .next t => (t.ctxs[(2 : Fin 8)].rings[(0 : Fin 4)]).queue.map (fun e => (e.bytes t.ctxs[(2 : Fin 8)].session 1).take 28)
    | _ => []) = [words [0x03001000, 0x20050000, 0xE2820000, 0x0000CAA7, 0, 0x02000000, 1]] := by decide +kernel

/-- Context 2 is then open, with EXPERT and a quota of 512, on a ring of 1 MiB at its base (02). -/
theorem test_ctx2_context : (match exec (.ctxOpen 2 ctx2Open) ctx2State with
    | .next t => let x := t.ctxs[(2 : Fin 8)]; let r := x.rings[(0 : Fin 4)]
      (x.isOpen && x.expert && x.quota == 512 && x.inflight.isEmpty && r.base == 0x4123400000 && r.size == 2 ^ 20 && r.vec == 9 && r.count == 8 && r.time == 20)
    | _ => false) = true := by decide +kernel

/-- Conversions of the example "from table to ball" (R163, 05). -/
theorem test_times_convert : [400000, 1700000, 200000, 1000000, 12000, 2500000, 1250000].map fsToFine = [819, 3482, 410, 2048, 25, 5120, 2560] := by decide +kernel

/-- k_seq of the two bursts of the example "admission" (R95, 03). -/
theorem test_admission_slots : kSeqOf 176 2560 = 10 ∧ kSeqOf 128 2048 = 9 := by decide +kernel

/-- The edge of the example "interpolating a rising edge" (R221, 07). -/
theorem test_interpolates : interp 8000 3200 11200 { t := 512000300, tl := 512000300, th := 512000464, rising := true } = 512000398 := by decide +kernel

/-- The stop event of the example "propagation delay", in 1/16 fine LSB (R295, 10). -/
theorem test_tmu_code_time : Tmu.codeTime { c1p := 1000, c2p := 2020 } true 512004723 1791 = 512000000 * 16 + 75567 := by decide +kernel

/-- JMP goes to its operand (R123), and TSET takes BASE and PF (R120). -/
theorem test_jmp_step : (match exec (.jmp 0) (stVec 6 64 (fun x => { x with st := .running })) with | .next t => (t.seqs[(0 : Fin 4)]).addr | _ => 0) = 64 := by decide +kernel
theorem test_tset_step : (match exec (.tset 0) (stVec 0xC 0xC0000105 (fun x => { x with st := .running })) with | .next t => ((t.seqs[(0 : Fin 4)]).base, (t.seqs[(0 : Fin 4)]).pf) | _ => (0, 0)) = (5, 1) := by decide +kernel

/-- An alarm with an interval fires once and skips the due ticks that have passed (R174). -/
theorem test_alarm_skips : (match exec (.alarmFire 0) ((later st0 35).modAlarm 0 (fun x => { x with enabled := true, due := 5, interval := 10 })) with
    | .next t => ((t.alarms[(0 : Fin 8)]).due, (t.alarms[(0 : Fin 8)]).lost, (t.alarms[(0 : Fin 8)]).late) | _ => (0, 0, false)) = (45, 3, true) := by decide +kernel

/-- The front of the queue is taken and run with the rest (log 1). -/
theorem test_step_takes_front : step { State.reset with pending := [.zeroizeNRelease, .brownOut] } = exec .zeroizeNRelease { State.reset with pending := [.brownOut] } := rfl


/-! ### WellFormed refuses an ill-formed term of each kind -/

theorem test_wf_packet_not_whole_units : Instr.wf (.echo 0 { payload := [1] }) = false := by decide
theorem test_wf_packet_whole_units : Instr.wf (.echo 0 { payload := zeros 8 }) = true := by decide
theorem test_wf_packet_too_long (p : Pkt) (h : p.payload.length = 8 * 65536) : Instr.wf (.echo 0 p) = false := by
  simp [Instr.wf, Instr.pkt, Pkt.wf, h]
theorem test_wf_doorbell_outside_window : Instr.wf (.doorbellWrite 0 0x100000 [] 0) = false := by decide
theorem test_wf_doorbell_last_byte : Instr.wf (.doorbellWrite 0 0xFFFFF [1] 0) = true := by decide
theorem test_wf_bar0_outside : Instr.wf (.bar0WriteOther 0x4000 4 0) = false := by decide
theorem test_wf_bar0_size : Instr.wf (.bar0WriteOther 0 3 0) = false := by decide
theorem test_wf_bar2_unaligned : Instr.wf (.xbHostRead 2 15) = false := by decide
theorem test_wf_bar2_outside : Instr.wf (.xbHostWrite 0x30000 15 0) = false := by decide
theorem test_wf_bar2_enables : Instr.wf (.xbSetAliasWrite 0 16 0) = false := by decide
theorem test_wf_clear_alias : Instr.wf (.xbClrAliasWrite 0x2FFFC 15 0) = true := by decide
theorem test_wf_fetch_address : Instr.wf (.seqSlotFetch 0 false (2 ^ 42) []) = false := by decide
theorem test_wf_interpolator_code : Instr.wf (.tmuEndpointEvent 0 4096) = false := by decide

end Sys2Proof.Tests
end

section
/-! O10: a response is posted when it fits, and its ring signals by count or by time (R41 to R43). -/

namespace Sys2Proof.Machine

open Sys2Proof

/-- The state behind the memory writes of an entry, before its ring signals: the ring and the seal counter moved on (R41, R431). -/
def State.written (s : State) (c : Fin 8) (k : Fin 4) (e : Entry) : State :=
  let r := s.ctxs[c].rings[k]
  let bs := (e.asPosted s.ctxs[c].session).bytes s.ctxs[c].session r.seq
  ((s.busOut (entryWrites r.base r.size (32 * r.prod) bs)).modRing c k (fun y => y.posted (bs.length / 32) s.tick)).modCtx c
    (fun y => { y with session := y.session.posted e })

/-- Posting an entry writes it, and what follows starts from there. -/
theorem State.post_eq (s : State) (c : Fin 8) (k : Fin 4) (e : Entry) :
    s.post c k e = (((s.written c k e).countSignal c k).afterPost c (e.asPosted s.ctxs[c].session)).intake c := rfl

/-- The writes of an entry leave behind those before them. -/
theorem State.written_bus (s : State) (c : Fin 8) (k : Fin 4) (e : Entry) :
    let r := s.ctxs[c].rings[k]
    (s.written c k e).link.bus = ((entryWrites r.base r.size (32 * r.prod)
      ((e.asPosted s.ctxs[c].session).bytes s.ctxs[c].session r.seq)).flatMap BusWrite.requests).reverse ++ s.link.bus := rfl

/-- The ring of a written entry is the one that `Ring.posted` gives. -/
theorem State.written_ring (s : State) (c : Fin 8) (k : Fin 4) (e : Entry) :
    let r := s.ctxs[c].rings[k]
    ((s.written c k e).ctxs[c].rings[k]) =
      r.posted (((e.asPosted s.ctxs[c].session).bytes s.ctxs[c].session r.seq).length / 32) s.tick := by
  simp only [State.written, State.modRing, State.modCtx_self, vmod_self]
  rfl

/-- Writing an entry leaves the other contexts alone. -/
theorem State.written_other (s : State) (c d : Fin 8) (k : Fin 4) (e : Entry) (h : d ≠ c) : (s.written c k e).ctxs[d] = s.ctxs[d] := by
  simp only [State.written, State.modRing, State.modCtx_ctxs, vmod_other _ _ _ _ h]
  rfl

/-- An entry fits where its units and one more are free (R42). -/
theorem Ring.fits_iff (r : Ring) (n : Nat) : r.fits n = true ↔ r.used + n + 1 ≤ r.size / 32 := by
  simp [Ring.fits]

/-- The oldest entry is posted where the device can post and it fits (R41, R42). -/
theorem execResponsePost_posts (c : Fin 8) (k : Fin 4) (s : State) (e : Entry) (es : List Entry)
    (hq : (s.ctxs[c].rings[k]).queue = e :: es) (hl : s.link.linkUp = true) (hd : s.supDead = false)
    (ho : (s.ctxs[c].rings[k]).isOpen = true) (hf : (s.ctxs[c].rings[k]).fits e.units = true) :
    execResponsePost c k s = .next (s.post c k e) := by
  simp only [execResponsePost, hq, hl, hd, ho, hf, Bool.not_false, Bool.and_self, if_true]

/-- Nothing is posted with an empty queue, without the link or the supervisor, or to a closed ring (R26, R41). -/
theorem execResponsePost_idle (c : Fin 8) (k : Fin 4) (s : State)
    (h : (s.ctxs[c].rings[k]).queue = [] ∨ s.link.linkUp = false ∨ s.supDead = true ∨ (s.ctxs[c].rings[k]).isOpen = false) :
    execResponsePost c k s = .next s := by
  cases hq : (s.ctxs[c].rings[k]).queue with
  | nil => simp only [execResponsePost, hq]
  | cons e es =>
    have hc : (s.link.linkUp && !s.supDead && (s.ctxs[c].rings[k]).isOpen && (s.ctxs[c].rings[k]).fits e.units) = false := by
      obtain h | h | h | h := h
      · rw [hq] at h; nomatch h
      all_goals simp only [h, Bool.not_true, Bool.false_and, Bool.and_false]
    simp only [execResponsePost, hq, hc, Bool.false_eq_true, if_false]

/-- An entry that does not fit stays where it is (R42). -/
theorem execResponsePost_full (c : Fin 8) (k : Fin 4) (s : State) (e : Entry) (es : List Entry)
    (hq : (s.ctxs[c].rings[k]).queue = e :: es) (hf : (s.ctxs[c].rings[k]).size / 32 < (s.ctxs[c].rings[k]).used + e.units + 1) :
    execResponsePost c k s = .next s := by
  have hn : (s.ctxs[c].rings[k]).fits e.units = false := by
    rw [← Bool.not_eq_true, Ring.fits_iff]; omega
  simp only [execResponsePost, hq, hn, Bool.and_false, Bool.false_eq_true, if_false]

/-- The timer of a ring signals once its time has come (R43). -/
theorem execMsixTimerExpire_due (c : Fin 8) (k : Fin 4) (s : State) (hu : (s.ctxs[c].rings[k]).unsignaled ≠ 0)
    (ht : (s.ctxs[c].rings[k]).time ≠ 0) (hd : (s.ctxs[c].rings[k]).firstUnsig + 4000 * (s.ctxs[c].rings[k]).time ≤ s.tick) :
    execMsixTimerExpire c k s = .next ((s.modRing c k (fun r => { r with unsignaled := 0 })).signalRing (s.ctxs[c].rings[k]).vec) := by
  unfold execMsixTimerExpire
  simp only [usT, hu, ht, hd, ne_eq, not_false_eq_true, and_self, if_true]

/-- The timer of a ring does nothing before its time (R43). -/
theorem execMsixTimerExpire_early (c : Fin 8) (k : Fin 4) (s : State)
    (h : (s.ctxs[c].rings[k]).unsignaled = 0 ∨ (s.ctxs[c].rings[k]).time = 0 ∨
      s.tick < (s.ctxs[c].rings[k]).firstUnsig + 4000 * (s.ctxs[c].rings[k]).time) : execMsixTimerExpire c k s = .next s := by
  have hc : ¬ ((s.ctxs[c].rings[k]).unsignaled ≠ 0 ∧ (s.ctxs[c].rings[k]).time ≠ 0 ∧
      (s.ctxs[c].rings[k]).firstUnsig + usT (s.ctxs[c].rings[k]).time ≤ s.tick) := by
    rintro ⟨hu, ht, hd⟩
    rcases h with h | h | h
    · exact hu h
    · exact ht h
    · exact Nat.not_lt.2 hd h
  simp only [execMsixTimerExpire, if_neg hc]

/-- With the link up, the vector of a ring is sent as a message, or is pending where it is masked; vector 0 names none (R27, R43). -/
theorem State.signalRing_up (s : State) (v : Nat) (hl : s.link.linkUp = true) :
    s.signalRing v = (let e := s.link.msix[fin 64 v]
      if v = 0 then s
      else if e[3].getLsbD 0 then s.modLink (fun l => { l with pba := l.pba ||| 2 ^ (fin 64 v).val })
      else s.modLink (fun l => { l with bus := { addr := e[0].toNat + 2 ^ 32 * e[1].toNat, bytes := le 4 e[2].toNat } :: l.bus })) := by
  simp only [State.signalRing, State.msix, hl, if_true]

/-- Settles O10: an entry that fits is posted by `State.post`, whose first part is `State.written`; the timer signals its ring. -/
theorem responsesArePostedInOrderAndSignaled : Obligations.ResponsesArePostedInOrderAndSignaled := by
  refine ⟨?_, execResponsePost_idle, execResponsePost_full, ?_, execMsixTimerExpire_early⟩
  · intro c k s e es hq hl hd ho hf
    have hr := s.written_ring c k e
    refine ⟨s.written c k e, ?_, s.written_bus c k e, ?_, ?_, ?_, ?_, ?_, fun d hdc => s.written_other c d k e hdc⟩
    · rw [← State.post_eq]
      exact execResponsePost_posts c k s e es hq hl hd ho ((Ring.fits_iff _ _).2 hf)
    all_goals rw [hr]
    · simp only [Ring.posted, hq, List.drop_succ_cons, List.drop_zero]
    all_goals rfl
  · intro c k s hu ht hd hl
    exact (execMsixTimerExpire_due c k s hu ht hd).trans (congrArg _ (State.signalRing_up _ _ hl))

end Sys2Proof.Machine
end

section
/-! O21: groups and sequencers are given and released, and bursts are started, stopped and looked at (R101, R102, R139 to R148). -/

namespace Sys2Proof.Machine

open Sys2Proof

/-- Every group that GROUPS selects is free or the sender's (R10). -/
theorem pktGrps_any_takenFrom (h : Hdr) (q : Pkt) (a : State) :
    (pktGrps q).any (fun g => takenFrom a.grps[g].owner h) = false ↔ ∀ g ∈ pktGrps q, a.grps[g].owner = .none ∨ a.grps[g].owner = h.who := by
  simp only [List.any_eq_false, Bool.not_eq_true, takenFrom_false]

/-- Ownership of GROUP_ASSIGN (R102). -/
theorem assignOwns_none (h : Hdr) (q : Pkt) (a : State) :
    assignOwns h q a = none ↔ (∀ g ∈ pktGrps q, a.grps[g].owner = .none ∨ a.grps[g].owner = h.who) ∧
      (q.b0 15 = false → a.seqs[assignSeq q].owner = .none ∨ a.seqs[assignSeq q].owner = h.who) := by
  simp only [assignOwns, firstFail_cons, firstFail_nil, failIf_none, pktGrps_any_takenFrom, and_true]
  cases q.b0 15 <;> simp only [Bool.not_true, Bool.not_false, Bool.false_and, Bool.true_and, takenFrom_false, reduceCtorEq, false_imp_iff, true_imp_iff]

/-- Running targets of GROUP_ASSIGN (R102, R358). -/
theorem assignBusy_none (h : Hdr) (q : Pkt) (a : State) :
    assignBusy h q a = none ↔ (q.b0 15 = false → a.seqs[assignSeq q].st = .idle) ∧ ∀ g ∈ pktGrps q, a.grpRuns g = false ∧ a.tuned g = false := by
  simp only [assignBusy, firstFail_cons, firstFail_nil, failIf_none, and_true, Bool.or_eq_false_iff, List.any_eq_false, Bool.not_eq_true]
  cases q.b0 15 <;> simp [forall_and, and_assoc]

/-- With no measurement on its groups, GROUP_ASSIGN runs at once (R55). -/
theorem groupAssignBody_runs (h : Hdr) (q : Pkt) (a : State) (hm : ∀ g ∈ pktGrps q, a.grpMeasures g = false) (hu : q.units = 0) :
    groupAssignBody h q a = a.assignRun h q := by
  have hf : (pktGrps q).find? a.grpMeasures = none := by
    simpa only [List.find?_eq_none, Bool.not_eq_true] using hm
  rw [groupAssignBody, State.unlessFail_of_none _ _ _ ((lenFail_none q 0).2 hu)]
  simp only [hf]

/-- Without RELEASE, a combination that passes its checks goes to the sender (R102). -/
theorem State.assignRun_assigns (a : State) (h : Hdr) (q : Pkt) (hb : q.b0 15 = false)
    (hc : checksAssign a.cfg ((pktGrps q).map (fun g => (g, some (assignSeq q)))) = none) :
    a.assignRun h q = (((pktGrps q).foldl (fun t g => t.assignGrp g (assignSeq q) h.who)
      (if (pktGrps q).isEmpty then a else a.setSeqOwner (assignSeq q) h.who)).dropIdleSeqs).ok h := by
  simp only [State.assignRun, hb, hc, Bool.false_eq_true, if_false]

/-- With RELEASE, the groups that are owned are released (R11). -/
theorem State.assignRun_releases (a : State) (h : Hdr) (q : Pkt) (hb : q.b0 15 = true) :
    a.assignRun h q = (((pktGrps q).filter (fun g => a.grps[g].owner != .none)).foldl (fun t g => (t.releaseGrp g).tmuLoseGroup g) a).ok h := by
  simp only [State.assignRun, hb, if_true]

/-- The form and the ring checks of BURST_START (R139, R140). -/
theorem burstForm_none (q : Pkt) (a : State) (hu : q.isE = true ∨ q.units = if q.b0 7 then 1 else 0)
    (ht : q.isE = true → q.b0 7 = true ∨ startTickOf q = 0) (hg : a.globalFail q (pktSeq q) = none) :
    firstFail [if q.isE then none else lenFail q (if q.b0 7 then 1 else 0), failIf (q.isE && !q.b0 7 && startTickOf q != 0) 0x030 0x0003,
      a.globalFail q (pktSeq q)] = none := by
  simp only [firstFail_cons, firstFail_nil, failIf_none, hg, and_true]
  cases he : q.isE with
  | false => exact ⟨(lenFail_none q _).2 (hu.resolve_left (by simp [he])), rfl⟩
  | true =>
    refine ⟨rfl, ?_⟩
    rcases ht he with h | h <;> simp [h]

/-- A BURST_START whose descriptor is admissible and whose start tick is far enough ahead starts its burst (R140). -/
theorem burstStartBody_starts (h : Hdr) (q : Pkt) (a : State) (d : List Byte)
    (hf : firstFail [if q.isE then none else lenFail q (if q.b0 7 then 1 else 0), failIf (q.isE && !q.b0 7 && startTickOf q != 0) 0x030 0x0003,
      a.globalFail q (pktSeq q)] = none)
    (hd : a.descImage h q = some d) (hok : descOk d = true) (had : a.admitFail d (a.cfg.seqs[pktSeq q]).shortest = none)
    (ht : q.b0 7 = true → a.nowSI.tick + 8000 ≤ startTickOf q) :
    burstStartBody h q a = (a.meetDesc q d).startBurst h q (pktSeq q) d := by
  obtain ⟨b, g, hm⟩ := a.meetDesc_frame q d
  have had' : (a.meetDesc q d).admitFail d ((a.meetDesc q d).cfg.seqs[pktSeq q]).shortest = none := by rw [hm]; exact had
  have ht' : (q.b0 7 && decide (startTickOf q < (a.meetDesc q d).nowSI.tick + 8000)) = false := by
    have hn : (a.meetDesc q d).nowSI = a.nowSI := by rw [hm]; rfl
    rw [hn]
    cases hb : q.b0 7 with
    | false => rfl
    | true => simpa only [Bool.true_and, decide_eq_false_iff_not, Nat.not_lt] using ht hb
  rw [burstStartBody, State.unlessFail_of_none _ _ _ hf]
  simp only [hd, hok, had', ht', Bool.not_true, Bool.false_eq_true, if_false]

/-- A stop without AT_RESTART reaches the sequencer 16 ns later (R144, R147). -/
theorem burstStopBody_now (h : Hdr) (q : Pkt) (a : State) (hu : q.units = 0) (hb : q.b0 8 = false) :
    burstStopBody h q a = a.modSeq (pktSeq q) (fun x =>
      { x with stops := x.stops ++ [(h, a.metro + 16 * 2048, false)], stopReq := earlier x.stopReq (a.metro + 16 * 2048) }) := by
  rw [burstStopBody, State.unlessFail_of_none _ _ _ ((lenFail_none q 0).2 hu)]
  simp only [hb, Bool.false_eq_true, if_false]
  rfl

/-- A stop with AT_RESTART reaches the sequencer 16 ns later (R144, R147). -/
theorem burstStopBody_atRestart (h : Hdr) (q : Pkt) (a : State) (hu : q.units = 0) (hb : q.b0 8 = true) :
    burstStopBody h q a = a.modSeq (pktSeq q) (fun x =>
      { x with stops := x.stops ++ [(h, a.metro + 16 * 2048, true)], restartReq := earlier x.restartReq (a.metro + 16 * 2048) }) := by
  rw [burstStopBody, State.unlessFail_of_none _ _ _ ((lenFail_none q 0).2 hu)]
  simp only [hb, if_true]
  rfl

/-- Settles O21: each command is `completes_of_body` with the lemmas about its checks and its body. -/
theorem groupAndBurstCommandsComplete : Obligations.GroupAndBurstCommandsComplete := by
  refine ⟨fun c p => ?_, fun c p => ?_, fun c p => ?_, fun c p => ?_, fun c p => ?_, fun c p => ?_⟩
  · refine completes_of_body _ c 0x301 _ _ _ assignOwns assignBusy groupAssignBody (fun _ => rfl) ?_
    rintro h bs a q ⟨hg, hs, ⟨hi, hr⟩, hm, hu, hc⟩
    have hb : q.b0 15 = false := Pkt.b0_of_row_zero p q 15 rfl (by decide)
    exact ⟨(assignOwns_none h q a).2 ⟨hg, fun _ => hs⟩, (assignBusy_none h q a).2 ⟨fun _ => hi, hr⟩,
      (groupAssignBody_runs h q a hm hu).trans (a.assignRun_assigns h q hb hc)⟩
  · refine completes_of_body _ c 0x301 _ _ _ assignOwns assignBusy groupAssignBody (fun _ => rfl) ?_
    rintro h bs a q ⟨hg, hr, hm, hu⟩
    have hb : q.b0 15 = true := Pkt.b0_of_row_one p q 15 rfl (by decide)
    have hnb : q.b0 15 ≠ false := by simp [hb]
    exact ⟨(assignOwns_none h q a).2 ⟨hg, fun hf => absurd hf hnb⟩, (assignBusy_none h q a).2 ⟨fun hf => absurd hf hnb, hr⟩,
      (groupAssignBody_runs h q a hm hu).trans (a.assignRun_releases h q hb)⟩
  · refine completes_of_body _ c 0x303 _ _ _ ownSeq burstBusy burstStartBody (fun _ => rfl) ?_
    rintro h bs a q ⟨hs, hbusy, hu, ht0, hg, ⟨d, hd, hok, had⟩, ht⟩
    exact ⟨(ownSeq_none h q a).2 hs, hbusy, d, hd, burstStartBody_starts h q a d (burstForm_none q a hu ht0 hg) hd hok had ht⟩
  · refine completes_of_body _ c 0x304 _ _ _ ownSeq noFail burstStopBody (fun _ => rfl) ?_
    rintro h bs a q ⟨hs, hu⟩
    exact ⟨(ownSeq_none h q a).2 hs, rfl, burstStopBody_now h q a hu (Pkt.b0_of_row_zero p q 8 rfl (by decide))⟩
  · refine completes_of_body _ c 0x304 _ _ _ ownSeq noFail burstStopBody (fun _ => rfl) ?_
    rintro h bs a q ⟨hs, hu⟩
    exact ⟨(ownSeq_none h q a).2 hs, rfl, burstStopBody_atRestart h q a hu (Pkt.b0_of_row_one p q 8 rfl (by decide))⟩
  · refine completes_of_body _ c 0x305 _ _ _ noFail noFail seqStatusBody (fun _ => rfl) ?_
    intro h bs a q hu
    exact ⟨rfl, rfl, State.unlessFail_of_none _ _ _ ((lenFail_none q 0).2 hu)⟩

end Sys2Proof.Machine
end

section
/-! O30: accesses of the Exchange Bank through both ports, and the opportunities that Brush uses (R334 to R347). -/

namespace Sys2Proof.Machine

open Sys2Proof

/-- A BAR2 access with a byte enabled reaches an open bank while the link is up (R334). -/
theorem State.bar2_reaches (s : State) (off be : Nat) (hl : s.link.linkUp = true) (ho : s.xbOpen = true) (hoff : off < 0x30000)
    (hbe : be % 16 ≠ 0) : (s.bar2Ok off && decide (be % 16 ≠ 0)) = true := by
  simp only [State.bar2Ok, hl, ho, hoff, hbe, ne_eq, not_false_eq_true, decide_true, Bool.and_self]

/-- A host write through BAR2 acts on its word through port B as its window says (R334, R335). -/
theorem State.bar2Write_open (off be : Nat) (v : Word) (s : State) (hl : s.link.linkUp = true) (ho : s.xbOpen = true)
    (hoff : off < 0x30000) (hbe : be % 16 ≠ 0) :
    s.bar2Write off be v = s.portB (bar2Word off) true (fun t => t.xbWindow off be v) := if_pos (s.bar2_reaches off be hl ho hoff hbe)

/-- A host read through BAR2 reads its word through port B (R334, R341). -/
theorem execXbHostRead_open (off be : Nat) (s : State) (hl : s.link.linkUp = true) (ho : s.xbOpen = true)
    (hoff : off < 0x30000) (hbe : be % 16 ≠ 0) :
    execXbHostRead off be s = .next (s.portB (bar2Word off) false (fun t => (t.meetRange 1 0 (4 * bar2Word off) 4).modLink (fun l =>
      { l with readData := unle ((List.range 4).map (fun i => if be.testBit i then BitVec.ofNat 8 ((s.xbReadWord (bar2Word off)).1 / 256 ^ i) else 0)),
               readPoison := (s.xbReadWord (bar2Word off)).2.1 }))) := if_pos (s.bar2_reaches off be hl ho hoff hbe)

/-- A board agent's read that meets no collision puts the word onto XD (R336, R341). -/
theorem execXpRead_alone (w : Fin 16384) (pt2 : Bool) (s : State) (ho : s.xbOpen = true) (hh : s.sram.lastB.hits s.bankCycle w.val false = false) :
    execXpRead w pt2 s = .next ((s.meetRange 1 0 (4 * w.val) 4).modSram (fun x =>
      { x with lastA := { cycle := some s.bankCycle, word := w.val, write := false, pt2 := pt2, before := s.xbWord w.val },
               xd := unle (s.sramBytes 1 0 (4 * w.val) 4), xdDriven := true, xbusy := !(s.badBytes 1 0 (4 * w.val) 4).isEmpty })) := by
  simp only [execXpRead, State.xbReadWord, ho, hh, Bool.not_true, Bool.false_eq_true, if_false]

/-- A board agent's write that meets no collision writes the word (R336). -/
theorem execXpWrite_alone (w : Fin 16384) (v : Word) (pt2 : Bool) (s : State) (ho : s.xbOpen = true)
    (hh : s.sram.lastB.hits s.bankCycle w.val true = false) :
    execXpWrite w v pt2 s = .next ((s.modSram (fun x =>
      { x with lastA := { cycle := some s.bankCycle, word := w.val, write := true, pt2 := pt2, before := s.xbWord w.val }, xdDriven := false, xbusy := false })).xbPlain w.val 15 v) := by
  simp only [execXpWrite, ho, hh, Bool.not_true, Bool.false_and, Bool.false_eq_true, if_false]

/-- Brush uses an opportunity of an on-die memory at its pace, and of the Exchange Bank in a cycle that port B leaves free (R345). -/
theorem execBrushScrub_sram (m : Fin 9) (errs : List MemErr) (s : State) (hi : s.brush[m].initDone = true) (hm : m ≠ 8)
    (hp : s.brush[m].lastOpp + brushPace m.val ≤ s.tick) (hb : m = 1 → s.sram.lastB.cycle ≠ some s.bankCycle) :
    execBrushScrub m errs s = .next (s.brushSram m) := by
  have hc : (!(m == 1 && s.sram.lastB.cycle == some s.bankCycle)) = true := by
    by_cases h1 : m = 1
    · simp [h1, hb h1]
    · simp [h1]
  simp only [execBrushScrub, hi, hm, hp, hc, Bool.not_true, Bool.false_eq_true, and_self, if_false, if_true]

/-- Brush uses a free idle slot of the Pattern Store that no host read waits for, once in a Bar (R345). -/
theorem execBrushScrub_store (errs : List MemErr) (s : State) (hi : s.brush[(8 : Fin 9)].initDone = true) (hs : s.idleSlot = true)
    (hf : s.slotFree = true) (hr : s.store.reads = []) (hu : s.brushUsedBar = false) :
    execBrushScrub 8 errs s = .next (s.useSlot.brushStore errs) := by
  simp only [execBrushScrub, hi, hs, hf, hr, hu, Bool.not_true, Bool.not_false, Bool.false_eq_true, List.isEmpty_nil, Bool.and_self, if_false, if_true]

/-- 1 ms without an opportunity is a stall (R347). -/
theorem execBrushStall_waits (m : Fin 9) (s : State) (hi : s.brush[m].initDone = true) (hs : s.brush[m].stalling = false)
    (ht : s.brush[m].lastOpp + 4000000 ≤ s.tick) :
    execBrushStall m s = .next (s.modBrush m (fun b => { b with stalling := true, lapStalled := true })) := by
  have hw : s.brush[m].waits s.tick = true := by
    simp only [Brush.waits, hi, Bool.true_and, decide_eq_true_eq]; exact ht
  simp only [execBrushStall, hw, hs, Bool.not_false, Bool.and_self, if_true]

/-- An idle slot serves the host read that waits (R22). -/
theorem execIdleSlot_reads (errs : List MemErr) (s : State) (hs : s.idleSlot = true) (hf : s.slotFree = true) (r : ReadOp) (rs : List ReadOp)
    (hr : s.store.reads = r :: rs) : execIdleSlot errs s = .next (s.useSlot.readAccess r errs).settleStore := by
  simp only [execIdleSlot, hs, hf, hr, Bool.and_self, if_true]

/-- An idle slot that no host read waits for is an opportunity of Brush (R22). -/
theorem execIdleSlot_brush (errs : List MemErr) (s : State) (hs : s.idleSlot = true) (hf : s.slotFree = true)
    (hr : s.store.reads = []) (hu : s.brushUsedBar = false) (hi : s.brush[(8 : Fin 9)].initDone = true) :
    execIdleSlot errs s = .next (s.useSlot.brushStore errs) := by
  simp only [execIdleSlot, hs, hf, hr, hu, hi, Bool.not_true, Bool.or_self, Bool.and_self, Bool.false_eq_true, if_false, if_true]

/-- Settles O30, one lemma for each user of the memories. -/
theorem bankAndBrushAccessesComplete : Obligations.BankAndBrushAccessesComplete := by
  have hw : ∀ (off be : Nat) (v : Word) (s : State), s.link.linkUp = true → s.xbOpen = true → off < 0x30000 → be % 16 ≠ 0 →
      Host.Outcome.next (φ := Fault) (ρ := Refusal) (s.bar2Write off be v) =
        .next (s.portB (bar2Word off) true (fun t => t.xbWindow off be v)) :=
    fun off be v s hl ho hoff hbe => congrArg _ (s.bar2Write_open off be v hl ho hoff hbe)
  exact ⟨execXbHostRead_open, hw, hw, hw, execXpRead_alone, execXpWrite_alone, execBrushScrub_sram, execBrushScrub_store,
    execBrushStall_waits, fun errs s hs hf => ⟨execIdleSlot_reads errs s hs hf, execIdleSlot_brush errs s hs hf⟩⟩

end Sys2Proof.Machine
end

section
/-! O31: the slots of a Bar serve bursts, host writes, drains, upkeep and the supervisor (R17 to R19, R89, R94, R251, R284). -/

namespace Sys2Proof.Machine

open Sys2Proof

/-- A burst holds its pages while it is admitted or running (R83). -/
theorem Seq.live_iff (x : Seq) : x.live = true ↔ x.st = .admitted ∨ x.st = .running := by
  simp only [Seq.live, Bool.or_eq_true, beq_iff_eq]

/-- A free slot that the burst holds fetches the sixteen lines of one access (R17, R94). -/
theorem execSeqSlotFetch_fetches (q : Fin 4) (alt : Bool) (addr : Nat) (errs : List MemErr) (s : State) (hl : s.seqs[q].live = true)
    (hf : s.slotFree = true) (hs : s.slot ∈ s.seqs[q].slots) (ha : addr < 2 ^ 42) :
    execSeqSlotFetch q alt addr errs s = .next ((List.range 16).foldl (fun t i => t.fetchLine q alt (addr / 1024 * 1024 + 64 * i))
      ((s.useSlot.upset (addr / 1024 * 1024) 1024 errs).modSeq q (fun y => if alt then { y with altPtr := addr } else { y with fetchPtr := addr }))) := by
  have hc : (s.seqs[q].live && s.slotFree && s.seqs[q].slots.contains s.slot && decide (addr < 2 ^ 42)) = true := by
    rw [hl, hf, List.contains_iff_mem.2 hs, decide_eq_true ha]; rfl
  exact if_pos hc

/-- A HOSTIN slot serves the host write that is next, and answers it when its data is written (R89). -/
theorem execHostinSlot_serves (s : State) (w : HostIn) (hf : s.slotFree = true) (hs : s.slot ∈ [0, 16, 32, 48]) (hw : s.nextHostIn = some w) :
    execHostinSlot s = .next (let r := s.store.hostInAccess w
      let t : State := { s with store := { r.1 with hostin := r.1.hostin.map (fun x => if x == w then r.2 else x), lastSlot := some s.absSlot } }
      if r.2.data = [] then ((t.modStore (fun x => { x with hostin := x.hostin.filter (fun y => y != r.2) })).hostInDone r.2).settleStore else t) := by
  simp only [execHostinSlot, hf, hs, hw, decide_true, Bool.and_self, if_true, List.isEmpty_iff]
  exact (apply_ite _ _ _ _).symm

/-- A HOSTOUT slot serves the first drain of a Fail Log, in turn with the engines (R251). -/
theorem execHostoutSlot_flog (s : State) (q : Fin 4) (d : DrainOp) (ds : List DrainOp) (hf : s.slotFree = true) (hs : s.slot ∈ [8, 24, 40, 56])
    (hq : s.drainTurn = some q) (hd : s.flogs[q].drains = d :: ds) (hc : s.capTurn = none ∨ s.outFlog = true) :
    execHostoutSlot s = .next { s.drawn.useSlot.drainAccess q d (Config.freeDrainErrs s.free) with outFlog := false } := by
  simp only [execHostoutSlot, hf, hs, hq, decide_true, Bool.and_self, if_true]
  cases ht : s.capTurn with
  | none => simp only [hd]
  | some x =>
    have ho : s.outFlog = true := hc.resolve_left (by simp [ht])
    simp only [ho, hd, if_true]

/-- A HOSTOUT slot serves a capture segment, in turn with the drains of the Fail Logs (R284). -/
theorem execHostoutSlot_cap (s : State) (i : Fin 8) (h : Hdr) (hf : s.slotFree = true) (hs : s.slot ∈ [8, 24, 40, 56])
    (ht : s.capTurn = some (i, h)) (hc : s.drainTurn = none ∨ s.outFlog = false) :
    execHostoutSlot s = .next { s.drawn.useSlot.capDrain i h (Config.freeDrainErrs s.free) with outFlog := true } := by
  simp only [execHostoutSlot, hf, hs, ht, decide_true, Bool.and_self, if_true]
  cases hq : s.drainTurn with
  | none => rfl
  | some q =>
    have ho : s.outFlog = false := hc.resolve_left (by simp [hq])
    simp only [ho, Bool.false_eq_true, if_false]

/-- A MAINT slot carries the upkeep that is due (R19). -/
theorem execMaintSlot_carries (s : State) (hf : s.slotFree = true) (hs : s.slot ∈ [12, 15, 28, 31, 44, 47, 60]) :
    execMaintSlot s = .next (match Config.freeUpkeep s.free with
      | none => s.drawn
      | some w => s.drawn.useSlot.modStore (fun t => { t with maintUsed := t.maintUsed + 1, refreshBank := if w = .refresh then (t.refreshBank + 1) % max 1 Config.hbmBanks else t.refreshBank })) := by
  simp only [execMaintSlot, hf, hs, decide_true, Bool.and_self, if_true]
  cases Config.freeUpkeep s.free <;> rfl

/-- Slot 63 reads on in the page plan of a burst, 64 entries at a time (R91). -/
theorem execSupSlot_plan (s : State) (hf : s.slotFree = true) (hs : s.slot = 63) (q : Fin 4) (hq : s.planTurn = some q) :
    execSupSlot s = .next ((s.useSlot.modStore (fun t => { t with supUsed := t.supUsed + 1 })).modSeq q
      (fun x => { x with plan := x.plan ++ x.planRest.take 64, planRest := x.planRest.drop 64 })) := by
  simp only [execSupSlot, hf, hs, hq, decide_true, Bool.and_self, if_true]

/-- Slot 63 serves firmware where no page plan is to be read (R18, R76). -/
theorem execSupSlot_firmware (s : State) (hf : s.slotFree = true) (hs : s.slot = 63) (hq : s.planTurn = none) :
    execSupSlot s = .next (let errs := Config.freeMemErrs s.free
      let t := (s.useSlot.modStore (fun t => { t with supUsed := t.supUsed + 1 })).drawn.modStore (fun x => { x with supErrs := errs.foldl errAdd x.supErrs })
      t.storeErrs 0 (t.store.supErrs.filter (fun e => errs.any (fun f => f.addr / 8 * 8 == e.addr)))) := by
  simp only [execSupSlot, hf, hs, hq, decide_true, Bool.and_self, if_true]

/-- Settles O31, one lemma for each user of a slot. -/
theorem barSlotsServeTheirUsers : Obligations.BarSlotsServeTheirUsers :=
  ⟨fun q alt addr errs s hl => execSeqSlotFetch_fetches q alt addr errs s ((Seq.live_iff _).2 hl), execHostinSlot_serves, execHostoutSlot_flog,
    execHostoutSlot_cap, execMaintSlot_carries, fun s hf hs => ⟨execSupSlot_plan s hf hs, execSupSlot_firmware s hf hs⟩⟩

end Sys2Proof.Machine
end

section
/-! O40: a packet placed in an empty mailbox is framed, checked and taken as it was written (R32 to R38). -/

namespace Sys2Proof.Machine

open Sys2Proof

/-- An encoded packet is its header, its CRC and its payload in whole units of 32 bytes (R35 to R37). -/
theorem Pkt.encode_eq (p : Pkt) (op : Nat) :
    p.encode op = (p.head28 op ++ le 4 (crc32c (p.head28 op ++ p.body))) ++ padTo 32 p.body := rfl

/-- The header of an encoded packet, with its CRC, is 32 bytes long. -/
theorem Pkt.head32_length (p : Pkt) (op : Nat) : (p.head28 op ++ le 4 (crc32c (p.head28 op ++ p.body))).length = 32 := by
  simp [head28_words, words]

/-- A payload of whole units is its own padded body. -/
theorem Pkt.body_of_wf (p : Pkt) (h : p.wf = true) : p.body = p.payload ∧ p.payload.length = 8 * p.units ∧ p.units < 65536 := by
  simp only [Pkt.wf, Bool.and_eq_true, beq_iff_eq, decide_eq_true_eq] at h
  obtain ⟨hm, hl⟩ := h
  refine ⟨?_, ?_, ?_⟩
  · simp [Pkt.body, padTo, hm, zeros]
  all_goals unfold Pkt.units; omega

/-- An encoded packet takes the mailbox units that LENGTH gives (R36). -/
theorem Pkt.encode_length (p : Pkt) (op : Nat) (h : p.wf = true) : (p.encode op).length = 32 * pktUnits p.units := by
  obtain ⟨hb, hl, _⟩ := Pkt.body_of_wf p h
  rw [Pkt.encode_eq, List.length_append, Pkt.head32_length, hb]
  simp only [padTo, zeros, List.length_append, List.length_replicate, hl, pktUnits]
  omega

/-- An empty mailbox has its offsets at one place. -/
theorem Ctx.prod_of_empty (x : Ctx) (hp : x.prod < 32768) (hc : x.cons < 32768) (h : x.pending = 0) : x.prod = x.cons := by
  unfold Ctx.pending at h; omega

/-- The context in which a packet lies in front of the device. -/
theorem State.place_ctx (s : State) (c : Fin 8) (op : Nat) (p : Pkt) (h : s.ctxs[c].pending + pktUnits p.units ≤ 32767) :
    (s.place c op p).ctxs[c] =
      { s.ctxs[c].writeWindow (32 * s.ctxs[c].prod) (p.encode op) with prod := (s.ctxs[c].prod + pktUnits p.units) % 32768 } := by
  simp only [State.place, State.modCtx_self, h, if_true]

/-- What the device reads of a window does not depend on the offsets. -/
theorem Ctx.readWindow_prod (x : Ctx) (n off k : Nat) : ({ x with prod := n } : Ctx).readWindow off k = x.readWindow off k := rfl

/-- A placed packet leaves MB_CONS where it is. -/
theorem State.place_cons (s : State) (c : Fin 8) (op : Nat) (p : Pkt) (h : s.ctxs[c].pending + pktUnits p.units ≤ 32767) :
    (s.place c op p).ctxs[c].cons = s.ctxs[c].cons := by
  rw [s.place_ctx c op p h]; rfl

/-- A packet placed in an empty mailbox is the only one that waits. -/
theorem State.place_pending (s : State) (c : Fin 8) (op : Nat) (p : Pkt) (hp : s.ctxs[c].prod < 32768) (hc : s.ctxs[c].cons < 32768)
    (he : s.ctxs[c].pending = 0) (hu : pktUnits p.units ≤ 32767) : (s.place c op p).ctxs[c].pending = pktUnits p.units := by
  have hpc := Ctx.prod_of_empty _ hp hc he
  rw [s.place_ctx c op p (by omega)]
  show ((s.ctxs[c].prod + pktUnits p.units) % 32768 + 32768 - s.ctxs[c].cons) % 32768 = _
  omega

section
variable (s : State) (c : Fin 8) (op : Nat) (p : Pkt) (hwf : p.wf = true) (hw : s.ctxs[c].window.wf = true)
  (hp : s.ctxs[c].prod < 32768) (hc : s.ctxs[c].cons < 32768) (he : s.ctxs[c].pending = 0) (hu : pktUnits p.units ≤ 32767)
include hwf hw hp hc he hu

/-- A stretch of a placed packet is read from its place behind MB_CONS. -/
theorem State.place_reads (k n : Nat) (hk : k + n ≤ (p.encode op).length) :
    (s.place c op p).ctxs[c].readWindow (32 * s.ctxs[c].cons + k) n = ((p.encode op).drop k).take n := by
  rw [s.place_ctx c op p (by omega), Ctx.readWindow_prod, ← Ctx.prod_of_empty _ hp hc he]
  exact Ctx.read_write_window _ _ _ _ _ hw (by rw [Pkt.encode_length p op hwf]; omega) hk

/-- The header of a placed packet is read back. -/
theorem State.place_frontHead :
    (s.place c op p).ctxs[c].frontHead = p.head28 op ++ le 4 (crc32c (p.head28 op ++ p.body)) := by
  have hl := Pkt.encode_length p op hwf
  have := s.place_reads c op p hwf hw hp hc he hu 0 32 (by rw [hl]; unfold pktUnits; omega)
  rw [Ctx.frontHead, s.place_cons c op p (by omega)]
  rw [Nat.add_zero, List.drop_zero, Pkt.encode_eq] at this
  rw [this, List.take_left' (Pkt.head32_length p op)]

/-- The payload of a placed packet is read back. -/
theorem State.place_frontPay : (s.place c op p).ctxs[c].frontPay p.units = p.payload := by
  obtain ⟨hb, hpl, _⟩ := Pkt.body_of_wf p hwf
  have hl := Pkt.encode_length p op hwf
  have := s.place_reads c op p hwf hw hp hc he hu 32 (8 * p.units) (by rw [hl]; unfold pktUnits; omega)
  rw [Ctx.frontPay, s.place_cons c op p (by omega), this, Pkt.encode_eq, List.drop_left' (Pkt.head32_length p op), padTo, hb, List.take_left' hpl]

end

/-- Settles O40: the window law `Ctx.read_write_window` gives back header and payload, and the header laws their fields. -/
theorem encodedPacketIsReadBackFromTheMailbox : Obligations.EncodedPacketIsReadBackFromTheMailbox := by
  intro s c op p hop hwf hw hp hc he hu
  obtain ⟨hb, _, hlt⟩ := Pkt.body_of_wf p hwf
  have hpend := s.place_pending c op p hp hc he hu
  have hhead := s.place_frontHead c op p hwf hw hp hc he hu
  have hpay := s.place_frontPay c op p hwf hw hp hc he hu
  have hlen : headLen (s.place c op p).ctxs[c].frontHead = p.units := by rw [hhead]; exact headLen_head p op _ hlt
  have hopc : headOp (s.place c op p).ctxs[c].frontHead = op := by rw [hhead]; exact headOp_head p op _ hop
  have hcrc : crcOk (s.place c op p).ctxs[c].frontHead ((s.place c op p).ctxs[c].frontPay p.units) = true := by
    rw [hhead, hpay, hb]; exact crcOk_head p op _
  have hparse : parsePkt (s.place c op p).ctxs[c].frontHead ((s.place c op p).ctxs[c].frontPay p.units) = p := by
    rw [hhead, hpay]; exact parse_head p op _
  refine ⟨hpend, hopc, hcrc, ?_, ?_⟩
  · rw [hlen, hparse]
  · unfold State.takeFront
    simp only [hlen, hpend, lt_irrefl, if_false, hcrc, Bool.not_true, Bool.false_eq_true, hopc, hparse]
    rfl

end Sys2Proof.Machine
end

section
/-! O47 to O50: what becomes of a packet before its command acts: it waits, is dropped, fails intake or meets the fault state (R32 to R52, R70). -/

namespace Sys2Proof.Machine

open Sys2Proof

/-- Settles O47: every host command is `hostCmd`, and a packet that cannot be taken is lost with the link or placed. -/
theorem hostCommandsWaitForTheDevice : Obligations.HostCommandsWaitForTheDevice := by
  refine ⟨?_, ?_⟩
  · intro i c op p s hi hl
    obtain ⟨take, ht, _, _⟩ := exec_sends i c op p hi
    rw [ht, (hostCmd_waits s c op p take).1 hl]
  · intro i c op p s hi hl hw
    obtain ⟨take, ht, _, _⟩ := exec_sends i c op p hi
    rw [ht, (hostCmd_waits s c op p take).2.1 hl hw]
    rfl

/-- A host command whose packet is taken at once, of an opcode other than CTX_OPEN, delivers its packet. -/
theorem exec_delivers (i : Instr) (c : Fin 8) (op : Nat) (p : Pkt) (s : State) (hi : i.sends = some (c, op, p)) (h1 : op ≠ 0x001)
    (ht : s.takes c = true) (hf : s.ctxs[c].pending = 0) (hu : pktUnits p.units ≤ 32767) :
    ∃ owns busy body, exec i s = .next ((s.fetched c op p).deliver c op p owns busy body) := by
  obtain ⟨take, he, hd, _⟩ := exec_sends i c op p hi
  obtain ⟨owns, busy, body, hb⟩ := hd h1
  exact ⟨owns, busy, body, by rw [he, (hostCmd_waits s c op p take).2.2 ht hf hu, hb]⟩

/-- CTX_OPEN of an open context is delivered, and refused where it passes intake (R46). -/
theorem takeCtxOpen_open (c : Fin 8) (p : Pkt) (s : State) (ho : s.ctxs[c].isOpen = true) :
    takeCtxOpen c p s = s.deliver c 0x001 p noFail noFail (fun h _ t => t.refuse h (0x010, 0x0031)) := if_pos ho

/-- CTX_OPEN of a closed context is handled apart (R46). -/
theorem takeCtxOpen_closed (c : Fin 8) (p : Pkt) (s : State) (ho : s.ctxs[c].isOpen = false) :
    takeCtxOpen c p s = s.openClosed c p := if_neg (by rw [ho]; decide)

/-- A host command of an open context whose packet is taken at once delivers its packet, CTX_OPEN as well (R46). -/
theorem exec_delivers_open (i : Instr) (c : Fin 8) (op : Nat) (p : Pkt) (s : State) (hi : i.sends = some (c, op, p))
    (ht : s.takes c = true) (hf : s.ctxs[c].pending = 0) (hu : pktUnits p.units ≤ 32767) (ho : s.ctxs[c].isOpen = true) :
    ∃ owns busy body, exec i s = .next ((s.fetched c op p).deliver c op p owns busy body) := by
  by_cases h1 : op = 0x001
  · obtain ⟨take, he, _, hopen⟩ := exec_sends i c op p hi
    have ho' : (s.fetched c op p).ctxs[c].isOpen = true := by rw [State.fetched_isOpen s c op p hf hu]; exact ho
    exact ⟨noFail, noFail, _, by rw [he, (hostCmd_waits s c op p take).2.2 ht hf hu, hopen h1, takeCtxOpen_open c p _ ho', h1]⟩
  · exact exec_delivers i c op p s hi h1 ht hf hu

/-- A closed context's batch that cannot be framed is discarded, and its failure noted (R39, R48). -/
theorem State.discardBatch_closed (s : State) (c : Fin 8) (hd : List Byte) (f : Fail) (ho : s.ctxs[c].isOpen = false) :
    s.discardBatch c hd f = s.modCtx c (fun y => ({ y with cons := y.prod } : Ctx).noteErr f) := by
  unfold State.discardBatch
  simp only [ho, Bool.false_eq_true, if_false]
  exact State.modCtx_modCtx s c _ _

/-- The front packet is taken where it lies before the doorbell and its CRC is right (R38 steps 1 and 2). -/
theorem State.takeFront_takes (s : State) (c : Fin 8) (hp : pktUnits (headLen s.ctxs[c].frontHead) ≤ s.ctxs[c].pending)
    (hc : crcOk s.ctxs[c].frontHead (s.ctxs[c].frontPay (headLen s.ctxs[c].frontHead)) = true) :
    s.takeFront c = takePkt c (headOp s.ctxs[c].frontHead)
      (parsePkt s.ctxs[c].frontHead (s.ctxs[c].frontPay (headLen s.ctxs[c].frontHead)))
      (s.modCtx c (fun y => y.advance (pktUnits (headLen s.ctxs[c].frontHead)))) := by
  unfold State.takeFront
  simp only [Nat.not_lt.2 hp, if_false, hc, Bool.not_true, Bool.false_eq_true]

/-- A front packet with a wrong CRC ends its batch (R38 step 2). -/
theorem State.takeFront_badCrc (s : State) (c : Fin 8) (hp : pktUnits (headLen s.ctxs[c].frontHead) ≤ s.ctxs[c].pending)
    (hc : crcOk s.ctxs[c].frontHead (s.ctxs[c].frontPay (headLen s.ctxs[c].frontHead)) = false) :
    s.takeFront c = s.discardBatch c s.ctxs[c].frontHead (0x031, 0) := by
  unfold State.takeFront
  simp only [Nat.not_lt.2 hp, if_false, hc, Bool.not_false, if_true]

/-- A front packet that is taken leaves its context closed. -/
theorem State.advanced_isOpen (s : State) (c : Fin 8) (u : Nat) : (s.modCtx c (fun y => y.advance u)).ctxs[c].isOpen = s.ctxs[c].isOpen := by
  rw [State.modCtx_self]; rfl

/-- Settles O48: `discardBatch_closed` for a batch that cannot be framed, `takePkt_closed` and `deliver_closed` for a packet that can. -/
theorem closedContextDropsItsPackets : Obligations.ClosedContextDropsItsPackets := by
  refine ⟨?_, ?_⟩
  · intro s c ho x hd len
    have ho' := (s.advanced_isOpen c (pktUnits len)).trans ho
    refine ⟨fun hlt => ?_, fun hle hcrc => ?_, fun hle hcrc hop => ?_, fun hle hcrc hop => ?_⟩
    · rw [show s.takeFront c = s.discardBatch c hd (0x030, 0x0001) from if_pos hlt, s.discardBatch_closed c hd _ ho]
      rfl
    · rw [s.takeFront_badCrc c hle hcrc, s.discardBatch_closed c _ _ ho]
      rfl
    · rw [s.takeFront_takes c hle hcrc, hop]
      exact takeCtxOpen_closed c _ _ ho'
    · rw [s.takeFront_takes c hle hcrc, takePkt_closed _ _ _ _ hop ho']
      exact State.modCtx_modCtx s c _ _
  · intro i c op p s hi ht hf hu ho h1
    obtain ⟨owns, busy, body, he⟩ := exec_delivers i c op p s hi h1 ht hf hu
    rw [he, State.deliver_closed _ _ _ _ _ _ _ ((State.fetched_isOpen s c op p hf hu).trans ho)]
    rfl

/-- Settles O49: a delivered packet that fails steps 3 to 8 is `deliver_rejected`, one that fails steps 9 or 10 is `deliver_role`. -/
theorem intakeRejectsBeforeTheCommand : Obligations.IntakeRejectsBeforeTheCommand := by
  refine ⟨?_, ?_⟩
  · intro i c op p s hi ht hf hu ho f hfail
    obtain ⟨owns, busy, body, he⟩ := exec_delivers_open i c op p s hi ht hf hu ho
    rw [he, State.deliver_rejected _ c op p owns busy body f ((State.fetched_isOpen s c op p hf hu).trans ho)
      ((intakeFail_of_fetched s c op p hf hu).trans hfail)]
    rfl
  · intro i c op p s hi ht hf hu ho hin f hfail
    obtain ⟨owns, busy, body, he⟩ := exec_delivers_open i c op p s hi ht hf hu ho
    rw [he, State.deliver_role _ c op p owns busy body f ((State.fetched_isOpen s c op p hf hu).trans ho)
      ((intakeFail_of_fetched s c op p hf hu).trans hin) ((roleFail_of_fetched s c op p hf hu).trans hfail)]
    rfl

/-- The ownership check that a command which starts work makes before the fault state is looked at (R38 steps 12 and 13). -/
theorem starter_delivers (c : Fin 8) (r : Pkt) (x : Instr × Nat × Pkt × (Hdr → Pkt → State → Option Fail))
    (hx : x ∈ [(.burstStart c r, 0x303, r, ownSeq), (.capArm c r, 0x702, r, engOwns), (.tmuArm c r, 0x802, r.withA0 9 8 0, tmuArmOwns),
      (.tuneRunFull c r, 0xB01, r.withA0 17 16 0, tuneOwns), (.tuneRunReflect c r, 0xB01, r.withA0 17 16 1, tuneOwns),
      (.tuneRunLive c r, 0xB01, r.withA0 17 16 2, tuneOwns), (.ringTrain c r, 0x102, r, noFail)]) :
    (∃ busy body, ∀ s, exec x.1 s = hostCmd s c x.2.1 x.2.2.1 (fun q s => s.deliver c x.2.1 q x.2.2.2 busy body)) ∧
      (x.2.1 ∈ [0x303, 0x702, 0xB01, 0x102] ∨ (x.2.1 = 0x802 ∧ x.2.2.1.b0 8 = false ∧ x.2.2.1.b0 9 = false)) := by
  have h8 : (r.withA0 9 8 0).b0 8 = false ∧ (r.withA0 9 8 0).b0 9 = false := by
    have h := Pkt.a0_withA0 r 9 8 0 (by decide) (by decide) (by decide)
    exact ⟨by rw [Pkt.b0_of_a0 _ 9 8 0 (by decide), h]; rfl, by rw [Pkt.b0_of_a0 _ 9 8 1 (by decide), h]; rfl⟩
  simp only [List.mem_cons, List.not_mem_nil, or_false] at hx
  obtain rfl | rfl | rfl | rfl | rfl | rfl | rfl := hx
  case inr.inr.inl => exact ⟨⟨_, _, fun _ => rfl⟩, .inr ⟨rfl, h8⟩⟩
  all_goals exact ⟨⟨_, _, fun _ => rfl⟩, .inl (by simp)⟩

/-- Settles O50: the fault state does not change during intake, so `deliver_fault` refuses what `faultFail_some` lists. -/
theorem faultStateRefusesWhatItMust : Obligations.FaultStateRefusesWhatItMust := by
  have hfault : ∀ (c : Fin 8) (op : Nat) (p : Pkt) (s : State) (f : Option Fail), s.faultFail op p = f →
      ((s.fetched c op p).enter c op p).faultFail op p = f := fun c op p s f h => (s.faultFail_entered c op p).trans h
  refine ⟨?_, ?_⟩
  · intro i c op p s hi ht hf hu ho hin hro hs hfs
    obtain ⟨owns, busy, body, he⟩ := exec_delivers_open i c op p s hi ht hf hu ho
    obtain ⟨g, hg⟩ := State.deliver_fault (s.fetched c op p) c op p owns busy body (0x0F0, 0)
      ((State.fetched_isOpen s c op p hf hu).trans ho) ((intakeFail_of_fetched s c op p hf hu).trans hin)
      ((roleFail_of_fetched s c op p hf hu).trans hro) hs (hfault c op p s _ (s.faultFail_some op p hfs))
    exact ⟨g, by rw [he, hg]⟩
  · intro c r x hx op p s ht hf hu ho hin hro hs hfs hown
    obtain ⟨⟨busy, body, he⟩, hop⟩ := starter_delivers c r x hx
    have hnot : ∀ n ∈ [0x303, 0x702, 0xB01, 0x102], n ∉ [0x001, 0x002, 0x007, 0xC02, 0xE01, 0xD02, 0x703] ∧ n ≠ 0x802 := by decide
    have hrefuses : s.faultFail op p = some (0x0F0, 0) := by
      rcases hfs with hfatal | hflt
      · refine s.faultFail_some op p (.inl ⟨hfatal, ?_, ?_⟩)
        · rcases hop with hop | ⟨hop, _⟩
          · exact (hnot _ hop).1
          · show x.2.1 ∉ _; rw [hop]; decide
        · rintro h802
          rcases hop with hop | ⟨_, hb⟩
          · exact absurd h802 (hnot _ hop).2
          · exact hb
      · exact s.faultFail_some op p (.inr ⟨hflt, hop⟩)
    rw [he, (hostCmd_waits s c op p _).2.2 ht hf hu]
    exact congrArg _ (State.deliver_fault_owned _ c op p x.2.2.2 busy body (0x0F0, 0)
      ((State.fetched_isOpen s c op p hf hu).trans ho) ((intakeFail_of_fetched s c op p hf hu).trans hin)
      ((roleFail_of_fetched s c op p hf hu).trans hro) hs (hfault c op p s _ hrefuses) hown)

end Sys2Proof.Machine
end

section
/-! O7, O41, O52: staged writes join the staging set, are refused where it is full, and have no other effect before their commit (R60, R66). -/

namespace Sys2Proof.Machine

open Sys2Proof

/-- The command `i` is a staged write of packet `p`: it is delivered, its sender must meet `own`, and its body stages the packet
in plain after the check `form`, with `echo` as STAGED payload (R60). -/
structure Stages (i : Instr) (c : Fin 8) (op : Nat) (p : Pkt) (own : Hdr → Pkt → State → Prop) (form : Pkt → Option Fail)
    (echo : State → Hdr → Pkt → List Byte) : Prop where
  /-- The packet is delivered with an ownership check that `own` passes, and a body that stages it. -/
  delivered : ∃ owns body, (∀ s, exec i s = hostCmd s c op p (fun q s => s.deliver c op q owns noFail body)) ∧
    ∀ h bs a, let q : Pkt := { p with payload := bs }
      (own h q a → owns h q a = none) ∧ body h q a = stageBody op form echo h q a

section
variable {i : Instr} {c : Fin 8} {op : Nat} {p : Pkt} {own : Hdr → Pkt → State → Prop} {form : Pkt → Option Fail}
  {echo : State → Hdr → Pkt → List Byte}

/-- With room, a staged write joins the staging set (R66). -/
theorem Stages.joins (hs : Stages i c op p own form echo) :
    Answers i c op p (fun h q a => own h q a ∧ form q = none ∧ stageRoom h q a) (fun h q a => a.joined h op q (echo a h q)) := by
  obtain ⟨owns, body, hi, hb⟩ := hs.delivered
  refine completes_of_body i c op p _ _ owns noFail body hi ?_
  rintro h bs a q ⟨hown, hf, hroom⟩
  obtain ⟨ho, hbody⟩ := hb h bs a
  exact ⟨ho hown, rfl, hbody.trans (stageBody_joined op form echo h q a hf hroom)⟩

/-- Without room, a staged write is refused and the set is as before (R66). -/
theorem Stages.full (hs : Stages i c op p own form echo) :
    Completes i c op p (fun h q a => own h q a ∧ form q = none ∧ ¬ stageRoom h q a)
      (fun h _ a t => t = a.refuse h (0x021, 0x0022) ∧ t.ctxs[h.mb].stage = a.ctxs[h.mb].stage) := by
  obtain ⟨owns, body, hi, hb⟩ := hs.delivered
  refine completes_of_body i c op p _ _ owns noFail body hi ?_
  rintro h bs a q ⟨hown, hf, hroom⟩
  obtain ⟨ho, hbody⟩ := hb h bs a
  have hfull : body h q a = a.refuse h (0x021, 0x0022) := by
    rw [hbody, stageBody, State.unlessFail_of_none a h _ hf, State.stage_full a h op q _ hroom]
  exact ⟨ho hown, rfl, hfull, by rw [hfull, State.refuse_stage a h _ (by decide)]⟩

/-- Without C and N, a staged write changes its context only (R60). -/
theorem Stages.frame (hs : Stages i c op p own form echo) (s : State) (ha : s.Admits c op p) (hn : p.isN = false) (hc : p.isC = false) :
    ∃ k, exec i s = .next (s.modCtx c k) := by
  obtain ⟨owns, body, hi, hb⟩ := hs.delivered
  refine frame_of_staged i c op p owns noFail body hi ?_ s ha hn hc
  rintro h bs a rfl hN hC
  rw [(hb h bs a).2]
  exact stageBody_ctx op form echo h _ a hN hC

/-- A command that its definition delivers with the ownership check of its group or sequencer is a staged write. -/
theorem stages_of_exec (owns : Hdr → Pkt → State → Option Fail) (ho : ∀ h q a, owns h q a = none ↔ own h q a)
    (hi : ∀ s, exec i s = hostCmd s c op p (fun q s => s.deliver c op q owns noFail (stageBody op form echo))) :
    Stages i c op p own form echo :=
  ⟨owns, _, hi, fun h _ a => ⟨(ho h _ a).2, rfl⟩⟩

end

/-! ### Which commands are staged writes -/

section
variable (c : Fin 8) (p : Pkt)

theorem seqConfig_stages : Stages (.seqConfig c p) c 0x302 p seqMine seqConfigForm noEcho := stages_of_exec ownSeq ownSeq_none fun _ => rfl
theorem tsetWrite_stages : Stages (.tsetWrite c p) c 0x401 p groupMine tsetForm noEcho := stages_of_exec ownGrp ownGrp_none fun _ => rfl
theorem periodSet_stages : Stages (.periodSet c p) c 0x402 p seqMine periodForm periodEcho := stages_of_exec ownSeq ownSeq_none fun _ => rfl
theorem deskewWrite_stages : Stages (.deskewWrite c p) c 0x403 p groupMine deskewForm noEcho := stages_of_exec ownGrp ownGrp_none fun _ => rfl
theorem formatSet_stages : Stages (.formatSet c p) c 0x501 p groupMine formatForm noEcho := stages_of_exec ownGrp ownGrp_none fun _ => rfl
theorem loadSet_stages : Stages (.loadSet c p) c 0x503 p groupMine loadForm (fun _ _ q => loadEcho q) := stages_of_exec ownGrp ownGrp_none fun _ => rfl
theorem levelsSet_stages : Stages (.levelsSet c p) c 0x504 p groupMine levelsForm (fun _ _ q => if q.isE then [] else levelsEcho q) :=
  stages_of_exec ownGrp ownGrp_none fun _ => rfl
theorem fixtureDelay_stages : Stages (.fixtureDelay c p) c 0xB04 p groupMine fixtureForm noEcho := stages_of_exec ownGrp ownGrp_none fun _ => rfl

/-- REFLEX_SET with QUERY clear is a staged write (R192). -/
theorem reflexSet_stages : Stages (.reflexSet c p) c 0x502 (p.withA0 15 15 0) groupMine reflexForm noEcho := by
  refine ⟨ownGrp, reflexBody, fun _ => rfl, fun h bs a => ⟨(ownGrp_none h _ a).2, ?_⟩⟩
  have hb : ({ p.withA0 15 15 0 with payload := bs } : Pkt).b0 15 = false := Pkt.b0_of_row_zero p _ 15 rfl (by decide)
  exact if_neg (by rw [hb]; decide)

/-- The tables of MASK_SET that belong to a group check its owner (R235). -/
theorem maskOwns_grp (h : Hdr) (q : Pkt) (a : State) (ht : q.a0 13 12 ≠ 2) : maskOwns h q a = none ↔ groupMine h q a := by
  rw [maskOwns, maskTable, if_neg ht, ownGrp_none]

/-- Table 2 of MASK_SET belongs to a sequencer (R235). -/
theorem maskOwns_seq (h : Hdr) (q : Pkt) (a : State) (ht : q.a0 13 12 = 2) : maskOwns h q a = none ↔ seqMine h q a := by
  rw [maskOwns, maskTable, if_pos ht, ownSeq_none]

/-- A row of MASK_SET is a staged write of the owner that its table asks for (R235). -/
theorem maskSet_stages {i : Instr} {own : Hdr → Pkt → State → Prop} (t : Nat) (ht : t < 4)
    (hi : ∀ s, exec i s = hostCmd s c 0x601 (p.withA0 13 12 t) (takeMaskSet c))
    (ho : ∀ h q a, q.a0 13 12 = t → (maskOwns h q a = none ↔ own h q a)) : Stages i c 0x601 (p.withA0 13 12 t) own maskForm noEcho :=
  ⟨maskOwns, _, hi, fun h bs a =>
    ⟨(ho h { p.withA0 13 12 t with payload := bs } a (Pkt.a0_of_row p _ 13 12 t rfl (by decide) (by decide) ht)).2, rfl⟩⟩

theorem maskSetPinMask_stages : Stages (.maskSetPinMask c p) c 0x601 (p.withA0 13 12 0) groupMine maskForm noEcho :=
  maskSet_stages c p 0 (by decide) (fun _ => rfl) fun h q a ht => maskOwns_grp h q a (by omega)
theorem maskSetRanges_stages : Stages (.maskSetRanges c p) c 0x601 (p.withA0 13 12 1) groupMine maskForm noEcho :=
  maskSet_stages c p 1 (by decide) (fun _ => rfl) fun h q a ht => maskOwns_grp h q a (by omega)
theorem maskSetFailproc_stages : Stages (.maskSetFailproc c p) c 0x601 (p.withA0 13 12 2) seqMine maskForm noEcho :=
  maskSet_stages c p 2 (by decide) (fun _ => rfl) maskOwns_seq

end

/-! ### CAP_CONFIG, which takes its engine first (R257, R259) -/

/-- Ownership of CAP_CONFIG (R257). -/
theorem capCfgOwns_none (h : Hdr) (q : Pkt) (a : State) :
    capCfgOwns h q a = none ↔ (a.caps[pktEng q].owner = .none ∨ a.caps[pktEng q].owner = h.who) ∧ a.seqs[(capOf q).seq].owner = h.who := by
  simp only [capCfgOwns, firstFail_cons, firstFail_nil, failIf_none, takenFrom_false, notMine_false, and_true]

/-- CAP_CONFIG of a right form gives the engine to the sender and stages the write. -/
theorem capConfigBody_stages (h : Hdr) (q : Pkt) (a : State) (hf : capForm q = none) :
    capConfigBody h q a = (a.modCap (pktEng q) (fun e => { e with owner := h.who })).stage h 0x701 q [] :=
  State.unlessFail_of_none a h _ hf

/-- The room in the staging set does not depend on the engines. -/
theorem stageRoom_modCap (h : Hdr) (q : Pkt) (a : State) (e : Fin 8) (f : Cap → Cap) : stageRoom h q (a.modCap e f) ↔ stageRoom h q a := Iff.rfl

/-- Settles O7: each command but CAP_CONFIG is `Stages.joins`. -/
theorem stagedWritesJoinTheStagingSet : Obligations.StagedWritesJoinTheStagingSet := by
  refine ⟨fun c p => (seqConfig_stages c p).joins, fun c p => (tsetWrite_stages c p).joins, fun c p => (periodSet_stages c p).joins,
    fun c p => (deskewWrite_stages c p).joins, fun c p => (formatSet_stages c p).joins, fun c p => (reflexSet_stages c p).joins,
    fun c p => (loadSet_stages c p).joins, fun c p => (levelsSet_stages c p).joins, fun c p => (maskSetPinMask_stages c p).joins,
    fun c p => (maskSetRanges_stages c p).joins, fun c p => (maskSetFailproc_stages c p).joins, fun c p => (fixtureDelay_stages c p).joins,
    fun c p => ?_⟩
  refine completes_of_body _ c 0x701 p _ _ capCfgOwns noFail capConfigBody (fun _ => rfl) ?_
  rintro h bs a q ⟨hcap, hseq, hf, hroom⟩
  exact ⟨(capCfgOwns_none h q a).2 ⟨hcap, hseq⟩, rfl,
    (capConfigBody_stages h q a hf).trans (State.stage_joined _ h _ q _ ((stageRoom_modCap h q a _ _).2 hroom))⟩

/-- Settles O41: each command but CAP_CONFIG is `Stages.full`; DISCARD and the counts of a set follow from their definitions. -/
theorem fullStagingSetRefusesStagedWrites : Obligations.FullStagingSetRefusesStagedWrites := by
  refine ⟨fun c p => (seqConfig_stages c p).full, fun c p => (tsetWrite_stages c p).full, fun c p => (periodSet_stages c p).full,
    fun c p => (deskewWrite_stages c p).full, fun c p => (formatSet_stages c p).full, fun c p => (reflexSet_stages c p).full,
    fun c p => (loadSet_stages c p).full, fun c p => (levelsSet_stages c p).full, fun c p => (maskSetPinMask_stages c p).full,
    fun c p => (maskSetRanges_stages c p).full, fun c p => (maskSetFailproc_stages c p).full, fun c p => (fixtureDelay_stages c p).full,
    fun c p => ?_, fun c p => ?_, fun ws op q => ⟨by simp, by simp [stageBytes]⟩⟩
  · refine completes_of_body _ c 0x701 p _ _ capCfgOwns noFail capConfigBody (fun _ => rfl) ?_
    rintro h bs a q ⟨hcap, hseq, hf, hroom⟩
    have hfull : capConfigBody h q a = (a.modCap (pktEng q) (fun e => { e with owner := h.who })).refuse h (0x021, 0x0022) :=
      (capConfigBody_stages h q a hf).trans (State.stage_full _ h _ q _ (mt (stageRoom_modCap h q a _ _).1 hroom))
    exact ⟨(capCfgOwns_none h q a).2 ⟨hcap, hseq⟩, rfl, hfull, by rw [hfull, State.refuse_stage _ h _ (by decide)]; rfl⟩
  · refine completes_of_body _ c 0x004 p _ _ noFail noFail discardBody (fun _ => rfl) ?_
    intro h bs a q hu
    exact ⟨rfl, rfl, State.unlessFail_of_none _ _ _ ((lenFail_none q 0).2 hu)⟩

/-- Settles O52: each command is `Stages.frame`. -/
theorem stagedWritesHaveNoEffectBeforeTheirCommit : Obligations.StagedWritesHaveNoEffectBeforeTheirCommit := by
  refine ⟨?_, ?_, ?_, ?_, ?_, ?_, ?_, ?_, ?_, ?_, ?_, ?_⟩ <;> intro c p s ha hn hc
  · exact (seqConfig_stages c p).frame s ha hn hc
  · exact (tsetWrite_stages c p).frame s ha hn hc
  · exact (periodSet_stages c p).frame s ha hn hc
  · exact (deskewWrite_stages c p).frame s ha hn hc
  · exact (formatSet_stages c p).frame s ha hn hc
  · exact (reflexSet_stages c p).frame s ha hn hc
  · exact (loadSet_stages c p).frame s ha hn hc
  · exact (levelsSet_stages c p).frame s ha hn hc
  · exact (maskSetPinMask_stages c p).frame s ha hn hc
  · exact (maskSetRanges_stages c p).frame s ha ((withA0_flags p _ _ _).1.trans hn) ((withA0_flags p _ _ _).2.trans hc)
  · exact (maskSetFailproc_stages c p).frame s ha ((withA0_flags p _ _ _).1.trans hn) ((withA0_flags p _ _ _).2.trans hc)
  · exact (fixtureDelay_stages c p).frame s ha hn hc

end Sys2Proof.Machine
end

section
/-! O5, O6, O60: contexts are opened, closed and lost with the link, and share the quota pool (R45 to R55, R67, R68). -/

namespace Sys2Proof.Machine

open Sys2Proof

/-- CTX_OPEN of a closed context, taken at once, is handled on the fetched packet (R46). -/
theorem ctxOpen_closed (c : Fin 8) (p : Pkt) (s : State) (ht : s.takes c = true) (hf : s.ctxs[c].pending = 0)
    (hu : pktUnits p.units ≤ 32767) (ho : s.ctxs[c].isOpen = false) :
    exec (.ctxOpen c p) s = .next ((s.fetched c 0x001 p).openClosed c p) := by
  have ho' : (s.fetched c 0x001 p).ctxs[c].isOpen = false := (State.fetched_isOpen s c _ p hf hu).trans ho
  have he : exec (.ctxOpen c p) s = .next (takeCtxOpen c p (s.fetched c 0x001 p)) := (hostCmd_waits s c 0x001 p (takeCtxOpen c)).2.2 ht hf hu
  rw [he, takeCtxOpen, ho', if_neg (by decide)]

/-- CTX_OPEN that passes intake and fails a check of its own is refused (R46). -/
theorem State.openClosed_refused (s : State) (c : Fin 8) (p : Pkt) (f : Fail) (hin : intakeFail s c 0x001 p = none) (hf : s.openFail c p = some f) :
    s.openClosed c p = s.openRefused c p f := by
  simp only [State.openClosed, hin, hf]

/-- CTX_OPEN that passes intake and its own checks opens the context and answers its quota (R46). -/
theorem State.openClosed_opened (s : State) (c : Fin 8) (p : Pkt) (hin : intakeFail s c 0x001 p = none) (hf : s.openFail c p = none) :
    s.openClosed c p = (s.modCtx c (fun x => x.opened p)).reply (p.hdr c 0x001 0) 0 0 (openQuota p) [] := by
  simp only [State.openClosed, hin, hf]

/-- What a check looks for is right. -/
theorem failIf_pass {b : Bool} (h : b = false) (st sub : Nat) : failIf b st sub = none := (failIf_none b st sub).2 h

/-- A plain CTX_CLOSE is busy where work of its context runs (R50). -/
theorem closeBusy_none (h : Hdr) (q : Pkt) (a : State) : closeBusy h q a = none ↔ q.b0 0 = true ∨ a.ctxRuns h.mb = false := by
  cases hb : q.b0 0 <;> simp [closeBusy, hb]

/-- Settles O5: CTX_OPEN by its steps of R46, the others by their bodies. -/
theorem contextCommandsComplete : Obligations.ContextCommandsComplete := by
  refine ⟨?_, fun c p => ?_, fun c p => ?_, fun c p => ?_, fun c p => ?_, fun c p => ?_⟩
  · intro c p s ht hf hu ho hin hopen
    rw [ctxOpen_closed c p s ht hf hu ho, State.openClosed_opened _ c p ((intakeFail_of_fetched s c _ p hf hu).trans hin) hopen]
  · refine completes_of_body _ c 0x002 _ _ _ noFail closeBusy ctxCloseBody (fun _ => rfl) ?_
    rintro h bs a q ⟨hu, hr⟩
    have hb : q.b0 0 = false := Pkt.b0_of_row_zero p q 0 rfl (by decide)
    refine ⟨rfl, (closeBusy_none h q a).2 (.inr hr), ?_⟩
    rw [ctxCloseBody, State.unlessFail_of_none _ _ _ ((lenFail_none q 0).2 hu), hb, if_neg (by decide)]
  · refine completes_of_body _ c 0x002 _ _ _ noFail closeBusy ctxCloseBody (fun _ => rfl) ?_
    intro h bs a q hu
    have hb : q.b0 0 = true := Pkt.b0_of_row_one p q 0 rfl (by decide)
    refine ⟨rfl, (closeBusy_none h q a).2 (.inl hb), ?_⟩
    rw [ctxCloseBody, State.unlessFail_of_none _ _ _ ((lenFail_none q 0).2 hu), hb, if_pos rfl]
  · refine completes_of_body _ c 0x005 _ _ _ noFail noFail fenceBody (fun _ => rfl) ?_
    intro h bs a q hu
    exact ⟨rfl, rfl, State.unlessFail_of_none _ _ _ ((lenFail_none q 0).2 hu)⟩
  · exact completes_of_body _ c 0x006 _ _ _ noFail noFail echoBody (fun _ => rfl) fun h bs a _ => ⟨rfl, rfl, rfl⟩
  · refine completes_of_body _ c 0x007 _ _ _ noFail noFail deviceInfoBody (fun _ => rfl) ?_
    intro h bs a q hu
    exact ⟨rfl, rfl, State.unlessFail_of_none _ _ _ ((lenFail_none q 0).2 hu)⟩

/-- After the loss of the link a context keeps its mailbox window only (R51). -/
theorem State.hostDown_ctx (s : State) (c : Fin 8) : ∃ w, (s.hostDown).ctxs[c] = { window := w } := by
  unfold State.hostDown
  dsimp only
  rw [vmap_get]
  exact ⟨_, rfl⟩

/-- Settles O6: `State.hostDown` is the forced end of every context. -/
theorem linkLossClosesEveryContext : Obligations.LinkLossClosesEveryContext := by
  intro s hl
  have he : execPcieLinkDown s = .next s.hostDown := by rw [execPcieLinkDown, if_pos hl]
  exact ⟨s.hostDown, he, rfl, s.hostDown_ctx, rfl, rfl, rfl, rfl⟩

/-- Fetching a packet changes no share of the quota pool. -/
theorem State.fetched_quotaFree (s : State) (c : Fin 8) (op : Nat) (p : Pkt) (hf : s.ctxs[c].pending = 0) (hu : pktUnits p.units ≤ 32767) :
    (s.fetched c op p).quotaFree = s.quotaFree := by
  unfold State.quotaFree
  rw [State.fetched_eq s c op p hf hu, quotas_modCtx _ _ _ rfl]

/-- Fetching a packet changes no permission. -/
theorem State.fetched_permits (s : State) (c : Fin 8) (op : Nat) (p : Pkt) : (s.fetched c op p).permits c p = s.permits c p := rfl

/-- An open in a right form that asks for more than the pool has left fails with QUOTA_POOL (R46, R53). -/
theorem State.openFail_quota (s : State) (c : Fin 8) (p : Pkt) (hr : 1 ≤ openRings p ∧ openRings p ≤ 4) (hl : p.units = 4 * openRings p)
    (hq : p.a0 12 0 ≤ 4096) (hd : ∀ k < openRings p, descInRange (openDesc p k) = true) (hp : s.permits c p = true)
    (hlt : s.quotaFree < openQuota p) : s.openFail c p = some (0x021, 0x0021) := by
  have h1 : (decide (openRings p < 1) || decide (4 < openRings p) || p.units != 4 * openRings p) = false := by
    simp only [Bool.or_eq_false_iff, decide_eq_false_iff_not, bne_eq_false_iff_eq]; omega
  have h2 : decide (4096 < p.a0 12 0) = false := by rw [decide_eq_false_iff_not]; omega
  have h3 : (!(List.range (openRings p)).all (fun k => descInRange (openDesc p k))) = false := by
    rw [Bool.not_eq_false', List.all_eq_true]
    exact fun k hk => hd k (List.mem_range.1 hk)
  unfold State.openFail
  simp only [failIf_pass h1, failIf_pass h2, failIf_pass h3, hp, Bool.not_true, failIf_pass rfl, hlt, decide_true]
  rfl

/-- Settles O60: `State.openFail_quota` for the refusal, `State.openClosed_quotas` for the pool. -/
theorem openContextsShareTheQuotaPool : Obligations.OpenContextsShareTheQuotaPool := by
  refine ⟨?_, ?_, ?_⟩
  · rintro c p s ht hf hu ho hin ⟨hr1, hr4, hl, hq, hd, hperm⟩ hlt
    have hfail : (s.fetched c 0x001 p).openFail c p = some (0x021, 0x0021) :=
      State.openFail_quota _ c p ⟨hr1, hr4⟩ hl hq hd ((State.fetched_permits s c _ p).trans hperm)
        (by rw [State.fetched_quotaFree s c _ p hf hu]; exact hlt)
    rw [ctxOpen_closed c p s ht hf hu ho, State.openClosed_refused _ c p _ ((intakeFail_of_fetched s c _ p hf hu).trans hin) hfail]
  · intro c p s ht hf hu ho hs
    refine ⟨_, ctxOpen_closed c p s ht hf hu ho, State.openClosed_quotas _ c p ((State.fetched_isOpen s c _ p hf hu).trans ho) ?_⟩
    rw [State.fetched_eq s c _ p hf hu, quotas_modCtx _ _ _ rfl]
    exact hs
  · intro p hz
    rw [openQuota, if_pos hz]

end Sys2Proof.Machine
end

section
/-! O8, O9: commits strobe the staging set (R61 to R66), and the accesses of the front registers (R27 to R34, R487). -/

namespace Sys2Proof.Machine

open Sys2Proof

/-- Settles O8: a set that passes its checks is `State.commitSet_ok`, or `State.commitSet_at` for a tick still to come. -/
theorem commitsStrobeTheStagingSet : Obligations.CommitsStrobeTheStagingSet := by
  refine ⟨fun c p => ?_, fun c p => ?_, fun c p => ?_, fun _ _ => rfl⟩
  · refine completes_of_body _ c 0x003 _ _ _ noFail noFail commitBody (fun _ => rfl) ?_
    rintro h bs a q ⟨hu, hc⟩
    have hb : q.b0 0 = false := Pkt.b0_of_row_zero p q 0 rfl (by decide)
    refine ⟨rfl, rfl, ?_⟩
    rw [commitBody, State.unlessFail_of_none _ _ _ ((lenFail_none q 0).2 hu), hb, if_neg (by decide), State.commitSet_ok a h [] hc]
  · refine completes_of_body _ c 0x003 _ _ _ noFail noFail commitBody (fun _ => rfl) ?_
    rintro h bs a q ⟨hu, hc, ht⟩
    have hb : q.b0 0 = true := Pkt.b0_of_row_one p q 0 rfl (by decide)
    refine ⟨rfl, rfl, ?_⟩
    rw [commitBody, State.unlessFail_of_none _ _ _ ((lenFail_none q 0).2 hu), hb, if_pos rfl, State.commitSet_at a h [] _ hc ht]
    rfl
  · refine completes_of_body _ c 0x004 _ _ _ noFail noFail discardBody (fun _ => rfl) ?_
    intro h bs a q hu
    exact ⟨rfl, rfl, State.unlessFail_of_none _ _ _ ((lenFail_none q 0).2 hu)⟩

/-- Two changes that agree on the context as it is are one. -/
theorem State.modCtx_congr (s : State) (c : Fin 8) {f g : Ctx → Ctx} (h : f s.ctxs[c] = g s.ctxs[c]) : s.modCtx c f = s.modCtx c g := by
  unfold State.modCtx vmod
  rw [h]

/-- DOORBELL_WRITE with the link up takes over an acceptable producer offset (R34). -/
theorem execDoorbellWrite_accepted (c : Fin 8) (off : Nat) (bs : List Byte) (v : Word) (s : State) (hl : s.link.linkUp = true)
    (hok : (s.ctxs[c].writeWindow off bs).doorbellOk v.toNat = true) :
    execDoorbellWrite c off bs v s = .next ((s.modCtx c (fun x => { x.writeWindow off bs with prod := v.toNat })).intake c) := by
  simp only [execDoorbellWrite, hl, Bool.not_true, Bool.false_eq_true, if_false]
  exact congrArg (fun t => Host.Outcome.next (State.intake t c)) (s.modCtx_congr c (if_pos hok))

/-- DOORBELL_WRITE with the link up counts another producer offset (R34). -/
theorem execDoorbellWrite_counted (c : Fin 8) (off : Nat) (bs : List Byte) (v : Word) (s : State) (hl : s.link.linkUp = true)
    (hok : (s.ctxs[c].writeWindow off bs).doorbellOk v.toNat = false) :
    execDoorbellWrite c off bs v s = .next ((s.modCtx c (fun x => (x.writeWindow off bs).noteErr (0x030, 0x000B))).intake c) := by
  simp only [execDoorbellWrite, hl, Bool.not_true, Bool.false_eq_true, if_false]
  exact congrArg (fun t => Host.Outcome.next (State.intake t c)) (s.modCtx_congr c (if_neg (by simp only [hok, Bool.false_eq_true, not_false_eq_true])))

/-- RING_CONS_WRITE with the link up takes over an acceptable consumer offset, or counts the value (R42, R487). -/
theorem execRingConsWrite_up (c : Fin 8) (k : Fin 4) (v : Word) (s : State) (hl : s.link.linkUp = true) :
    execRingConsWrite c k v s = .next (if (s.ctxs[c].rings[k]).consOk v.toNat = true then (s.modRing c k (fun r => { r with cons := v.toNat })).intake c
      else s.modCtx c (fun x => x.noteErr (0x030, 0x000D))) := by
  simp only [execRingConsWrite, hl, Bool.not_true, Bool.false_eq_true, if_false]

/-- XB_BUSY_CLEAR with the link up clears COLLIDED where bit 0 is one (R30). -/
theorem execXbBusyClear_up (v : Word) (s : State) (hl : s.link.linkUp = true) :
    execXbBusyClear v s = .next (if v.getLsbD 0 then s.modLink (fun l => { l with xbCollided := false }) else s) := by
  simp only [execXbBusyClear, hl, Bool.true_and]

/-- The MSI-X table with one word of one vector written (R27). -/
def HostLink.msixWith (l : HostLink) (vec : Fin 64) (k : Fin 4) (v : Word) : Vector (Vector Word 4) 64 :=
  vmod l.msix vec (fun e => vmod e k (fun _ => v))

/-- The written vector of the MSI-X table. -/
theorem HostLink.msixWith_vec (l : HostLink) (vec : Fin 64) (k : Fin 4) (v : Word) :
    (l.msixWith vec k v)[vec] = vmod l.msix[vec] k (fun _ => v) := vmod_self _ _ _

/-- MSIX_TABLE_WRITE with the link up sends a message that waits for a vector which is no longer masked (R27). -/
theorem execMsixTableWrite_up (vec : Fin 64) (k : Fin 4) (v : Word) (s : State) (hl : s.link.linkUp = true) :
    execMsixTableWrite vec k v s = .next (let m := s.link.msixWith vec k v
      if s.link.pba.testBit vec.val = true ∧ ((m[vec])[3]).getLsbD 0 = false then
        s.modLink (fun l => { l with msix := m, pba := l.pba - 2 ^ vec.val, bus := { addr := (m[vec])[0].toNat + 2 ^ 32 * (m[vec])[1].toNat, bytes := le 4 (m[vec])[2].toNat } :: l.bus })
      else s.modLink (fun l => { l with msix := m })) := by
  simp only [execMsixTableWrite, hl, if_true]
  show Host.Outcome.next ((s.modLink (fun l => { l with msix := s.link.msixWith vec k v })).msixUnmask vec) = _
  generalize s.link.msixWith vec k v = m
  simp only [State.msixUnmask, State.modLink_link, Bool.and_eq_true, Bool.not_eq_true']
  by_cases hm : s.link.pba.testBit vec.val = true ∧ ((m[vec])[3]).getLsbD 0 = false
  · rw [if_pos hm, if_pos hm]
    simp only [State.msix, State.modLink_link, hl, hm.2, if_true, Bool.false_eq_true, if_false]
    rfl
  · rw [if_neg hm, if_neg hm]

/-- Settles O9, one lemma for each register. -/
theorem frontRegisterAccessesComplete : Obligations.FrontRegisterAccessesComplete := by
  refine ⟨?_, ?_, ?_, fun v s hl => execXbBusyClear_up v s hl, fun _ _ _ _ => rfl, ?_, ?_⟩
  · exact fun c off bs v s hl => ⟨execDoorbellWrite_accepted c off bs v s hl, execDoorbellWrite_counted c off bs v s hl⟩
  · refine fun c k v s hl => ⟨fun hok => ?_, fun hok => ?_⟩
    · exact (execRingConsWrite_up c k v s hl).trans (by rw [if_pos hok])
    · exact (execRingConsWrite_up c k v s hl).trans (by rw [if_neg (by rw [hok]; decide)])
  · exact fun s hl => congrArg Host.Outcome.next (if_pos hl)
  · intro vec k v s hl
    refine ⟨s.link.msixWith vec k v, ?_, fun j hj => ?_, fun w hw => vmod_other _ _ _ _ hw, execMsixTableWrite_up vec k v s hl⟩
    · rw [HostLink.msixWith_vec, vmod_self]
    · rw [HostLink.msixWith_vec, vmod_other _ _ _ _ hj]
  · rintro i s hl (⟨c, off, bs, v, rfl⟩ | ⟨c, k, v, rfl⟩ | rfl | ⟨v, rfl⟩ | ⟨n, k, v, rfl⟩)
    · show execDoorbellWrite c off bs v s = _
      simp only [execDoorbellWrite, hl, Bool.not_false, if_true]
    · show execRingConsWrite c k v s = _
      simp only [execRingConsWrite, hl, Bool.not_false, if_true]
    · show execTime0Read s = _
      simp only [execTime0Read, hl, Bool.false_eq_true, if_false]
    · show execXbBusyClear v s = _
      simp only [execXbBusyClear, hl, Bool.false_and, Bool.false_eq_true, if_false]
    · show execMsixTableWrite n k v s = _
      simp only [execMsixTableWrite, hl, Bool.false_eq_true, if_false]

end Sys2Proof.Machine
end

section
/-! O4: the block answers every command with a next state (R29, R38). -/

namespace Sys2Proof.Machine

open Sys2Proof

/-- Settles O4: a command of the host sends its packet; an event whose meaning branches has a next state at the end of each branch. -/
theorem everyCommandAnswersANextState : Obligations.EveryCommandAnswersANextState := by
  intro i s
  cases i
  case commitApplyAtVector | pageDemand | burstVector0 | burstFinal | driveEvent | comparatorCrossing | guardTrip | ppmuSettled | ppmuMeasureDone |
    levelMeasureDone | compCheckDone | strobe | capArmed | singleDrained | ladderEval | tmuSettingDone | tmuWindowOpen | tmuWindowClose |
    tmuEndpointEvent | tmuRangeExpire | tmuLatch | tapRaise | tapHubRoute | tapActivation | eventPinEdge | xbHostRead | xpRead | xpWrite | brushScrub
    | brushStall | seqSlotFetch | capSlotWrite | flogSlotDrain | hostinSlot | hostoutSlot | maintSlot | supSlot | idleSlot | tuneFullDieDone |
    reflectDone | calStoreDone | gapCalibration | edgeCellStarved | takeoverCycle | takeoverPrepareDone | handoff | takeoverDefer | carryDone |
    handbackAfterBurst | gongReport | subsysReset | holdExpire | tickToggle | supHang | enumeration | loopMeasured | countLoad | trainingEnd |
    decisionWord | gtSlot | controlBlock | downbeat | alignStep | ringErrorBlock | zeroizeDone | fwUpdateDone | guardArmed =>
    dsimp only [exec, execCommitApplyAtVector, execPageDemand, execBurstVector0, execBurstFinal, execDriveEvent, execComparatorCrossing,
      execGuardTrip, execPpmuSettled, execPpmuMeasureDone, execLevelMeasureDone, execCompCheckDone, execStrobe, execCapArmed, execSingleDrained,
      execLadderEval, execTmuSettingDone, execTmuWindowOpen, execTmuWindowClose, execTmuEndpointEvent, execTmuRangeExpire, execTmuLatch, execTapRaise,
      execTapHubRoute, execTapActivation, execEventPinEdge, execXbHostRead, execXpRead, execXpWrite, execBrushScrub, execBrushStall, execSeqSlotFetch,
      execCapSlotWrite, execFlogSlotDrain, execHostinSlot, execHostoutSlot, execMaintSlot, execSupSlot, execIdleSlot, execTuneFullDieDone,
      execReflectDone, execCalStoreDone, execGapCalibration, execEdgeCellStarved, execTakeoverCycle, execTakeoverPrepareDone, execHandoff,
      execTakeoverDefer, execCarryDone, execHandbackAfterBurst, execGongReport, execSubsysReset, execHoldExpire, execTickToggle, execSupHang,
      execEnumeration, execLoopMeasured, execCountLoad, execTrainingEnd, execDecisionWord, execGtSlot, execControlBlock, execDownbeat, execAlignStep,
      execRingErrorBlock, execZeroizeDone, execFwUpdateDone, execGuardArmed]
    repeat' split
    all_goals exact ⟨_, rfl⟩
  all_goals exact ⟨_, rfl⟩

end Sys2Proof.Machine
end

section
/-! O20: TAPR, MARK and HALT act at their vector, and commits take effect at a vector boundary (R61, R118, R129, R131). -/

namespace Sys2Proof.Machine

open Sys2Proof

/-- What is counted of an issued vector is part of the flow. -/
theorem Seq.went_of_flow {y z x : Seq} {addr start : Nat} (hf : y.flow = z.flow) (hz : z.went x addr start) : y.went x addr start := by
  simp only [Seq.flow, Prod.mk.injEq] at hf
  obtain ⟨⟨hv, hl, ha, hs, _⟩, _⟩ := hf
  obtain ⟨zv, zl, za, zs⟩ := hz
  exact ⟨hv.trans zv, hl.trans zl, ha.trans za, hs.trans zs⟩

/-- An opcode with no part in the flow goes on to the next address (R118, R129, R131). -/
theorem Seq.advance_went (x : Seq) (l : VLine) (start fin_ per db : Nat) (ho : l.op = 0x0B ∨ l.op = 0x0D ∨ l.op = 0x3F) :
    (x.advance l start fin_ per db).went x (x.addr + 1) fin_ := by
  unfold Seq.advance
  rcases ho with ho | ho | ho <;> simp [ho, Seq.went]

/-- A vector of TAPR, MARK or HALT that is due is issued and counted before it acts (R115). -/
theorem State.issue_act_went (s : State) (q : Fin 4) (op : Nat) (l : VLine) (u : State) (h : Issues s q op l u)
    (hop : op = 0x0B ∨ op = 0x0D ∨ op = 0x3F) :
    ∃ w : State, (w.seqs[q]).went u.seqs[q] (u.seqs[q].addr + 1) (u.seqs[q].nextStart + u.period q) ∧
      (op = 0x0B → s.issue q op = w.tapr q (bits l.operand 29 24) (u.seqs[q]).nextStart) ∧
      (op = 0x0D → s.issue q op = w.capUser q (u.seqs[q]).vecs (u.seqs[q]).addr l.mark l.operand (u.seqs[q]).nextStart) ∧
      (op = 0x3F → s.issue q op = w.endBurst q 1 0 ((u.seqs[q]).nextStart + u.period q) ((u.seqs[q]).addr + 1) none) := by
  obtain ⟨w, hflow, hacts⟩ := s.issue_act q op l u h
  obtain ⟨_, _, _, _, ho, _⟩ := h
  exact ⟨w, Seq.went_of_flow hflow (Seq.advance_went _ l _ _ _ _ (by rw [ho]; exact hop)), hacts⟩

/-- A running sequencer whose vector is due applies the commits that have reached it, if that vector is issued (R61). -/
theorem execCommitApplyAtVector_due (q : Fin 4) (s : State) (l : VLine) (unw : Option Nat) (sl : Bool) :
    s.seqs[q].st = .running → s.seqs[q].due ≤ s.metro → (s.prepare q).2.2 = .issue l unw sl →
      execCommitApplyAtVector q s = .next (s.applyParts q s.seqs[q].due s.seqs[q].nextStart (some s.seqs[q].vecs)) := by
  unfold execCommitApplyAtVector
  generalize s.seqs[q] = x
  intro hr hd hp
  have hn : (x.st != .running || decide (s.metro < x.due)) = false := by
    rw [hr, decide_eq_false (Nat.not_lt.2 hd)]; rfl
  simp only [hn, hp, Bool.false_eq_true, if_false]

/-- Settles O20: `State.issue_act_went` for the three opcodes. -/
theorem vectorActsFollowTheirVector : Obligations.VectorActsFollowTheirVector := by
  refine ⟨fun q s l u h => ?_, fun q s l u h => ?_, fun q s l u h => ?_, execCommitApplyAtVector_due⟩
  · obtain ⟨w, hw, ht, _, _⟩ := s.issue_act_went q _ l u h (.inl rfl)
    exact ⟨w, hw, congrArg Host.Outcome.next (ht rfl)⟩
  · obtain ⟨w, hw, _, hm, _⟩ := s.issue_act_went q _ l u h (.inr (.inl rfl))
    exact ⟨w, hw, congrArg Host.Outcome.next (hm rfl)⟩
  · obtain ⟨w, hw, _, _, hh⟩ := s.issue_act_went q _ l u h (.inr (.inr rfl))
    exact ⟨w, hw, congrArg Host.Outcome.next (hh rfl)⟩

end Sys2Proof.Machine
end

section
/-! O25: a PPMU entry settles, and each measurement in progress ends with its response (R214 to R224). -/

namespace Sys2Proof.Machine

open Sys2Proof

/-- A PPMU entry settles after its settling time, and lets the waiting measurement start (R214, R215). -/
theorem execPpmuSettled_settles (p : Fin 128) (s : State) (hm : s.pins[p].ppmu.mode ≠ 0) (hs : s.pins[p].ppmu.settled = false)
    (ht : s.pins[p].ppmu.wroteTick + 4000 * s.pins[p].ppmu.settling ≤ s.tick) :
    execPpmuSettled p s = .next ((s.modPin p (fun y => { y with ppmu := { y.ppmu with settled := true } })).startMeas (grpOf p)) := by
  simp only [execPpmuSettled, usT, hm, hs, ht, ne_eq, not_false_eq_true, Bool.not_false, and_self, if_true]

/-- A PPMU measurement ends with its last conversion (R215, R216). -/
theorem execPpmuMeasureDone_ends (g : Fin 8) (samples : List (List Sample)) (s : State) (m : Meas) (js : List MeasJob) (t : Nat)
    (hj : s.grps[g].jobs = .ppmu m :: js) (hst : m.started = some t) (hl : samples.length = (entriesOf m.mask).length)
    (hn : ∀ l ∈ samples, l.length = m.samples) (ht : t + 4000 * ((entriesOf m.mask).length * (5 + m.samples)) ≤ s.tick) :
    execPpmuMeasureDone g samples s = .next (({ s with free := s.free + 3 * (entriesOf m.mask).length } : State).endJob g
      { s.measReply m.hdr (((entriesOf m.mask).zip samples).zipIdx.flatMap (fun y => s.measPin g t m.samples y.2 y.1.1 y.1.2)) with
        locks := some (g, m.mask) }) := by
  have hall : samples.all (fun l => l.length == m.samples) = true := by
    simpa only [List.all_eq_true, beq_iff_eq] using hn
  simp only [execPpmuMeasureDone, hj, hst, usT, hl, hall, ht, and_self, if_true]

/-- The level measurement that is first in its group (R217). -/
theorem Grp.level_of_jobs (x : Grp) (m : LevMeas) (js : List MeasJob) (h : x.jobs = .level m :: js) : x.level = some m := by
  simp only [Grp.level, h]

/-- A SLOPE measurement ends with its edges in or its timeout, after the open crossings that nothing can pair (R222). -/
theorem execLevelMeasureDone_slope (g : Fin 8) (ramps : List (Option Nat)) (s : State) (m m1 : LevMeas) (js : List MeasJob)
    (hj : s.grps[g].jobs = .level m :: js) (hs : m.slope = true) (hd : m.count ≤ m.dts.length ∨ m.startTick + 4000 * m.timeout ≤ s.tick)
    (h1 : (s.lastEdges m.pin).grps[g].jobs = .level m1 :: js) :
    execLevelMeasureDone g ramps s =
      .next (({ s.lastEdges m.pin with free := s.free + 3 } : State).endJob g (s.measReply m.hdr (m1.slopeReply s.free))) := by
  simp only [execLevelMeasureDone, Grp.level_of_jobs _ m js hj, Grp.level_of_jobs _ m1 js h1, hs, usT, hd, if_true, Option.getD_some]

/-- A RAMP measurement ends after its ramps, and enables the comparator that it took (R218). -/
theorem execLevelMeasureDone_ramp (g : Fin 8) (ramps : List (Option Nat)) (s : State) (m : LevMeas) (js : List MeasJob)
    (hj : s.grps[g].jobs = .level m :: js) (hs : m.slope = false) (hl : ramps.length = m.ramps) (hr : ∀ d, some d ∈ ramps → d ≤ m.sweep)
    (ht : m.startTick * 512 + m.ramps * (1000 * 2048 + m.sweep) ≤ s.metro) :
    execLevelMeasureDone g ramps s =
      .next ((s.modPin m.pin (fun y => if m.sel then { y with vol := y.vol.enable s.metro } else { y with voh := y.voh.enable s.metro })).endJob g
        (s.measReply m.hdr (m.rampReply ramps))) := by
  have hall : ramps.all (fun r => match r with | none => true | some d => decide (d ≤ m.sweep)) = true := by
    rw [List.all_eq_true]
    intro r hmem
    cases r with
    | none => rfl
    | some d => exact decide_eq_true (hr d hmem)
  have hns : nsF 1000 = 1000 * 2048 := by decide
  simp only [execLevelMeasureDone, Grp.level_of_jobs _ m js hj, hs, hl, hns, ht, Bool.false_eq_true, if_false, true_and, and_true]
  exact if_pos hall

/-- A self-check ends after 40 or 120 µs; comparators are enabled again, and those that do not pass are reported (R223, R224). -/
theorem execCompCheckDone_ends (g : Fin 8) (errs : List (Int × Int)) (s : State) (m : CompChk) (js : List MeasJob)
    (hj : s.grps[g].jobs = .check m :: js) (hl : errs.length = (chansOfMask m.mask).length)
    (ht : m.startTick + 4000 * (if m.tie then 120 else 40) ≤ s.tick) :
    execCompCheckDone g errs s = .next ((((chansOfMask m.mask).zip errs).foldl (fun t x => t.checkReport g x.1 x.2)
      ((chansOfMask m.mask).foldl (fun t k => t.modChanPin g k (fun y => y.enableComps t.metro)) s)).endJob g
        (s.measReply m.hdr (((chansOfMask m.mask).zip errs).flatMap (fun x => checkEntry x.1 x.2)))) := by
  simp only [execCompCheckDone, hj, usT, hl, ht, and_self, if_true]

/-- Settles O25: the end of each measurement, and `State.endJob_jobs` for what it leaves. -/
theorem measurementsEndWithTheirResponse : Obligations.MeasurementsEndWithTheirResponse := by
  refine ⟨execPpmuSettled_settles, ?_, ?_, ?_, ?_⟩
  · intro g samples s m js t hj hst hl hn ht
    exact (execPpmuMeasureDone_ends g samples s m js t hj hst hl hn ht).trans
      (congrArg _ (State.endJob_jobs { s with free := s.free + 3 * (entriesOf m.mask).length } g _ _ js hj))
  · intro g ramps s m js hj hs hd
    obtain ⟨m1, h1, hh, hc⟩ := s.lastEdges_job m.pin g m js hj
    refine ⟨s.lastEdges m.pin, m1, rfl, h1, hh, hc, ?_⟩
    exact (execLevelMeasureDone_slope g ramps s m m1 js hj hs hd h1).trans
      (congrArg _ (State.endJob_jobs { s.lastEdges m.pin with free := s.free + 3 } g _ _ js h1))
  · intro g ramps s m js hj hs hl hr ht
    exact (execLevelMeasureDone_ramp g ramps s m js hj hs hl hr ht).trans (congrArg _ (State.endJob_jobs _ g _ _ js hj))
  · intro g errs s m js hj hl ht
    exact ⟨_, rfl, execCompCheckDone_ends g errs s m js hj hl ht⟩

end Sys2Proof.Machine
end

section
/-! O51: a command that only returns data changes nothing but the context in which its answer is queued (R54, R69). -/

namespace Sys2Proof.Machine

open Sys2Proof

/-- After its checks, the body answers with data, and may have drawn free values. -/
def OnlyAnswers (body : Hdr → Pkt → State → State) (q : Pkt) : Prop :=
  ∀ h a, ∃ f k n pay, body h q a = a.unlessFail h f k ∧ k a = ({ a with free := n } : State).reply h 0 0 0 pay

/-- A body that answers after a check, and draws nothing. -/
theorem onlyAnswers_of_eq {body : Hdr → Pkt → State → State} {q : Pkt} (f : Hdr → State → Option Fail) (pay : Hdr → State → List Byte)
    (hb : ∀ h a, body h q a = a.unlessFail h (f h a) (fun t => t.reply h 0 0 0 (pay h t))) : OnlyAnswers body q :=
  fun h a => ⟨f h a, _, a.free, pay h a, hb h a, rfl⟩

/-- A command that returns data has no N (R54), so its answer, or its refusal, is queued in its own context and nothing else changes. -/
theorem query_frame (i : Instr) (c : Fin 8) (op : Nat) (p : Pkt) (owns busy : Hdr → Pkt → State → Option Fail) (body : Hdr → Pkt → State → State)
    (hi : ∀ s, exec i s = hostCmd s c op p (fun q s => s.deliver c op q owns busy body)) (hd : opNoN op p = true)
    (hb : ∀ bs, OnlyAnswers body { p with payload := bs }) (s : State) (ha : s.Admits c op p) :
    ∃ k n, exec i s = .next ({ s with free := n }.modCtx c k) := by
  refine frame_of_body i c op p owns busy body hi ?_ s ha (s.noN_of_admits c op p ha hd)
  rintro h bs a rfl hn
  obtain ⟨f, k, n, pay, hbody, hk⟩ := hb bs h a
  obtain ⟨g, m, hg⟩ := State.unlessFail_ctx a h f k hn (by rw [hk]; exact State.reply_ctx a h 0 0 0 pay hn n)
  exact ⟨g, m, hbody.trans hg⟩

/-! ### The bodies of the queries -/

theorem echoBody_answers (q : Pkt) : OnlyAnswers echoBody q := onlyAnswers_of_eq (fun _ _ => none) (fun _ _ => echoBlock q) fun _ _ => rfl
theorem deviceInfoBody_answers (q : Pkt) : OnlyAnswers deviceInfoBody q :=
  onlyAnswers_of_eq (fun _ _ => lenFail q 0) (fun h a => a.infoBlock h.mb) fun _ _ => rfl
theorem ringStatusBody_answers (q : Pkt) : OnlyAnswers ringStatusBody q :=
  onlyAnswers_of_eq (fun _ _ => lenFail q 0) (fun _ a => a.ringBlock) fun _ _ => rfl
theorem seqStatusBody_answers (q : Pkt) : OnlyAnswers seqStatusBody q :=
  onlyAnswers_of_eq (fun _ _ => lenFail q 0) (fun _ a => a.seqBlock (pktSeq q)) fun _ _ => rfl
theorem tmuResultBody_answers (q : Pkt) : OnlyAnswers tmuResultBody q := onlyAnswers_of_eq _ _ fun _ _ => rfl
theorem tuneStatusBody_answers (q : Pkt) : OnlyAnswers tuneStatusBody q := onlyAnswers_of_eq _ _ fun _ _ => rfl
theorem gongReadBody_answers (q : Pkt) : OnlyAnswers gongReadBody q := onlyAnswers_of_eq _ _ fun _ _ => rfl
theorem failReadBody_answers (q : Pkt) : OnlyAnswers failReadBody q := onlyAnswers_of_eq _ _ fun _ _ => rfl
theorem healthBody_answers (q : Pkt) : OnlyAnswers healthBody q := fun _ a => ⟨_, _, a.free + 24, _, rfl, rfl⟩

/-- ALARM_SET with QUERY answers the status of the unit (R173, R175). -/
theorem alarmBody_query (q : Pkt) (hq : q.b0 15 = true) : OnlyAnswers alarmBody q :=
  onlyAnswers_of_eq (fun _ _ => firstFail [lenFail q 0, none]) (fun _ a => a.unitBytes q) fun _ _ => by
    simp only [alarmBody, hq, Bool.not_true, Bool.false_and, failIf, Bool.true_or, Bool.false_eq_true, if_true, if_false]

/-- REFLEX_SET with QUERY answers the entries of the group (R192). -/
theorem reflexBody_query (q : Pkt) (hq : q.b0 15 = true) : OnlyAnswers reflexBody q :=
  onlyAnswers_of_eq (fun _ _ => lenFail q 0) (fun _ a => (List.finRange 16).flatMap (fun e => a.reflexEntry (pinOf (pktGroup q) e)))
    fun _ _ => if_pos hq

/-- The status block of a group draws free values (R225). -/
theorem replyStatus_answers (a : State) (h : Hdr) (g : Fin 8) :
    a.replyStatus h g = ({ a with free := a.free + 51 } : State).reply h 0 0 0 (a.statusBlock g) := rfl

/-- GUARD_SET with QUERY answers the status block (R210). -/
theorem guardSetBody_query (q : Pkt) (hq : q.b0 15 = true) : OnlyAnswers guardSetBody q :=
  fun h a => ⟨_, _, a.free + 51, a.statusBlock (pktGroup q), rfl, (if_pos hq).trans (replyStatus_answers a h _)⟩

/-- COMP_CHECK with OP STATUS answers the status block (R223, R225). -/
theorem compCheckBody_status (q : Pkt) (hq : q.a0 17 16 = 0) : OnlyAnswers compCheckBody q :=
  fun h a => ⟨_, _, a.free + 51, a.statusBlock (pktGroup q), rfl, (if_pos hq).trans (replyStatus_answers a h _)⟩

/-- CAP_DISARM with QUERY answers the status of the engine (R275). -/
theorem capDisarmBody_query (q : Pkt) (hq : q.b0 10 = true) : OnlyAnswers capDisarmBody q := by
  intro h a
  unfold capDisarmBody
  refine ⟨_, _, a.free, a.capBlock (pktEng q), rfl, ?_⟩
  exact if_pos hq

/-- Both forms of ATTEST answer data (R434). -/
theorem attestBody_answers (q : Pkt) : OnlyAnswers attestBody q := by
  intro h a
  by_cases hb : q.b0 0 = true
  · exact ⟨_, _, a.free, Config.certChain, if_pos hb, rfl⟩
  · exact ⟨_, _, a.free, a.report256 h q.body ++ Config.sign (a.report256 h q.body) ++ zeros 4, if_neg hb, rfl⟩

/-- ECC_DIAG with OP READ_RAW answers the codewords (R343). -/
theorem diagBody_read (q : Pkt) (hq : q.a0 1 0 = 0) : OnlyAnswers diagBody q := by
  intro h a
  unfold diagBody
  refine ⟨_, _, a.free,
    (List.range (q.a2 8 0)).flatMap (fun i => le 2 ((a.cmem (diagMem q) (diagSeq q)).code (q.arg1.toNat + i)).toNat), rfl, ?_⟩
  exact if_pos hq

/-- Settles O51: each command is `query_frame` with the lemma about its body. -/
theorem queriesChangeNothingButTheirAnswer : Obligations.QueriesChangeNothingButTheirAnswer := by
  refine ⟨fun c p => ?_, fun c p => ?_, fun c p => ?_, fun c p => ?_, fun c p => ?_, fun c p => ?_, fun c p => ?_, fun c p => ?_, fun c p => ?_,
    fun c p => ?_, fun c p => ?_, fun c p => ?_, fun c p => ?_, fun c p => ?_, fun c p => ?_, fun c p => ?_, fun c p => ?_, fun c p => ?_⟩
  · exact query_frame _ c _ p noFail noFail echoBody (fun _ => rfl) (by simp [opNoN]) fun _ => echoBody_answers _
  · exact query_frame _ c _ p noFail noFail deviceInfoBody (fun _ => rfl) (by simp [opNoN]) fun _ => deviceInfoBody_answers _
  · exact query_frame _ c _ p noFail noFail ringStatusBody (fun _ => rfl) (by simp [opNoN]) fun _ => ringStatusBody_answers _
  · exact query_frame _ c _ p noFail noFail seqStatusBody (fun _ => rfl) (by simp [opNoN]) fun _ => seqStatusBody_answers _
  · exact query_frame _ c _ _ alarmOwns noFail alarmBody (fun _ => rfl) (by simp [opNoN, Pkt.b0_withA0_one])
      fun _ => alarmBody_query _ (Pkt.b0_of_row_one p _ 15 rfl (by decide))
  · exact query_frame _ c _ _ ownGrp noFail reflexBody (fun _ => rfl) (by simp [opNoN, Pkt.b0_withA0_one])
      fun _ => reflexBody_query _ (Pkt.b0_of_row_one p _ 15 rfl (by decide))
  · exact query_frame _ c _ _ ownGrp noFail guardSetBody (fun _ => rfl) (by simp [opNoN, Pkt.b0_withA0_one])
      fun _ => guardSetBody_query _ (Pkt.b0_of_row_one p _ 15 rfl (by decide))
  · exact query_frame _ c _ _ ownGrp checkBusy compCheckBody (fun _ => rfl) (by simp [opNoN])
      fun _ => compCheckBody_status _ (Pkt.a0_of_row p _ 17 16 0 rfl (by decide) (by decide) (by decide))
  · exact query_frame _ c _ _ engOwns noFail capDisarmBody (fun _ => rfl) (by simp [opNoN, Pkt.b0_withA0_one])
      fun _ => capDisarmBody_query _ (Pkt.b0_of_row_one p _ 10 rfl (by decide))
  · exact query_frame _ c _ p tmuArmOwns noFail tmuResultBody (fun _ => rfl) (by simp [opNoN]) fun _ => tmuResultBody_answers _
  · exact query_frame _ c _ p noFail noFail tuneStatusBody (fun _ => rfl) (by simp [opNoN]) fun _ => tuneStatusBody_answers _
  · exact query_frame _ c _ _ noFail noFail gongReadBody (fun _ => rfl) (by simp [opNoN]) fun _ => gongReadBody_answers _
  · exact query_frame _ c _ _ noFail noFail gongReadBody (fun _ => rfl) (by simp [opNoN]) fun _ => gongReadBody_answers _
  · exact query_frame _ c _ p noFail noFail healthBody (fun _ => rfl) (by simp [opNoN]) fun _ => healthBody_answers _
  · exact query_frame _ c _ _ noFail noFail attestBody (fun _ => rfl) (by simp [opNoN]) fun _ => attestBody_answers _
  · exact query_frame _ c _ _ noFail noFail attestBody (fun _ => rfl) (by simp [opNoN]) fun _ => attestBody_answers _
  · exact query_frame _ c _ p ownGrp noFail failReadBody (fun _ => rfl) (by simp [opNoN]) fun _ => failReadBody_answers _
  · exact query_frame _ c _ _ diagOwns diagBusy diagBody (fun _ => rfl)
      (by simp [opNoN, Pkt.a0_withA0]) fun _ => diagBody_read _ (Pkt.a0_of_row p _ 1 0 0 rfl (by decide) (by decide) (by decide))

end Sys2Proof.Machine
end

section
/-! O13: the Pattern Store commands start in their order and do what their rules say, and pages are demanded (R55, R73 to R93). -/

namespace Sys2Proof.Machine

open Sys2Proof

/-- A store command that starts at once completes where its own checks pass and its body gives what is asked (R55). -/
theorem store_completes (i : Instr) (c : Fin 8) (op : Nat) (p : Pkt) (pre : Hdr → Pkt → State → Prop) (post : Hdr → Pkt → State → State → Prop)
    (hi : ∀ s, exec i s = hostCmd s c op p (takeStore op c))
    (hp : ∀ h bs a, let q : Pkt := { p with payload := bs }
      pre h q a → storeStarts op h q a ∧ storeOwns op h q a = none ∧ storeBusy op h q a = none ∧ post h q a (storeBody op h q a).settleStore) :
    Completes i c op p pre post := by
  refine completes_of_body i c op p pre post (unlessHeld op (storeOwns op)) (unlessHeld op (storeBusy op)) (storeStart op) hi ?_
  intro h bs a q hpre
  obtain ⟨hs, ho, hb, hpost⟩ := hp h bs a hpre
  have hh : ∀ f, unlessHeld op f h q a = f h q a := fun f => if_neg (by rw [hs]; decide)
  exact ⟨(hh _).trans ho, (hh _).trans hb, by rw [storeStart_of_starts hs]; exact hpost⟩

/-- A store command that names what an earlier one has not done with waits in its turn (R55). -/
theorem store_waits (i : Instr) (c : Fin 8) (op : Nat) (p : Pkt) (hi : ∀ s, exec i s = hostCmd s c op p (takeStore op c)) :
    Answers i c op p (fun h q a => a.storeHeld { hdr := h, op := op, pkt := q } = true)
      (fun h q a => a.modStore (fun x => { x with waits := x.waits ++ [{ hdr := h, op := op, pkt := q }] })) := by
  refine completes_of_body i c op p _ _ (unlessHeld op (storeOwns op)) (unlessHeld op (storeBusy op)) (storeStart op) hi ?_
  intro h bs a q hheld
  exact ⟨if_pos hheld, if_pos hheld, if_pos hheld⟩

/-! ### STORE_PARTITION (R73, R74) -/

/-- Sizes in range empty the store and set the new sizes. -/
theorem partitionBody_sets (h : Hdr) (q : Pkt) (a : State) (hu : q.units = 0) (hc : 4 ≤ q.a0 15 8) (hf : 1 ≤ q.a0 7 0)
    (hsum : q.a0 15 8 + q.a0 7 0 + 16 ≤ 142) (he : q.isE = true → q.a1 7 0 ≤ 52 ∧ 100 ≤ q.a2 16 0 ∧ q.a2 16 0 ≤ 100000) :
    partitionBody h q a =
      (let b := a.modStore (fun t => { t with mem := [], written := [], pages := [], errs := [], brushBack := [], capUnits := q.a0 15 8, flogUnits := q.a0 7 0, streamBudget := if q.isE then q.a1 7 0 else 48, prefetchUs := if q.isE then q.a2 16 0 else 2000 })
       ({ b with caps := vmap b.caps (fun _ e => { e with segment := [] }), flogs := vmap b.flogs (fun _ f => { f with ring := [], held := 0, written := 0, drains := f.drains.map (fun d : DrainOp => { d with left := 0 }) }) } : State).ok h) := by
  have hin : (if q.isE then q.a1 7 0 else 48) ≤ 52 ∧ 100 ≤ (if q.isE then q.a2 16 0 else 2000) ∧ (if q.isE then q.a2 16 0 else 2000) ≤ 100000 := by
    split
    · exact he ‹_›
    · decide
  have hok : ¬ (q.a0 15 8 < 4 ∨ q.a0 7 0 < 1 ∨ 142 < q.a0 15 8 + q.a0 7 0 + 16 ∨ 52 < (if q.isE then q.a1 7 0 else 48) ∨
      (if q.isE then q.a2 16 0 else 2000) < 100 ∨ 100000 < (if q.isE then q.a2 16 0 else 2000)) := by omega
  unfold partitionBody
  dsimp only
  refine State.unlessFail_of_none _ _ _ ?_
  simp only [firstFail_cons, firstFail_nil, lenFail_none, failIf_none, and_true]
  exact ⟨hu, decide_eq_false hok⟩

/-- Two checks that pass. -/
theorem firstFail_pair {b d : Bool} (hb : b = false) (hd : d = false) (x y u v : Nat) : firstFail [failIf b x y, failIf d u v] = none := by
  rw [hb, hd]; rfl

/-! ### PAGE_FILL, STORE_WRITE (R85, R87) -/

/-- Queued data of a host write, or its end at once with none (R85, R87). -/
def State.hostWrite (e : State) (w : HostIn) : State :=
  if w.data = [] then e.hostInDone w else e.modStore (fun x => { x with hostin := x.hostin ++ [w] })

/-- What PAGE_FILL writes (R85). -/
def fillOf (h : Hdr) (q : Pkt) : HostIn :=
  { hdr := h, addr := q.a0 20 0 * 2 ^ 21 + q.a1 8 0 * 4096, data := q.payload, page := q.a0 20 0, final := bit q.arg1.toNat 31, fill := true, sealed := q.isS }

/-- What STORE_WRITE writes; a page that it brings into the store is then Resident (R87). -/
def writeOf (h : Hdr) (q : Pkt) (a : State) : HostIn :=
  { hdr := h, addr := storeAddr q, data := q.payload, page := pageOf (storeAddr q), final := (a.store.page (pageOf (storeAddr q))).isNone, sealed := q.isS }

/-- A PAGE_FILL in a right form gives the page a frame and queues its data (R85). -/
theorem pageFillBody_fills (h : Hdr) (q : Pkt) (a d : State) (hu : q.units % 512 = 0) (hm : q.units ≤ 32768)
    (hl : q.a1 8 0 * 4096 + q.payload.length ≤ 2 ^ 21)
    (hp : q.payload = [] ∨ (∀ g, a.store.page (q.a0 20 0) = some g → g.resident = false) ∨ a.pinned (q.a0 20 0) = false)
    (hd : a.assign h (q.a0 20 0) = some d) :
    pageFillBody h q a = (d.modStore (fun x => x.modPage (q.a0 20 0) (fun g => { g with sticky := bit q.arg1.toNat 30, sealed := g.sealed || q.isS }))).hostWrite
      (fillOf h q) := by
  have halign : ¬ (q.units % 512 ≠ 0 ∨ 32768 < q.units ∨ 2 ^ 21 < q.a1 8 0 * 4096 + q.payload.length) := by omega
  unfold pageFillBody
  dsimp only
  split
  · next f hf =>
    refine absurd (hf.symm.trans (firstFail_pair (decide_eq_false halign) ?_ _ _ _ _)) (Option.some_ne_none f)
    rcases hp with hp | hp | hp
    · simp only [hp, List.length_nil, ne_eq, not_true_eq_false, decide_false, Bool.and_false, Bool.false_and]
    · cases hg : a.store.page (q.a0 20 0) with
      | none => rfl
      | some g => simp only [hp g hg, Bool.false_and]
    · rw [hp, Bool.and_false]
  · simp only [hd, List.length_eq_zero_iff]
    rfl

/-- A STORE_WRITE in a right form gives the page a frame and queues its data (R87). -/
theorem storeWriteBody_writes (h : Hdr) (q : Pkt) (a d : State) (hc : q.a2 0 0 = 0) (h64 : storeAddr q % 64 = 0) (hlen : q.payload.length % 64 = 0)
    (hl : storeAddr q % 2 ^ 21 + q.payload.length ≤ 2 ^ 21)
    (hp : (∀ g, a.store.page (pageOf (storeAddr q)) = some g → g.resident = false) ∨ a.pinned (pageOf (storeAddr q)) = false)
    (hd : a.assign h (pageOf (storeAddr q)) = some d) :
    storeWriteBody h q a = (d.modStore (fun x => x.modPage (pageOf (storeAddr q)) (fun g => { g with sealed := g.sealed || q.isS }))).hostWrite (writeOf h q a) := by
  have hclr : ¬ (q.isE = true ∧ q.a2 0 0 = 1) := by omega
  have hbad : ¬ (storeAddr q % 64 ≠ 0 ∨ q.payload.length % 64 ≠ 0 ∨ 2 ^ 21 < storeAddr q % 2 ^ 21 + q.payload.length) := by omega
  unfold storeWriteBody
  dsimp only
  rw [if_neg hclr]
  split
  · next f hf =>
    refine absurd (hf.symm.trans (firstFail_pair (decide_eq_false hbad) ?_ _ _ _ _)) (Option.some_ne_none f)
    rcases hp with hp | hp
    · cases hg : a.store.page (pageOf (storeAddr q)) with
      | none => rfl
      | some g => simp only [hp g hg, Bool.false_and]
    · rw [hp, Bool.and_false]
  · simp only [hd, List.length_eq_zero_iff]
    rfl

/-- STORE_WRITE with CLEAR_WRITTEN clears the written bits of the blocks named (R87). -/
theorem storeWriteBody_clears (h : Hdr) (q : Pkt) (a : State) (hc : q.a2 0 0 = 1) (he : q.isE = true) (hu : q.units = 0)
    (h4k : storeAddr q % 4096 = 0) (hn : q.arg3.toNat ≠ 0) (hl : storeAddr q % 2 ^ 21 + 4096 * q.arg3.toNat ≤ 2 ^ 21)
    (hp : (∀ g, a.store.page (pageOf (storeAddr q)) = some g → g.resident = false) ∨ a.pinned (pageOf (storeAddr q)) = false) :
    storeWriteBody h q a = (if (a.store.page (pageOf (storeAddr q))).isSome then
      a.modStore (fun t => ({ t with written := t.written.filter (fun x => x < storeAddr q / 4096 || storeAddr q / 4096 + q.arg3.toNat ≤ x) }).touch (pageOf (storeAddr q))) else a).ok h := by
  have hbad : ¬ (q.units ≠ 0 ∨ storeAddr q % 4096 ≠ 0 ∨ q.arg3.toNat = 0 ∨ 2 ^ 21 < storeAddr q % 2 ^ 21 + 4096 * q.arg3.toNat) := by omega
  unfold storeWriteBody
  dsimp only
  rw [if_pos ⟨he, hc⟩]
  unfold State.clearWritten
  dsimp only
  refine State.unlessFail_of_none _ _ _ (firstFail_pair (decide_eq_false hbad) ?_ _ _ _ _)
  rcases hp with hp | hp
  · cases hg : a.store.page (pageOf (storeAddr q)) with
    | none => rfl
    | some g => simp only [hp g hg, Bool.false_and]
  · rw [hp, Bool.and_false]

/-! ### STORE_READ, PAGE_EVICT (R86, R87) -/

/-- A STORE_READ in a right form is queued (R87). -/
theorem storeReadBody_queues (h : Hdr) (q : Pkt) (a : State) (hu : q.units = 0) (h64 : storeAddr q % 64 = 0) (hn : q.arg3.toNat % 64 = 0)
    (h0 : q.arg3.toNat ≠ 0) (hl : storeAddr q % 2 ^ 21 + q.arg3.toNat ≤ 2 ^ 21)
    (hs : h.isS = true ∨ ∀ g, a.store.page (pageOf (storeAddr q)) = some g → g.sealed = false) :
    storeReadBody h q a = a.modStore (fun t => { t with reads := t.reads ++ [{ hdr := h, addr := storeAddr q, left := q.arg3.toNat, readyTick := a.tick }] }) := by
  have hbad : ¬ (q.units ≠ 0 ∨ storeAddr q % 64 ≠ 0 ∨ q.arg3.toNat % 64 ≠ 0 ∨ q.arg3.toNat = 0 ∨ 2 ^ 21 < storeAddr q % 2 ^ 21 + q.arg3.toNat) := by omega
  unfold storeReadBody
  dsimp only
  refine State.unlessFail_of_none _ _ _ (firstFail_pair (decide_eq_false hbad) ?_ _ _ _ _)
  rcases hs with hs | hs
  · rw [hs, Bool.not_true, Bool.and_false]
  · cases hg : a.store.page (pageOf (storeAddr q)) with
    | none => rfl
    | some g => simp only [hs g hg, Bool.false_and]

/-- PAGE_EVICT of one page asks for its owner, with ALL for nothing (R86). -/
theorem storeOwns_evict (h : Hdr) (q : Pkt) (a : State) : storeOwns 0x203 h q a = if q.a1 0 0 = 1 then none else pageTaken (q.a0 20 0) h a := rfl

/-- PAGE_EVICT drops a page that no burst pins (R86). -/
theorem pageEvictBody_one (h : Hdr) (q : Pkt) (a : State) (hc : q.a1 0 0 = 0) (hu : q.units = 0)
    (hp : a.store.page (q.a0 20 0) = none ∨ a.pinned (q.a0 20 0) = false) : pageEvictBody h q a = (a.evictPage (q.a0 20 0)).ok h := by
  have hn : ((a.store.page (q.a0 20 0)).isSome && a.pinned (q.a0 20 0)) = false := by
    rcases hp with hp | hp
    · rw [hp]; rfl
    · rw [hp, Bool.and_false]
  rw [pageEvictBody, State.unlessFail_of_none _ _ _ ((lenFail_none q 0).2 hu)]
  simp only [hc, hn, Nat.zero_ne_one, Bool.false_eq_true, if_false]

/-- The pages of an owner. -/
def State.pagesOf (a : State) (o : Owner) : List Nat := (a.store.pages.filter (fun x => x.owner == o)).map (fun x => x.num)

/-- PAGE_EVICT with ALL drops every page of the sender where no burst pins one (R86). -/
theorem pageEvictBody_all (h : Hdr) (q : Pkt) (a : State) (hc : q.a1 0 0 = 1) (hu : q.units = 0) (hp : ∀ n ∈ a.pagesOf h.who, a.pinned n = false) :
    pageEvictBody h q a = ((a.pagesOf h.who).foldl (fun t n => t.evictPage n) a).ok h := by
  have hkept : (a.pagesOf h.who).filter (fun n => a.pinned n) = [] := by
    rw [List.filter_eq_nil_iff]
    exact fun n hn => by rw [hp n hn]; decide
  have hfree : (a.pagesOf h.who).filter (fun n => !a.pinned n) = a.pagesOf h.who := by
    rw [List.filter_eq_self]
    exact fun n hn => by rw [hp n hn]; rfl
  rw [pageEvictBody, State.unlessFail_of_none _ _ _ ((lenFail_none q 0).2 hu)]
  dsimp only
  rw [if_pos hc]
  unfold State.pagesOf at hkept hfree ⊢
  rw [hkept, hfree]
  rfl

/-! ### PAGE_DEMAND (R92, R93) -/

/-- A planned demand notes the page as demanded and sends its notice (R92). -/
theorem State.demand_planned (t : State) (q : Fin 4) (n deadline : Nat) :
    t.demand q n false deadline = (t.modSeq q (fun y => { y with demanded := y.demanded ++ [n] })).notice t.seqs[q].hdr.mb t.seqs[q].hdr.ring 0x2F0
      t.seqs[q].hdr.context 0 0 (words [n, q.val] ++ le 8 deadline ++ le 8 t.seqs[q].vecs ++ zeros 8) t.nowGHz false := by
  have hw : b2n false * 256 + q.val = q.val := by simp [b2n]
  simp only [State.demand, hw, Bool.false_eq_true, if_false]

/-- PAGE_DEMAND of a live burst takes the plan entries whose moment has come (R92). -/
theorem execPageDemand_live (q : Fin 4) (s : State) (hl : s.seqs[q].live = true) : execPageDemand q s =
    .next ((s.seqs[q].plan.filter (fun e => s.planNow q e)).foldl (fun t e => if t.residentFor q e.page || t.seqs[q].demanded.contains e.page then t
        else t.demand q e.page false (t.useTime q e / 512))
      (s.modSeq q (fun y => { y with plan := y.plan.map (fun e => if s.planNow q e then { e with past := true } else e) }))) := if_pos hl

/-- Settles O13: `store_completes` with the lemma about each body, and `store_waits`. -/
theorem storeCommandsComplete : Obligations.StoreCommandsComplete := by
  refine ⟨fun c p => ?_, fun c p => ?_, fun c p => ?_, fun c p => ?_, fun c p => ?_, fun c p => ?_, fun c p => ?_, ?_, ?_⟩
  · refine store_completes _ c _ p _ _ (fun _ => rfl) ?_
    rintro h bs a q ⟨hs, hsole, hrun, hu, hc, hf, hsum, he⟩
    refine ⟨hs, (failIf_none _ _ _).2 (by rw [hsole]; rfl), (failIf_none _ _ _).2 hrun, ?_⟩
    exact congrArg State.settleStore (partitionBody_sets h q a hu hc hf hsum he)
  · refine store_completes _ c _ p _ _ (fun _ => rfl) ?_
    rintro h bs a q ⟨hs, hown, hu, hm, hl, hp, hsome⟩
    obtain ⟨d, hd⟩ := Option.isSome_iff_exists.1 hsome
    exact ⟨hs, hown, rfl, d, hd, congrArg State.settleStore (pageFillBody_fills h q a d hu hm hl hp hd)⟩
  · refine store_completes _ c _ _ _ _ (fun _ => rfl) ?_
    rintro h bs a q ⟨hs, hown, hu, hp⟩
    have hc : q.a1 0 0 = 0 := bits_clear_low p.arg1
    exact ⟨hs, (storeOwns_evict h q a).trans ((if_neg (by rw [hc]; decide)).trans hown), rfl, congrArg State.settleStore (pageEvictBody_one h q a hc hu hp)⟩
  · refine store_completes _ c _ _ _ _ (fun _ => rfl) ?_
    rintro h bs a q ⟨hs, hu, hp⟩
    have hc : q.a1 0 0 = 1 := bits_set_low p.arg1
    exact ⟨hs, (storeOwns_evict h q a).trans (if_pos hc), rfl, congrArg State.settleStore (pageEvictBody_all h q a hc hu hp)⟩
  · refine store_completes _ c _ _ _ _ (fun _ => rfl) ?_
    rintro h bs a q ⟨hs, hown, h64, hlen, hl, hp, hsome⟩
    obtain ⟨d, hd⟩ := Option.isSome_iff_exists.1 hsome
    exact ⟨hs, hown, rfl, d, hd, congrArg State.settleStore (storeWriteBody_writes h q a d (bits_clear_low p.arg2) h64 hlen hl hp hd)⟩
  · refine store_completes _ c _ _ _ _ (fun _ => rfl) ?_
    rintro h bs a q ⟨hs, hown, he, hu, h4k, hn, hl, hp⟩
    exact ⟨hs, hown, rfl, congrArg State.settleStore (storeWriteBody_clears h q a (bits_set_low p.arg2) he hu h4k hn hl hp)⟩
  · refine store_completes _ c _ p _ _ (fun _ => rfl) ?_
    rintro h bs a q ⟨hs, hown, hu, h64, hn, h0, hl, hseal⟩
    exact ⟨hs, hown, rfl, congrArg State.settleStore (storeReadBody_queues h q a hu h64 hn h0 hl hseal)⟩
  · intro c p i op r hmem
    simp only [List.mem_cons, Prod.mk.injEq, List.not_mem_nil, or_false] at hmem
    obtain ⟨rfl, rfl, rfl⟩ | ⟨rfl, rfl, rfl⟩ | ⟨rfl, rfl, rfl⟩ | ⟨rfl, rfl, rfl⟩ | ⟨rfl, rfl, rfl⟩ | ⟨rfl, rfl, rfl⟩ | ⟨rfl, rfl, rfl⟩ := hmem
    all_goals exact store_waits _ c _ _ fun _ => rfl
  · intro q s hl
    refine (execPageDemand_live q s ((Seq.live_iff _).2 hl)).trans ?_
    simp only [State.demand_planned, Bool.or_eq_true, List.contains_iff_mem]
    rfl

end Sys2Proof.Machine
end

section
/-! O53, O56: what a repartition of the Pattern Store leaves, and what a write to it leaves and changes (R74, R77, R78). -/

namespace Sys2Proof.Machine

open Sys2Proof

/-- The store that STORE_PARTITION sets is empty before its answer, and the answer keeps it so (R74). -/
theorem partitionBody_emptied (h : Hdr) (q : Pkt) (a : State) (hu : q.units = 0) (hc : 4 ≤ q.a0 15 8) (hf : 1 ≤ q.a0 7 0)
    (hsum : q.a0 15 8 + q.a0 7 0 + 16 ≤ 142) (he : q.isE = true → q.a1 7 0 ≤ 52 ∧ 100 ≤ q.a2 16 0 ∧ q.a2 16 0 ≤ 100000) :
    (partitionBody h q a).emptied := by
  rw [partitionBody_sets h q a hu hc hf hsum he]
  refine State.emptied_ok _ h ?_
  dsimp only [State.emptied, State.modStore]
  exact ⟨rfl, rfl, fun e => by rw [vmap_get], fun n => by rw [vmap_get]⟩

/-- Where no store command waits, none is started. -/
theorem State.settleStore_of_no_waits (u : State) (h : u.store.waits = []) : u.settleStore = u.modStore (fun x => { x with waits := [] }) := by
  rw [State.settleStore, h, List.foldl_nil]

/-- Settles O53: `store_completes` with what STORE_PARTITION leaves before the commands that waited for it start. -/
theorem partitionEmptiesTheStore : Obligations.PartitionEmptiesTheStore := by
  refine fun c p => store_completes _ c _ p _ _ (fun _ => rfl) ?_
  rintro h bs a q ⟨hs, hsole, hrun, hu, hc, hf, hsum, he⟩
  obtain ⟨hpages, hwritten, hcaps, hflogs⟩ := partitionBody_emptied h q a hu hc hf hsum he
  exact ⟨hs, (failIf_none _ _ _).2 (by rw [hsole]; rfl), (failIf_none _ _ _).2 hrun, partitionBody h q a, rfl, hpages, hwritten, hcaps, hflogs,
    State.settleStore_of_no_waits _⟩

/-- The memory that a write of one block starts from: a block written for the first time is zeroed (R77). -/
def Store.blockBase (t : Store) (a : Nat) : Mem := if t.isWritten a then t.mem else t.mem.clear (a / 4096 * 4096) 4096

/-- A block write puts its bytes over the block's base. -/
theorem Store.writeBlock_mem (t : Store) (a : Nat) (bs : List Byte) : (t.writeBlock a bs).mem = (t.blockBase a).write a bs := by
  unfold Store.writeBlock Store.blockBase
  cases t.isWritten a <;> rfl

/-- The base of a block write is canonical in a canonical store. -/
theorem Store.blockBase_wf (t : Store) (a : Nat) (h : t.mem.wf = true) : (t.blockBase a).wf = true := by
  unfold Store.blockBase
  split
  · exact h
  · exact Mem.clear_wf _ _ _ h

/-- A block write keeps the store canonical (log 9). -/
theorem Store.writeBlock_wf (t : Store) (a : Nat) (bs : List Byte) (h : t.mem.wf = true) : (t.writeBlock a bs).mem.wf = true := by
  rw [Store.writeBlock_mem]
  exact Mem.write_wf _ _ _ (t.blockBase_wf a h)

/-- Every byte of the base of a block write: zero in a block that was not written, else as before (R77, R78). -/
theorem Store.byte_blockBase (t : Store) (a x : Nat) :
    (t.blockBase a).byte x = if x / 4096 = a / 4096 ∧ t.isWritten a = false then 0 else t.mem.byte x := by
  unfold Store.blockBase
  cases t.isWritten a with
  | true => simp
  | false =>
    have hout : (x < a / 4096 * 4096 ∨ a / 4096 * 4096 + 4096 ≤ x) ↔ ¬ x / 4096 = a / 4096 := by omega
    simp only [Bool.false_eq_true, if_false, Mem.byte_clear, hout, and_true, ite_not]

/-- A block write sets the written bit of its block and of no other (R77). -/
theorem Store.isWritten_writeBlock (t : Store) (a : Nat) (bs : List Byte) (x : Nat) :
    (t.writeBlock a bs).isWritten x = (t.isWritten x || decide (x / 4096 = a / 4096)) := addBlock_contains _ _ _

/-- Settles O56: the bytes written lie over the base of the block, which is zero where nothing was written before. -/
theorem patternWritesReadBack : Obligations.PatternWritesReadBack := by
  intro t a bs hwf _
  refine ⟨t.writeBlock_wf a bs hwf, rfl, t.isWritten_writeBlock a bs, fun x => ?_⟩
  rw [Store.writeBlock_mem, Mem.byte_write _ _ _ _ (t.blockBase_wf a hwf), Store.byte_blockBase]

end Sys2Proof.Machine
end

section
/-! O22: the events of a burst: vector 0, the final entry and the answer of a stop (R142 to R147). -/

namespace Sys2Proof.Machine

open Sys2Proof

/-- Changes of pins change no sequencer. -/
theorem foldl_modPin_seqs (f : Pin → Pin) (ps : List (Fin 128)) (s : State) : (ps.foldl (fun t p => t.modPin p f) s).seqs = s.seqs :=
  foldl_keeps (fun t : State => t.seqs = s.seqs) (fun t p => t.modPin p f) (fun _ _ h => h) ps s rfl

/-- BURST_VECTOR0 of an admitted burst whose time has come runs it from empty stacks (R142). -/
theorem execBurstVector0_runs (q : Fin 4) (s : State) : s.seqs[q].st = .admitted → s.seqs[q].due ≤ s.metro →
    ∃ u : State, exec (.burstVector0 q) s = .next u ∧
      (let x := s.seqs[q]; let y := u.seqs[q]; y.st = .running ∧ y.loops = [] ∧ y.calls = [] ∧ y.base = 0 ∧ y.pf = 0 ∧ y.flag = false ∧
        y.firstFlag = 2 ^ 64 - 1 ∧ y.addr = x.addr ∧ y.nextStart = x.nextStart ∧ y.hdr = x.hdr ∧ y.owner = x.owner) := by
  intro ha hd
  refine ⟨_, if_neg ?_, ?_⟩
  · rw [ha, decide_eq_false (Nat.not_lt.2 hd)]; decide
  · dsimp only
    rw [foldl_modPin_seqs, State.modSeq, vmod_self]
    exact ⟨rfl, rfl, rfl, rfl, rfl, rfl, rfl, rfl, rfl, rfl, rfl⟩

/-- The BURST marks of vector 0 change no Fail Log. -/
theorem State.capBurstStart_flogs (s : State) (q : Fin 4) : (s.capBurstStart q).flogs = s.flogs := by
  unfold State.capBurstStart
  refine foldl_keeps (fun t : State => t.flogs = s.flogs) _ (fun t i h => ?_) _ _ rfl
  exact (State.putVecMark_flogs _ _ _ _ _ _ _ _).trans h

/-- A record is staged where there is room and none was dropped before it (R249). -/
theorem State.logRec_stages (s : State) (q : Fin 4) (r : FlogRec) (hl : s.flogs[q].lost = none) (hr : s.flogs[q].staging.length < 2048) :
    s.logRec q r = s.modFlog q (fun g => { g with staging := g.staging ++ [r] }) := by
  simp only [State.logRec, hl, Nat.not_le.2 hr, if_false]

/-- The START record of a burst (R248). -/
def State.startRec (s : State) (q : Fin 4) (sl : Bool) : FlogRec :=
  { ts := { fine := s.seqs[q].startFine, flags := s.tsFlags 1 false false false }, type := 2, sealed := s.seqs[q].sealedVec.isSome || sl, seq := q, addr := s.seqs[q].startVa, vec := 0, usable := s.seqs[q].startFine + 8 * 2048 }

/-- The START record of a burst whose sequencer keeps a log (R247). -/
theorem State.logStart_logs (s : State) (q : Fin 4) (sl : Bool) (hm : s.cfg.seqs[q].logMode ≠ 0) :
    s.logStart q sl = s.logRec q (s.startRec q sl) := if_neg hm

/-- Vector 0 stages the START record where a log is kept, with room and no record dropped before (R247, R249). -/
theorem State.vectorZero_stages (q : Fin 4) (s : State) (sl : Bool) (hm : s.cfg.seqs[q].logMode ≠ 0) (hl : s.flogs[q].lost = none)
    (hr : s.flogs[q].staging.length < 2048) :
    ((s.vectorZero q sl).flogs[q]).staging = s.flogs[q].staging ++ [s.startRec q sl] := by
  rw [State.vectorZero, State.capBurstStart_flogs, State.logStart_logs s q sl hm, State.logRec_stages s q _ hl hr]
  exact congrArg Flog.staging (vmod_self s.flogs q _)

/-- BURST_FINAL of a burst that has ended and is taken forms the final entry, or frees what a lost session left (R143). -/
theorem execBurstFinal_forms (q : Fin 4) (s : State) : s.seqs[q].st = .ending → issueAt s.seqs[q].endFine ≤ s.metro →
    s.resultsIn q = true → s.capTaken q = true → s.finalQueued q = false → exec (.burstFinal q) s =
      .next (let u := s.capBurstEnd q; let h := s.seqs[q].hdr
        if (u.ctxs[h.mb].rings[h.ring]).isOpen && !h.gone then
          u.pushEntry h.mb h.ring { hdr := h, status := s.seqs[q].finalStatus.1, sub := s.seqs[q].finalStatus.2, ts := u.nowSI, payload := u.endRecord q, finishes := true, ends := some q }
        else u.releaseGone q) := by
  intro he hd hr hc hf
  refine if_neg ?_
  rw [he, hr, hc, hf, decide_eq_false (Nat.not_lt.2 hd)]
  decide

/-- RUNNING is 0 for an idle sequencer and 1 else (R144). -/
theorem b2n_not_idle (x : Seq) : b2n (x.st != .idle) = if x.st = .idle then 0 else 1 := by
  cases x.st <;> rfl

/-- STOP_REQUEST_ARRIVE answers the requests that have reached the sequencer with RUNNING (R144, R147). -/
theorem execStopRequestArrive_answers (q : Fin 4) (s : State) : exec (.stopRequestArrive q) s =
    .next ((s.seqs[q].stops.filter (fun e => decide (e.2.1 ≤ s.metro))).foldl (fun t e => t.reply e.1 0 0 (if s.seqs[q].st = .idle then 0 else 1) [])
      (s.modSeq q (fun y => { y with stops := y.stops.filter (fun e => !decide (e.2.1 ≤ s.metro)) }))) := by
  rw [← b2n_not_idle]
  rfl

/-- Settles O22: one lemma for each event of the burst. -/
theorem burstEventsActAsTheirRulesSay : Obligations.BurstEventsActAsTheirRulesSay :=
  ⟨execBurstVector0_runs, State.vectorZero_stages, execBurstFinal_forms, execStopRequestArrive_answers⟩

end Sys2Proof.Machine
end

section
/-! O55: every memory stays canonical. The memories of a state are changed at few places, the writes and clears of the Pattern Store,
of the mailbox windows and of the SRAMs; every other meaning only passes them on. `hs.foo` says that `foo` keeps them canonical,
and the `id` that follows a change of a unit with a memory says that the change leaves that memory alone. -/

namespace Sys2Proof.Machine

open Sys2Proof

variable {s t a b : State}

/-! ### The shared forms of a meaning -/

/-- A choice between two states with canonical memories. -/
theorem State.memWf.ite {c : Prop} [Decidable c] (ha : a.memWf) (hb : b.memWf) : (if c then a else b).memWf := by
  split
  · exact ha
  · exact hb

/-- A choice between two answers that each carry a state. -/
theorem State.memWf.iteFst {α : Type} {c : Prop} [Decidable c] {x y : State × α} (hx : x.1.memWf) (hy : y.1.memWf) :
    (if c then x else y).1.memWf := by
  split
  · exact hx
  · exact hy

/-- A change made under a condition. -/
theorem State.memWf.ifThen {c : Prop} [Decidable c] (hs : s.memWf) (ha : s.memWf → a.memWf) : (if c then a else s).memWf := .ite (ha hs) hs

/-- A change made unless a condition holds. -/
theorem State.memWf.ifElse {c : Prop} [Decidable c] (hs : s.memWf) (ha : s.memWf → a.memWf) : (if c then s else a).memWf := .ite hs (ha hs)

/-- A fold of turns that each keep the memories canonical. -/
theorem State.memWf.foldl {α : Type} {f : State → α → State} {l : List α} (hf : ∀ t x, t.memWf → (f t x).memWf) (hs : s.memWf) :
    (l.foldl f s).memWf := foldl_keeps State.memWf f hf l s hs

/-- A fold over the indexes of a file. -/
theorem State.memWf.forFin {n : Nat} {f : Fin n → State → State} (hf : ∀ i t, t.memWf → (f i t).memWf) (hs : s.memWf) :
    (forFin n f s).memWf := forFin_inv State.memWf n f s hf hs

/-- The SRAMs but the Fail Maps are in canonical form. -/
def Sram.wf (m : Sram) : Prop := m.scratch.wf = true ∧ m.xb.wf = true ∧ (∀ q : Fin 4, (m.pdTab[q]).wf = true) ∧ m.ctl.wf = true

/-! ### One element changed -/

/-- A change of a context that leaves its window canonical. -/
theorem State.memWf.modCtx {c : Fin 8} {f : Ctx → Ctx} (hs : s.memWf)
    (hf : ∀ {x}, x.window.wf = true → (f x).window.wf = true) : (s.modCtx c f).memWf := by
  obtain ⟨hstore, hctx, hrest⟩ := hs
  exact ⟨hstore, vmod_all (fun x => x.window.wf = true) s.ctxs c f (fun _ => hf) hctx, hrest⟩

/-- A change of a Fail Map that leaves it canonical. -/
theorem State.memWf.modFmap {q : Fin 4} {f : Fmap → Fmap} (hs : s.memWf)
    (hf : ∀ {x}, x.mem.wf = true → (f x).mem.wf = true) : (s.modFmap q f).memWf := by
  obtain ⟨hstore, hctx, hmap, hrest⟩ := hs
  exact ⟨hstore, hctx, vmod_all (fun x => x.mem.wf = true) s.fmaps q f (fun _ => hf) hmap, hrest⟩

/-- A change of the Pattern Store that leaves it canonical. -/
theorem State.memWf.modStore {f : Store → Store} (hs : s.memWf)
    (hf : ∀ {x}, x.mem.wf = true → (f x).mem.wf = true) : (s.modStore f).memWf := by
  obtain ⟨hstore, hrest⟩ := hs
  exact ⟨hf hstore, hrest⟩

/-- A change of the SRAMs that leaves them canonical. -/
theorem State.memWf.modSram {f : Sram → Sram} (hs : s.memWf) (hf : ∀ {x : Sram}, x.wf → (f x).wf) :
    (s.modSram f).memWf := by
  obtain ⟨hstore, hctx, hmap, hsram⟩ := hs
  exact ⟨hstore, hctx, hmap, hf hsram⟩

theorem State.memWf.modRing {c k f} (hs : s.memWf) : (s.modRing c k f).memWf := hs.modCtx id
theorem State.memWf.modSeq {q f} (hs : s.memWf) : (s.modSeq q f).memWf := hs
theorem State.memWf.modPin {p f} (hs : s.memWf) : (s.modPin p f).memWf := hs
theorem State.memWf.modGrp {g f} (hs : s.memWf) : (s.modGrp g f).memWf := hs
theorem State.memWf.modCap {e f} (hs : s.memWf) : (s.modCap e f).memWf := hs
theorem State.memWf.modTmu {u f} (hs : s.memWf) : (s.modTmu u f).memWf := hs
theorem State.memWf.modFlog {q f} (hs : s.memWf) : (s.modFlog q f).memWf := hs
theorem State.memWf.modAlarm {n f} (hs : s.memWf) : (s.modAlarm n f).memWf := hs
theorem State.memWf.modMc {n f} (hs : s.memWf) : (s.modMc n f).memWf := hs
theorem State.memWf.modChan {n f} (hs : s.memWf) : (s.modChan n f).memWf := hs
theorem State.memWf.modIn {i f} (hs : s.memWf) : (s.modIn i f).memWf := hs
theorem State.memWf.modIo {n f} (hs : s.memWf) : (s.modIo n f).memWf := hs
theorem State.memWf.modBrush {m f} (hs : s.memWf) : (s.modBrush m f).memWf := hs
theorem State.memWf.modGong {f} (hs : s.memWf) : (s.modGong f).memWf := hs
theorem State.memWf.modTaps {f} (hs : s.memWf) : (s.modTaps f).memWf := hs
theorem State.memWf.modBeat {f} (hs : s.memWf) : (s.modBeat f).memWf := hs
theorem State.memWf.modTune {f} (hs : s.memWf) : (s.modTune f).memWf := hs
theorem State.memWf.modSec {f} (hs : s.memWf) : (s.modSec f).memWf := hs
theorem State.memWf.modPower {f} (hs : s.memWf) : (s.modPower f).memWf := hs
theorem State.memWf.modLink {f} (hs : s.memWf) : (s.modLink f).memWf := hs

/-! ### One file changed that holds no memory -/

theorem State.memWf.setMetro {x} (hs : s.memWf) : ({ s with metro := x }).memWf := hs
theorem State.memWf.setFree {x} (hs : s.memWf) : ({ s with free := x }).memWf := hs
theorem State.memWf.setLink {x} (hs : s.memWf) : ({ s with link := x }).memWf := hs
theorem State.memWf.setCfg {x} (hs : s.memWf) : ({ s with cfg := x }).memWf := hs
theorem State.memWf.setCommits {x} (hs : s.memWf) : ({ s with commits := x }).memWf := hs
theorem State.memWf.setSeqs {x} (hs : s.memWf) : ({ s with seqs := x }).memWf := hs
theorem State.memWf.setPins {x} (hs : s.memWf) : ({ s with pins := x }).memWf := hs
theorem State.memWf.setFlogs {x} (hs : s.memWf) : ({ s with flogs := x }).memWf := hs
theorem State.memWf.setFlogNext {x} (hs : s.memWf) : ({ s with flogNext := x }).memWf := hs
theorem State.memWf.setCaps {x} (hs : s.memWf) : ({ s with caps := x }).memWf := hs
theorem State.memWf.setCapNext {x} (hs : s.memWf) : ({ s with capNext := x }).memWf := hs
theorem State.memWf.setOutFlog {x} (hs : s.memWf) : ({ s with outFlog := x }).memWf := hs
theorem State.memWf.setTmus {x} (hs : s.memWf) : ({ s with tmus := x }).memWf := hs
theorem State.memWf.setBrush {x} (hs : s.memWf) : ({ s with brush := x }).memWf := hs
theorem State.memWf.setFlash {x} (hs : s.memWf) : ({ s with flash := x }).memWf := hs

/-! ### The answer of a command -/

/-- The state that a command answers with, if any, has canonical memories. -/
def NextWf (o : Out) : Prop := ∀ t, o = .next t → t.memWf

/-- A next state with canonical memories. -/
theorem NextWf.next (hs : s.memWf) : NextWf (.next s) := by
  rintro t ⟨⟩
  exact hs

/-- A choice between two answers. -/
theorem NextWf.ite {c : Prop} [Decidable c] {x y : Out} (hx : NextWf x) (hy : NextWf y) : NextWf (if c then x else y) := by
  split
  · exact hx
  · exact hy

end Sys2Proof.Machine
end

section
/-! O55 continued: what every meaning shares: releases, responses, intake and the Gong. -/

namespace Sys2Proof.Machine

open Sys2Proof

variable {s : State}

/-! ### Changes of a state that every meaning shares -/

theorem State.memWf.drawn (hs : s.memWf) : s.drawn.memWf := .setFree hs

theorem State.memWf.tmuFeed {sel i} (hs : s.memWf) : (s.tmuFeed sel i).memWf := .setTmus hs

theorem State.memWf.feedCross {p voh rising t} (hs : s.memWf) : (s.feedCross p voh rising t).memWf := .tmuFeed hs
theorem State.memWf.feedDrive {p new t clash} (hs : s.memWf) : (s.feedDrive p new t clash).memWf := .tmuFeed hs
theorem State.memWf.reportC {src inst dflt cleared ts d0 d1 hop} (hs : s.memWf) : (s.reportC src inst dflt cleared ts d0 d1 hop).memWf := .modGong hs
theorem State.memWf.report {src inst cleared ts d0 d1} (hs : s.memWf) : (s.report src inst cleared ts d0 d1).memWf := .reportC hs
theorem State.memWf.raiseAt {fine prod ts hop only edge} (hs : s.memWf) : (s.raiseAt fine prod ts hop only edge).memWf := .modTaps hs
theorem State.memWf.raise {prod ts hop only edge} (hs : s.memWf) : (s.raise prod ts hop only edge).memWf := .raiseAt hs
theorem State.memWf.msix {v} (hs : s.memWf) : (s.msix v).memWf := .ite (.ite (.modLink hs) (.modLink hs)) hs
theorem State.memWf.devEvents {s0 : State} (hs : s.memWf) : (State.devEvents s0 s).memWf := .ite (.msix hs) hs

/-! ### Giving up resources -/

theorem State.memWf.resetPins {g} (hs : s.memWf) : (s.resetPins g).memWf := .forFin (fun _ _ h => h.modPin) hs
theorem State.memWf.forgetGong {f} (hs : s.memWf) : (s.forgetGong f).memWf := .modGong hs
theorem State.memWf.forgetGroup {g} (hs : s.memWf) : (s.forgetGroup g).memWf := .forgetGong hs
theorem State.memWf.forgetSeq {q} (hs : s.memWf) : (s.forgetSeq q).memWf := .forgetGong hs
theorem State.memWf.clearMap {q} (hs : s.memWf) : (s.clearMap q).memWf := .modFmap hs fun _ => rfl
theorem State.memWf.emptyLog {q} (hs : s.memWf) : (s.emptyLog q).memWf := .modFlog hs

theorem State.memWf.setSeqOwner {q o} (hs : s.memWf) : (s.setSeqOwner q o).memWf :=
  .ite hs (.forgetSeq (.emptyLog (.clearMap (.modSeq hs))))

theorem State.memWf.dropIdleSeqs (hs : s.memWf) : s.dropIdleSeqs.memWf := .forFin (fun _ _ h => .ite h.setSeqOwner h) hs
theorem State.memWf.releaseGrp {g} (hs : s.memWf) : (s.releaseGrp g).memWf := .dropIdleSeqs (.forgetGroup (.resetPins (.modGrp hs)))
theorem State.memWf.dropClaims (hs : s.memWf) : s.dropClaims.memWf := .modTaps (.modTaps hs)
theorem State.memWf.releaseChan {n} (hs : s.memWf) : (s.releaseChan n).memWf := .dropClaims (.forgetGong (.modChan hs))
theorem State.memWf.forgetDemand {n} (hs : s.memWf) : (s.forgetDemand n).memWf := .setSeqs hs

theorem State.memWf.evictPage {n} (hs : s.memWf) : (s.evictPage n).memWf :=
  have h1 : (s.modStore (fun t => { t.evict n with hostin := t.hostin.filter (fun w => w.page != n) })).memWf :=
    .modStore hs fun h => Mem.clear_wf _ _ _ h
  .ite h1.forgetDemand h1

/-- One turn over a file that acts on the elements that meet a condition. -/
theorem State.memWf.turns {n : Nat} {c : Fin n → State → Bool} {f : Fin n → State → State} (hs : s.memWf)
    (hf : ∀ i t, t.memWf → (f i t).memWf) : (Sys2Proof.Machine.forFin n (fun i t => if c i t then f i t else t) s).memWf :=
  .forFin (fun i _ h => .ifThen h (hf i _)) hs

theorem State.memWf.releaseOwned {o} (hs : s.memWf) : (s.releaseOwned o).memWf := by
  refine .foldl (fun _ _ h => h.evictPage) (.turns (.turns (.turns (.turns (.turns (.turns hs ?_) ?_) ?_) ?_) ?_) ?_)
  · exact fun _ _ h => h.releaseGrp
  · exact fun _ _ h => h.releaseChan
  · exact fun _ _ h => h.modCap
  · exact fun _ _ h => .forgetGong h.modTmu
  · exact fun _ _ h => h.modAlarm
  · exact fun _ _ h => h.modMc

theorem State.memWf.clearWindow {c} (hs : s.memWf) : (s.clearWindow c).memWf :=
  .modSram hs fun ⟨hscratch, hrest⟩ => ⟨cellWf_filter 0 _ _ hscratch, hrest⟩

theorem State.memWf.releaseCtx {c} (hs : s.memWf) : (s.releaseCtx c).memWf := .modCtx (.clearWindow (.releaseOwned hs)) id

/-! ### Responses -/

theorem State.memWf.pushEntry {c k e} (hs : s.memWf) : (s.pushEntry c k e).memWf := .modRing hs
theorem State.memWf.leave {c tag} (hs : s.memWf) : (s.leave c tag).memWf := .modCtx hs id

theorem State.memWf.settleFences {c} : ∀ {n} {s : State}, s.memWf → (s.settleFences c n).memWf
  | 0, _, hs => hs
  | n + 1, s, hs => by
    unfold State.settleFences
    split
    · exact hs
    · exact .ite (settleFences (.ite (.leave (.modCtx hs id)) (.pushEntry (.modCtx hs id)))) hs

theorem State.memWf.settleClose {c} (hs : s.memWf) : (s.settleClose c).memWf := by
  unfold State.settleClose
  split
  · exact hs
  · exact .ite (.pushEntry (.modCtx (.releaseCtx hs) id)) hs

theorem State.memWf.settleSeal {c} (hs : s.memWf) : (s.settleSeal c).memWf := by
  unfold State.settleSeal
  split
  · exact hs
  · exact .ite (.ite (.leave (.modCtx hs id)) (.pushEntry (.modCtx hs id))) hs

theorem State.memWf.settle {c} (hs : s.memWf) : (s.settle c).memWf := .settleClose (.settleFences (.settleSeal hs))
theorem State.memWf.finish {h} (hs : s.memWf) : (s.finish h).memWf := .ite hs (.settle (.leave hs))

theorem State.memWf.replyAt {h st sub d pay ts} (hs : s.memWf) : (s.replyAt h st sub d pay ts).memWf :=
  .ite (.finish hs) (.foldl (fun _ _ h => h.pushEntry) hs)

theorem State.memWf.reply {h st sub d pay} (hs : s.memWf) : (s.reply h st sub d pay).memWf := .replyAt hs
theorem State.memWf.ok {h} (hs : s.memWf) : (s.ok h).memWf := .reply hs
theorem State.memWf.refuse {h f} (hs : s.memWf) : (s.refuse h f).memWf := .reply hs
theorem State.memWf.notice {c k op ctx st d pay ts wrap} (hs : s.memWf) : (s.notice c k op ctx st d pay ts wrap).memWf := .ite (.pushEntry hs) hs

/-! ### Intake and delivery of a packet -/

theorem State.memWf.rejectIntake {c op p f d} (hs : s.memWf) : (s.rejectIntake c op p f d).memWf := .pushEntry (.modCtx hs id)
theorem State.memWf.dropClosed {c} (hs : s.memWf) : (s.dropClosed c).memWf := .modCtx hs id

theorem State.memWf.openSeal {c op p} (hs : s.memWf) : (s.openSeal c op p).1.memWf := by
  unfold State.openSeal
  dsimp only
  split
  · exact hs
  · split
    · exact .modCtx hs id
    · exact .report (.ite (.modCtx hs id) hs)

theorem State.memWf.enter {c op p} (hs : s.memWf) : (s.enter c op p).memWf := .ite hs (.modCtx hs id)

/-- A command after its checks is refused or runs its body. -/
theorem State.memWf.runChecked {h op p owns busy body} (hs : s.memWf) (hb : (body h p s).memWf) :
    (s.runChecked h op p owns busy body).memWf := by
  unfold State.runChecked
  split
  · exact .refuse hs
  · split
    · exact .refuse hs
    · split
      · exact .refuse hs
      · exact hb

theorem State.memWf.refusePlain {hd f} (hs : s.memWf) : (s.refusePlain hd f).memWf := .pushEntry hs

/-- A packet delivered keeps the memories canonical where its body does. -/
theorem State.memWf.deliver {c op p owns busy body} (hs : s.memWf) (hb : ∀ h q t, t.memWf → (body h q t).memWf) :
    (s.deliver c op p owns busy body).memWf := by
  unfold State.deliver
  dsimp only
  refine .ite (.dropClosed hs) ?_
  split
  · exact .rejectIntake hs
  · have h1 : (s.enter c op p).memWf := .enter hs
    split
    · exact .refusePlain h1
    · have h2 : ((s.enter c op p).openSeal c op p).1.memWf := .openSeal h1
      split
      next heq => exact .refusePlain (by rw [heq] at h2; exact h2)
      next heq =>
        rw [heq] at h2
        exact .ite (.refuse h2) (.runChecked h2 (hb _ _ _ h2))

theorem Ctx.window_writeWindow_wf (x : Ctx) (off : Nat) (bs : List Byte) (h : x.window.wf = true) : (x.writeWindow off bs).window.wf = true :=
  Mem.write_wf _ _ _ (Mem.write_wf _ _ _ h)

theorem State.memWf.place {c op p} (hs : s.memWf) : (s.place c op p).memWf := by
  refine .modCtx hs fun {x} h => ?_
  split
  · exact x.window_writeWindow_wf _ _ h
  · exact x.window_writeWindow_wf _ _ h

/-- A packet sent is lost, placed, or taken. -/
theorem State.memWf.send {c op p take} (hs : s.memWf) (ht : ∀ t, t.memWf → (take t).memWf) : (s.send c op p take).memWf :=
  .ite hs (.ite (ht _ (.modCtx (.place hs) id)) (.place hs))

theorem hostCmd_nextWf {c op p take} (hs : s.memWf) (ht : ∀ t, t.memWf → (take p t).memWf) : NextWf (hostCmd s c op p take) := .next (.send hs ht)

/-- A body behind its checks. -/
theorem State.memWf.unlessFail {h f k} (hs : s.memWf) (hk : (k s).memWf) : (s.unlessFail h f k).memWf := by
  unfold State.unlessFail
  split
  · exact .refuse hs
  · exact hk

/-! ### The Gong -/

theorem State.memWf.gongNotices {r} (hs : s.memWf) : (s.gongNotices r).memWf :=
  .forFin (fun _ _ h => .ite (.ite (.modCtx h id) (.modCtx (.notice h) id)) h) hs

theorem State.memWf.safePins {gs} (hs : s.memWf) : (s.safePins gs).memWf := .foldl (fun _ _ h => .modGrp (.forFin (fun _ _ h1 => .modPin h1) h)) hs
theorem State.memWf.sendSafe {gs} (hs : s.memWf) : (s.sendSafe gs).memWf := .modGong hs
theorem State.memWf.safeArrive (hs : s.memWf) : s.safeArrive.memWf := .foldl (fun _ _ h => .safePins h) (.modGong hs)
theorem State.memWf.abortSeqs {qs} (hs : s.memWf) : (s.abortSeqs qs).memWf := .foldl (fun _ _ h => .ite h (.modSeq h)) hs

theorem State.memWf.reRaiseAt {fine prod ts hop} (hs : s.memWf) : (s.reRaiseAt fine prod ts hop).memWf :=
  .ite (.raiseAt hs) (.foldl (fun _ _ h => .report (.modChan h)) hs)

theorem State.memWf.reRaise {prod ts hop} (hs : s.memWf) : (s.reRaise prod ts hop).memWf := .reRaiseAt hs
theorem State.memWf.ringDrop (hs : s.memWf) : s.ringDrop.memWf := .ite (.modBeat hs) hs
theorem State.memWf.syncBypass (hs : s.memWf) : s.syncBypass.memWf := .ite hs (.modBeat (.ringDrop hs))

theorem State.memWf.react {r x recorded} (hs : s.memWf) : (s.react r x recorded).memWf :=
  .ifThen (.ifThen (.ifThen (.ite (.abortSeqs hs) hs) fun h => .sendSafe h) fun h => .modGong (.ite (.abortSeqs h) h)) fun h => .reRaiseAt h

theorem State.memWf.gongTake {r} (hs : s.memWf) : (s.gongTake r).memWf :=
  .devEvents (.ifThen (.ifElse (.ifThen (.modGong hs) fun h => .syncBypass (.modPower h)) fun h => .gongNotices h) fun h => .react h)

theorem execGongReport_nextWf {ext} (hs : s.memWf) : NextWf (execGongReport ext s) := by
  unfold execGongReport
  split
  · exact .next (.ite (.gongTake hs) hs)
  · split
    · exact .next hs
    · exact .next (.gongTake (.modGong hs))

theorem State.memWf.freeSafe (hs : s.memWf) : s.freeSafe.memWf := .forFin (fun _ _ h => .ite (.modPin h) h) hs
theorem State.memWf.tickAgain {s0 : State} (hs : s.memWf) : (State.tickAgain s0 s).memWf := .ite (.modGong hs) hs
theorem State.memWf.quietExpire (hs : s.memWf) : s.quietExpire.memWf := .ite (.devEvents (.tickAgain (.freeSafe (.modGong hs)))) hs
theorem execQuietExpire_nextWf (hs : s.memWf) : NextWf (execQuietExpire s) := .next (.quietExpire hs)

theorem execHoldExpire_nextWf {src inst} (hs : s.memWf) : NextWf (execHoldExpire src inst s) :=
  .ite (.next (.tickAgain (.freeSafe (.modGong hs)))) (.next hs)

theorem execTickToggle_nextWf (hs : s.memWf) : NextWf (execTickToggle s) := .ite (.next (.modGong hs)) (.next hs)
theorem execHeartbeat_nextWf {core} (hs : s.memWf) : NextWf (execHeartbeat core s) := .next (.modGong hs)
theorem execSupHang_nextWf {core} (hs : s.memWf) : NextWf (execSupHang core s) := .ite (.next (.modGong (.report hs))) (.next hs)
theorem State.memWf.gongSource {hd p} (hs : s.memWf) : (s.gongSource hd p).memWf := .modGong hs

theorem State.memWf.gongConfigBody {hd p} (hs : s.memWf) : (gongConfigBody hd p s).memWf :=
  .unlessFail hs (.ok (.ite (.gongSource hs) (.ite (.modGong hs) (.modCtx hs id))))

theorem State.memWf.gongReadBody {hd p} (hs : s.memWf) : (gongReadBody hd p s).memWf := .unlessFail hs (.reply hs)

end Sys2Proof.Machine
end

section
/-! O55 continued: the memories themselves: SRAMs and Pattern Store. -/

namespace Sys2Proof.Machine

open Sys2Proof

variable {s : State}

/-! ### Accesses to the on-die SRAMs -/

/-- An SRAM replaced by a canonical one. -/
theorem State.memWf.putCmem {mem q m} (hs : s.memWf) (hm : m.wf = true) : (s.putCmem mem q m).memWf := by
  refine .ite (.modSram hs ?_) (.ite (.modSram hs ?_) (.ite (.modFmap hs fun _ => hm) (.ite (.modSram hs ?_) (.modSram hs ?_))))
  · exact fun ⟨_, hrest⟩ => ⟨hm, hrest⟩
  · exact fun ⟨hscratch, _, hrest⟩ => ⟨hscratch, hm, hrest⟩
  · exact fun ⟨hscratch, hxb, hpd, _⟩ => ⟨hscratch, hxb, hpd, hm⟩
  · exact fun {x} ⟨hscratch, hxb, hpd, hctl⟩ => ⟨hscratch, hxb, vmod_all (fun y : CMem => y.wf = true) x.pdTab _ _ (fun _ _ => hm) hpd, hctl⟩

theorem State.memWf.countCe {mem addr} (hs : s.memWf) : (s.countCe mem addr).memWf := .modBrush hs
theorem State.memWf.countUe {mem addr} (hs : s.memWf) : (s.countUe mem addr).memWf := .report (.modBrush hs)

theorem State.memWf.meet {mem q a0} (hs : s.memWf) : (s.meet mem q a0).memWf := by
  unfold State.meet
  split
  · exact hs
  · exact .countCe hs
  · exact .countUe hs

theorem State.memWf.meetRange {mem q a0 n} (hs : s.memWf) : (s.meetRange mem q a0 n).memWf := .foldl (fun _ _ h => .meet h) hs
theorem State.memWf.plainByte {mem q x y} (hs : s.memWf) : (s.plainByte mem q x y).memWf := .putCmem hs (CMem.setCode_wf _ _ _ (s.cmem_wf _ _ hs))

theorem CMem.foldl_setCode_wf {α : Type} (at_ : α → Nat) (code : CMem → α → Codeword) (l : List α) (m : CMem) (h : m.wf = true) :
    (l.foldl (fun k x => k.setCode (at_ x) (code k x)) m).wf = true :=
  foldl_keeps (fun k : CMem => k.wf = true) _ (fun k _ hk => CMem.setCode_wf k _ _ hk) l m h

theorem State.memWf.plainBytes {mem q x bs} (hs : s.memWf) : (s.plainBytes mem q x bs).memWf :=
  .putCmem hs (CMem.foldl_setCode_wf (fun e : Byte × Nat => x + e.2) (fun _ e => eccEnc e.1) _ _ (s.cmem_wf _ _ hs))

theorem State.memWf.aliasByte {mem q a0 f} (hs : s.memWf) : (s.aliasByte mem q a0 f).memWf := by
  unfold State.aliasByte
  dsimp only
  split
  · exact .plainByte hs
  · exact .plainByte (.countCe hs)
  · exact .countUe hs

/-! ### The Pattern Store -/

theorem State.memWf.useSlot (hs : s.memWf) : s.useSlot.memWf := .modStore hs id

theorem execMaintSlot_nextWf (hs : s.memWf) : NextWf (execMaintSlot s) := by
  refine .ite ?_ (.next hs)
  split
  · exact .next (.drawn hs)
  · exact .next (.modStore (.useSlot (.drawn hs)) id)

theorem State.memWf.storeErr {part e} (hs : s.memWf) : (s.storeErr part e).memWf := .ifThen (.modBrush hs) fun h => .report h
theorem State.memWf.storeErrs {part errs} (hs : s.memWf) : (s.storeErrs part errs).memWf := .foldl (fun _ _ h => .storeErr h) hs
theorem State.memWf.upset {a0 n errs} (hs : s.memWf) : (s.upset a0 n errs).memWf := .modStore hs id
theorem State.memWf.meetErrs {a0 n} (hs : s.memWf) : (s.meetErrs a0 n).memWf := .storeErrs hs
theorem State.memWf.answerPage {n} (hs : s.memWf) : (s.answerPage n).memWf := .foldl (fun _ _ h => .ok h) (.modStore hs id)

/-- A frame is free, or its page leaves. -/
theorem State.memWf.frameFor {d} (hs : s.memWf) (hd : s.frameFor = some d) : d.memWf := by
  unfold State.frameFor at hd
  split at hd
  · cases hd
    exact hs
  · dsimp only at hd
    split at hd
    · cases hd
    · cases hd
      exact .evictPage (.answerPage hs)

theorem State.memWf.hostInDone {w} (hs : s.memWf) : (s.hostInDone w).memWf := .ok (.ite (.modStore hs id) hs)

/-- A page that gets a frame. -/
theorem State.memWf.assign {h n d} (hs : s.memWf) (hd : s.assign h n = some d) : d.memWf := by
  unfold State.assign at hd
  split at hd
  · cases hd
    exact hs
  · obtain ⟨u, hu, rfl⟩ := Option.map_eq_some_iff.1 hd
    exact .modStore (hs.frameFor hu) id

theorem State.memWf.pageFillBody {h p} (hs : s.memWf) : (pageFillBody h p s).memWf := by
  unfold Sys2Proof.Machine.pageFillBody
  dsimp only
  split
  · exact .refuse hs
  · split
    · exact .refuse hs
    next hd => exact .ite (.hostInDone (.modStore (hs.assign hd) id)) (.modStore (.modStore (hs.assign hd) id) id)

theorem State.memWf.pageEvictBody {hd p} (hs : s.memWf) : (pageEvictBody hd p s).memWf :=
  .unlessFail hs (.ite (.ite (.ok (.foldl (fun _ _ h => .evictPage h) hs)) (.reply (.foldl (fun _ _ h => .evictPage h) hs)))
    (.ite (.refuse hs) (.ok (.evictPage hs))))

theorem State.memWf.clearWritten {hd p} (hs : s.memWf) : (s.clearWritten hd p).memWf := .unlessFail hs (.ok (.ite (.modStore hs id) hs))

theorem State.memWf.storeWriteBody {h p} (hs : s.memWf) : (storeWriteBody h p s).memWf := by
  unfold Sys2Proof.Machine.storeWriteBody
  dsimp only
  refine .ite (.clearWritten hs) ?_
  split
  · exact .refuse hs
  · split
    · exact .refuse hs
    next hd => exact .ite (.hostInDone (.modStore (hs.assign hd) id)) (.modStore (.modStore (hs.assign hd) id) id)

theorem State.memWf.storeReadBody {hd p} (hs : s.memWf) : (storeReadBody hd p s).memWf := .unlessFail hs (.modStore hs id)
theorem State.memWf.readEntry {r} (hs : s.memWf) : (s.readEntry r).memWf := .pushEntry hs

theorem State.memWf.readAccess {r errs} (hs : s.memWf) : (s.readAccess r errs).memWf := by
  unfold State.readAccess
  extract_lets k s1 as idx unw bad s2 s3
  have h2 : s2.memWf := .meetErrs (.upset hs)
  have h3 : s3.memWf := by
    dsimp only [s3]
    clear_value unw
    split
    · exact h2
    · exact .ifElse h2 fun h => .report h
  exact .ite (.readEntry (.modStore h3 id)) (.ite (.readEntry (.modStore h3 id)) (.modStore h3 id))

theorem State.memWf.partitionBody {h p} (hs : s.memWf) : (partitionBody h p s).memWf := by
  refine .unlessFail hs ?_
  refine State.memWf.ok ?_
  exact ⟨rfl, hs.2⟩

theorem State.memWf.storeBody {op h p} (hs : s.memWf) : (storeBody op h p s).memWf := by
  unfold Sys2Proof.Machine.storeBody
  split
  · exact .partitionBody hs
  split
  · exact .pageFillBody hs
  split
  · exact .pageEvictBody hs
  split
  · exact .storeWriteBody hs
  · exact .storeReadBody hs

theorem State.memWf.settleStore (hs : s.memWf) : s.settleStore.memWf :=
  .foldl (fun _ _ h => .ite (.modStore h id) (.runChecked h (.storeBody h))) (.modStore hs id)

theorem State.memWf.storeStart {op hd p} (hs : s.memWf) : (storeStart op hd p s).memWf := .ite (.modStore hs id) (.settleStore (.storeBody hs))

theorem Store.hostInAccess_wf (x : Store) (w : HostIn) (h : x.mem.wf = true) : (x.hostInAccess w).1.mem.wf = true := by
  unfold Store.hostInAccess
  dsimp only
  split
  · exact h
  · dsimp only
    split
    · exact x.writeBlock_wf _ _ h
    · exact h

theorem execHostinSlot_nextWf (hs : s.memWf) : NextWf (execHostinSlot s) := by
  unfold execHostinSlot
  refine .ite ?_ (.next hs)
  split
  · exact .next hs
  next w _ =>
    have ht : State.memWf { s with store := { (s.store.hostInAccess w).1 with
        hostin := (s.store.hostInAccess w).1.hostin.map (fun x => if x == w then (s.store.hostInAccess w).2 else x), lastSlot := some s.absSlot } } :=
      ⟨Store.hostInAccess_wf _ _ hs.1, hs.2⟩
    exact .ite (.next (.settleStore (.hostInDone (.modStore ht id)))) (.next ht)

theorem State.memWf.demand {q n unplanned deadline} (hs : s.memWf) : (s.demand q n unplanned deadline).memWf := .notice (.modSeq hs)

theorem execPageDemand_nextWf {q} (hs : s.memWf) : NextWf (execPageDemand q s) :=
  .ite (.next (.foldl (fun _ _ h => .ite h (.demand h)) (.modSeq hs))) (.next hs)

theorem execSupSlot_nextWf (hs : s.memWf) : NextWf (execSupSlot s) := by
  refine .ite (.next ?_) (.next hs)
  split
  · exact .modSeq (.modStore (.useSlot hs) id)
  · exact .storeErrs (.modStore (.drawn (.modStore (.useSlot hs) id)) id)

theorem State.memWf.fetchLine {q alt a0} (hs : s.memWf) : (s.fetchLine q alt a0).memWf :=
  .ite (.modStore (.modSeq (.meetErrs hs)) id) (.ite (.demand hs) hs)

theorem execSeqSlotFetch_nextWf {q alt addr errs} (hs : s.memWf) : NextWf (execSeqSlotFetch q alt addr errs s) :=
  .ite (.next (.foldl (fun _ _ h => .fetchLine h) (.modSeq (.upset (.useSlot hs))))) (.next hs)

/-! ### Scratchpad, Exchange Bank, ECC_DIAG and Brush -/

theorem State.memWf.scratchBody {h p} (hs : s.memWf) : (scratchBody h p s).memWf := by
  refine .unlessFail hs (.ite (.reply (.meetRange hs)) (.ite (.ok (.plainBytes hs)) ?_))
  dsimp only
  split
  · exact .ok (.foldl (fun _ _ h => h.aliasByte) hs)
  · exact .reply (.foldl (fun _ _ h => h.aliasByte) hs)

theorem State.memWf.putXbWord {w cs} (hs : s.memWf) : (s.putXbWord w cs).memWf :=
  .modSram hs fun ⟨hscratch, hxb, hrest⟩ =>
    ⟨hscratch, CMem.foldl_setCode_wf (fun e : Codeword × Nat => 4 * w + e.2) (fun _ e => e.1) _ _ hxb, hrest⟩

theorem State.memWf.xbReadWord {w} (hs : s.memWf) : (s.xbReadWord w).2.2.memWf := .meetRange hs
theorem State.memWf.xbSignal (hs : s.memWf) : s.xbSignal.memWf := .modLink hs
theorem State.memWf.portASignal (hs : s.memWf) : s.portASignal.memWf := .modSram hs id

/-- An access through port B, whatever it does to the bank and however it collides. -/
theorem State.memWf.portB {w wr act} (hs : s.memWf) (hact : ∀ t, t.memWf → (act t).memWf) : (s.portB w wr act).memWf :=
  have h1 := hact _ hs
  .ite (.modSram h1 id) (.ite (.portASignal (.modSram (hact _ (.putXbWord hs)) id))
    (.ite (.ifElse (.drawn (.modSram (.portASignal (.modSram h1 id)) id)) fun h => .xbSignal h)
      (.ifThen (.xbSignal (.drawn (.modLink (.modSram h1 id)))) fun h => .portASignal h)))

theorem execXbHostRead_nextWf {off be} (hs : s.memWf) : NextWf (execXbHostRead off be s) :=
  .ite (.next (.portB hs fun _ h => .modLink (.xbReadWord h))) (.next hs)

theorem State.memWf.xbPlain {w be v} (hs : s.memWf) : (s.xbPlain w be v).memWf := .foldl (fun _ _ h => .ite (.plainByte h) h) hs
theorem State.memWf.xbAlias {w be v isSet} (hs : s.memWf) : (s.xbAlias w be v isSet).memWf := .foldl (fun _ _ h => .ite (.aliasByte h) h) hs
theorem State.memWf.xbWindow {off be v} (hs : s.memWf) : (s.xbWindow off be v).memWf := .ite (.xbPlain hs) (.ite (.xbAlias hs) (.xbAlias hs))
theorem State.memWf.bar2Write {off be v} (hs : s.memWf) : (s.bar2Write off be v).memWf := .ite (.portB hs fun _ h => .xbWindow h) hs
theorem execXbHostWrite_nextWf {off be v} (hs : s.memWf) : NextWf (execXbHostWrite off be v s) := .next (.bar2Write hs)
theorem execXbSetAliasWrite_nextWf {off be v} (hs : s.memWf) : NextWf (execXbSetAliasWrite off be v s) := .next (.bar2Write hs)
theorem execXbClrAliasWrite_nextWf {off be v} (hs : s.memWf) : NextWf (execXbClrAliasWrite off be v s) := .next (.bar2Write hs)

theorem State.memWf.portBUnit {w act} (hs : s.memWf) (hact : ∀ t, t.memWf → (act t).memWf) : (s.portBUnit w act).memWf :=
  have h1 := hact _ hs
  .ite (.modSram h1 id) (.ite (.portASignal (.modSram (hact _ (.putXbWord hs)) id)) (.drawn (.modSram (.portASignal (.modSram h1 id)) id)))

theorem State.memWf.portAClosed (hs : s.memWf) : s.portAClosed.memWf := .modSram hs id

theorem execXpRead_nextWf {w pt2} (hs : s.memWf) : NextWf (execXpRead w pt2 s) :=
  have h1 : (s.xbReadWord w.val).2.2.memWf := .xbReadWord hs
  .ite (.next (.portAClosed hs))
    (.ite (.next (.ite (.xbSignal (.drawn (.modSram (.modSram h1 id) id))) (.drawn (.modSram (.modSram h1 id) id)))) (.next (.modSram h1 id)))

theorem execXpWrite_nextWf {w v pt2} (hs : s.memWf) : NextWf (execXpWrite w v pt2 s) :=
  .ite (.next (.portAClosed hs)) (.ite (.next (.portASignal (.modSram hs id)))
    (.ite (.next (.ifThen (.xbSignal (.drawn (.modLink (.xbPlain (.modSram hs id))))) fun h => .portASignal h)) (.next (.xbPlain (.modSram hs id)))))

theorem State.memWf.diagBody {h p} (hs : s.memWf) : (diagBody h p s).memWf := by
  have upd : ∀ f : CMem → Nat → Codeword, ∀ l : List Nat, ∀ t : State, t.memWf →
      (t.putCmem (diagMem p) (diagSeq p) (l.foldl (fun k i => k.setCode (p.arg1.toNat + i) (f k i)) (t.cmem (diagMem p) (diagSeq p)))).memWf :=
    fun f l t ht => .putCmem ht (CMem.foldl_setCode_wf (fun i : Nat => p.arg1.toNat + i) f l _ (t.cmem_wf _ _ ht))
  exact .unlessFail hs (.ite (.reply hs) (.ok (.ite (.portBUnit hs (upd _ _)) (upd _ _ s hs))))

theorem State.memWf.brushByte {mem x} (hs : s.memWf) : (s.brushByte mem x).memWf := by
  unfold State.brushByte
  dsimp only
  generalize (if mem = 2 then s.mapPlace x else (0, x)) = place
  split
  · exact hs
  · have h1 : (s.countCe (fin 9 mem) x).memWf := .countCe hs
    exact .ite h1 (.putCmem h1 (CMem.setCode_wf _ _ _ (State.cmem_wf _ _ _ h1)))
  · exact .countUe hs

theorem State.memWf.brushOpp {m} (hs : s.memWf) : (s.brushOpp m).memWf := .modBrush hs
theorem State.memWf.brushSram {m} (hs : s.memWf) : (s.brushSram m).memWf := .modBrush (.foldl (fun _ _ h => .brushByte h) (.brushOpp hs))
theorem State.memWf.brushSup {a0 errs} (hs : s.memWf) : (s.brushSup a0 errs).memWf := .modStore (.storeErrs (.modStore hs id)) id
theorem State.memWf.brushPat {a0 errs} (hs : s.memWf) : (s.brushPat a0 errs).memWf := .modStore (.meetErrs (.upset hs)) id

theorem State.memWf.brushStore {errs} (hs : s.memWf) : (s.brushStore errs).memWf := by
  refine .ite (.modStore (.brushOpp hs) id) ?_
  split
  · exact .modBrush (.brushOpp hs)
  · exact .ifThen (.modBrush (.ite (.brushSup (.brushOpp hs)) (.brushPat (.brushOpp hs)))) fun h => .modBrush h

theorem execBrushScrub_nextWf {m errs} (hs : s.memWf) : NextWf (execBrushScrub m errs s) :=
  .ite (.next hs) (.ite (.ite (.next (.brushStore (.useSlot hs))) (.next hs)) (.ite (.next (.brushSram hs)) (.next hs)))

theorem execBrushStall_nextWf {m} (hs : s.memWf) : NextWf (execBrushStall m s) := .ite (.next (.modBrush hs)) (.next hs)

theorem execIdleSlot_nextWf {errs} (hs : s.memWf) : NextWf (execIdleSlot errs s) := by
  refine .ite ?_ (.next hs)
  split
  · exact .next (.settleStore (.readAccess (.useSlot hs)))
  · exact .ite (.next (.useSlot hs)) (.next (.brushStore (.useSlot hs)))

theorem State.memWf.brushStatusBody {hd p} (hs : s.memWf) : (brushStatusBody hd p s).memWf := .unlessFail hs (.reply (.ite (.setBrush hs) hs))

end Sys2Proof.Machine
end

section
/-! O55 continued: pins, comparison, capture, taps and measurement. -/

namespace Sys2Proof.Machine

open Sys2Proof

variable {s : State}

/-! ### Alarms and time capture -/

theorem State.memWf.fireAlarm {n} (hs : s.memWf) : (s.fireAlarm n).memWf := .ite (.raise (.modAlarm hs)) hs
theorem execAlarmFire_nextWf {n} (hs : s.memWf) : NextWf (execAlarmFire n s) := .next (.fireAlarm hs)

theorem State.memWf.alarmBody {hd p} (hs : s.memWf) : (alarmBody hd p s).memWf :=
  .unlessFail hs (.reply (.ite hs (.ite (.ite (.modMc hs) (.modAlarm (.ite hs (.fireAlarm hs))))
    (.ite (.ifThen (.modMc hs) fun h => .plainBytes h) (.fireAlarm (.modAlarm (.ite hs (.fireAlarm hs))))))))

theorem State.memWf.entryWord {x v} (hs : s.memWf) : (s.entryWord x v).memWf := .portBUnit hs fun _ h => .plainBytes h
theorem State.memWf.mcAccept {n ts ch} (hs : s.memWf) : (s.mcAccept n ts ch).memWf := .modMc (.entryWord (.entryWord (.entryWord (.entryWord hs))))

/-! ### Interval units -/

theorem State.memWf.tmuOff {u cause} (hs : s.memWf) : (s.tmuOff u cause).memWf := by
  refine .ite hs ?_
  split
  · exact .modTmu hs
  · exact .reply (.modTmu hs)

theorem State.memWf.tmuLoseGroup {g} (hs : s.memWf) : (s.tmuLoseGroup g).memWf := .forFin (fun _ _ h => .ite (.tmuOff h) h) hs

/-! ### GROUP_ASSIGN -/

theorem State.memWf.assignGrp {g q o} (hs : s.memWf) : (s.assignGrp g q o).memWf := .forFin (fun _ _ h => .modPin h) (.modGrp hs)

theorem State.memWf.assignRun {h p} (hs : s.memWf) : (s.assignRun h p).memWf := by
  refine .ite (.ok (.foldl (fun _ _ h => .tmuLoseGroup (.releaseGrp h)) hs)) ?_
  dsimp only
  split
  · exact .reply hs
  · exact .ok (.dropIdleSeqs (.foldl (fun _ _ h => .assignGrp h) (.ite hs (.setSeqOwner hs))))

theorem State.memWf.groupAssignBody {hd p} (hs : s.memWf) : (groupAssignBody hd p s).memWf := by
  refine .unlessFail hs ?_
  split
  · exact .modGrp hs
  · exact .assignRun hs

theorem State.memWf.assignAgain {hd p} (hs : s.memWf) : (s.assignAgain hd p).memWf := .runChecked hs (.groupAssignBody hs)
theorem State.memWf.resumeAssign {g} (hs : s.memWf) : (s.resumeAssign g).memWf := .ite hs (.foldl (fun _ _ h => .assignAgain h) (.modGrp hs))

/-! ### Driver events, crossings and reflex drive -/

theorem State.memWf.reportClash {q moved} (hs : s.memWf) : (s.reportClash q moved).memWf := by
  unfold State.reportClash
  dsimp only
  split
  · exact hs
  · exact .ite hs (.report (.modSeq hs))

theorem State.memWf.tellDrive {p e} (hs : s.memWf) : (s.tellDrive p e).memWf := by
  unfold State.tellDrive
  dsimp only
  split
  · exact .ite (.feedDrive hs) hs
  · exact hs

theorem execDriveEvent_nextWf {p} (hs : s.memWf) : NextWf (execDriveEvent p s) := by
  unfold execDriveEvent
  split
  · exact .next hs
  · exact .ite (.next (.modPin (.tellDrive hs))) (.next hs)

theorem State.memWf.pinEdges {p f} (hs : s.memWf) : (s.pinEdges p f).memWf := .modGrp (.modPin hs)

theorem State.memWf.pinClash {p} (hs : s.memWf) : (s.pinClash p).memWf := by
  unfold State.pinClash
  split
  · exact hs
  · exact .reportClash hs

theorem State.memWf.reflexMeet {src r x} (hs : s.memWf) : (s.reflexMeet src r x).memWf := by
  refine .ite ?_ hs
  split
  · exact hs
  · split
    · exact .ite (.pinClash (.modPin (.drawn hs))) (.modPin hs)

theorem execArmWindowClose_nextWf {p} (hs : s.memWf) : NextWf (execArmWindowClose p s) := .next (.modPin hs)
theorem State.memWf.reflexQueryBody {hd p} (hs : s.memWf) : (reflexQueryBody hd p s).memWf := .unlessFail hs (.reply hs)

theorem execComparatorCrossing_nextWf {p voh rising t} (hs : s.memWf) : NextWf (execComparatorCrossing p voh rising t s) :=
  .ite (.next (.forFin (fun _ _ h => .reflexMeet h) (.feedCross (.pinEdges hs)))) (.next hs)

theorem execComparatorValid_nextWf {p voh above} (hs : s.memWf) : NextWf (execComparatorValid p voh above s) := .next (.modPin hs)

/-! ### Guards, PPMU, level measurements and comparator checks -/

theorem State.memWf.tripCarrier {p} (hs : s.memWf) : (s.tripCarrier p).memWf := .ite (.modGrp hs) hs

theorem execGuardTrip_nextWf {p g} (hs : s.memWf) : NextWf (execGuardTrip p g s) :=
  .ite (.next (.raise (.report (.tripCarrier (.modPin hs))))) (.next hs)

theorem execGuardArmed_nextWf {p g} (hs : s.memWf) : NextWf (execGuardArmed p g s) := .ite (.next (.modPin hs)) (.next hs)
theorem State.memWf.modEntries {g mask f} (hs : s.memWf) : (s.modEntries g mask f).memWf := .foldl (fun _ _ h => .modPin h) hs
theorem State.memWf.replyStatus {hd g} (hs : s.memWf) : (s.replyStatus hd g).memWf := .reply (.setFree hs)

theorem State.memWf.guardSetBody {hd p} (hs : s.memWf) : (guardSetBody hd p s).memWf :=
  .unlessFail hs (.ite (.replyStatus hs) (.ite (.ok (.modEntries hs)) (.ok (.modEntries hs))))

theorem State.memWf.startMeas {g} (hs : s.memWf) : (s.startMeas g).memWf := by
  unfold State.startMeas
  split
  · exact .ite (.modGrp hs) hs
  · exact hs

theorem State.memWf.modChanPin {g k f} (hs : s.memWf) : (s.modChanPin g k f).memWf := .ite (.modPin hs) (.modGrp hs)

theorem State.memWf.startJob {g} (hs : s.memWf) : (s.startJob g).memWf := by
  unfold State.startJob
  dsimp only
  split
  · exact hs
  · exact .startMeas hs
  · exact .ifElse (.modGrp hs) fun h => .modPin h
  · exact .foldl (fun _ _ h => .modChanPin h) (.modGrp hs)

theorem State.memWf.addJob {g j} (hs : s.memWf) : (s.addJob g j).memWf := .ifThen (.modGrp hs) fun h => .startJob h
theorem State.memWf.endJob {g e} (hs : s.memWf) : (s.endJob g e).memWf := .resumeAssign (.startJob (.pushEntry (.modGrp hs)))
theorem State.memWf.ppmuSetBody {hd p} (hs : s.memWf) : (ppmuSetBody hd p s).memWf := .unlessFail hs (.ok (.startMeas (.modEntries hs)))
theorem execPpmuSettled_nextWf {p} (hs : s.memWf) : NextWf (execPpmuSettled p s) := .ite (.next (.startMeas (.modPin hs))) (.next hs)
theorem State.memWf.ppmuMeasureBody {hd p} (hs : s.memWf) : (ppmuMeasureBody hd p s).memWf := .unlessFail hs (.addJob hs)

theorem execPpmuMeasureDone_nextWf {g samples} (hs : s.memWf) : NextWf (execPpmuMeasureDone g samples s) := by
  unfold execPpmuMeasureDone
  dsimp only
  split
  · split
    · exact .next hs
    · exact .ite (.next (.endJob (.setFree hs))) (.next hs)
  · exact .next hs

theorem State.memWf.levelMeasureBody {hd p} (hs : s.memWf) : (levelMeasureBody hd p s).memWf := .unlessFail hs (.addJob hs)
theorem State.memWf.lastEdges {p} (hs : s.memWf) : (s.lastEdges p).memWf := .pinEdges hs

theorem execLevelMeasureDone_nextWf {g ramps} (hs : s.memWf) : NextWf (execLevelMeasureDone g ramps s) := by
  unfold execLevelMeasureDone
  dsimp only
  split
  · exact .next hs
  next m _ =>
    have h1 : (s.lastEdges m.pin).memWf := .lastEdges hs
    exact .ite (.ite (.next (.endJob (.setFree h1))) (.next hs)) (.ite (.next (.endJob (.modPin hs))) (.next hs))

theorem State.memWf.compCheckBody {hd p} (hs : s.memWf) : (compCheckBody hd p s).memWf := .unlessFail hs (.ite (.replyStatus hs) (.addJob hs))
theorem State.memWf.checkReport {g k e} (hs : s.memWf) : (s.checkReport g k e).memWf := .ite (.ite hs (.report hs)) (.report (.ite hs (.report hs)))

theorem execCompCheckDone_nextWf {g errs} (hs : s.memWf) : NextWf (execCompCheckDone g errs s) := by
  unfold execCompCheckDone
  dsimp only
  split
  · exact .ite (.next (.endJob (.foldl (fun _ _ h => .checkReport h) (.foldl (fun _ _ h => .modChanPin h) hs)))) (.next hs)
  · exact .next hs

/-! ### Strobes, fail records, Fail Map and Fail Log -/

theorem State.memWf.raiseFailG {q g vec close ts} (hs : s.memWf) : (s.raiseFailG q g vec close ts).memWf := by
  unfold State.raiseFailG
  dsimp only
  split
  · exact hs
  · exact .ite (.modTaps hs) (.modTaps (.modSeq hs))

theorem execStrobe_nextWf {p} (hs : s.memWf) : NextWf (execStrobe p s) := by
  unfold execStrobe
  dsimp only
  split
  · exact .next hs
  · refine .ite (.next hs) ?_
    split
    · exact .next (.modPin (.setFree hs))
    · exact .next (.ifThen (.modSeq (.modPin (.setFree hs))) fun h => .raiseFailG h)

theorem State.memWf.setFlag {q vec t ts} (hs : s.memWf) : (s.setFlag q vec t ts).memWf := .ite hs (.report (.raise (.modSeq hs)))
theorem State.memWf.absorbOne {q r} (hs : s.memWf) : (s.absorbOne q r).memWf := .ite (.modSeq hs) (.ite (.setFlag hs) hs)
theorem State.memWf.absorb {q t} (hs : s.memWf) : (s.absorb q t).memWf := .foldl (fun _ _ h => .absorbOne h) (.modSeq hs)
theorem execFailFlagSet_nextWf {q} (hs : s.memWf) : NextWf (execFailFlagSet q s) := .next (.absorb hs)

theorem State.memWf.mapByte {q a0 d} (hs : s.memWf) : (s.mapByte q a0 d).memWf := by
  unfold State.mapByte
  split
  · exact .report (.modFmap (.countUe hs) id)
  · exact .aliasByte hs

theorem State.memWf.mapUpdate {q rs} (hs : s.memWf) : (s.mapUpdate q rs).memWf := by
  refine .ite hs ?_
  split
  · exact hs
  · split
    · exact .modFmap hs id
    · exact .ite hs (.modFmap (.modSeq (.foldl (fun _ _ h => .mapByte h) hs)) id)

theorem State.memWf.flogOverflow {q} (hs : s.memWf) : (s.flogOverflow q).memWf := .ite hs (.report (.modSeq hs))

theorem State.memWf.logRec {q r} (hs : s.memWf) : (s.logRec q r).memWf := by
  refine .ite (.flogOverflow (.modFlog hs)) ?_
  split
  · exact .modFlog hs
  · exact .ite (.modFlog (.modFlog hs)) (.flogOverflow (.modFlog (.modFlog hs)))

theorem State.memWf.logFail {q r} (hs : s.memWf) : (s.logFail q r).memWf := .ite hs (.ifThen (.modPin hs) fun h => .logRec h)
theorem State.memWf.logStart {q sl} (hs : s.memWf) : (s.logStart q sl).memWf := .ite hs (.logRec hs)

theorem State.memWf.ringRec {q r} (hs : s.memWf) : (s.ringRec q r).memWf := by
  unfold State.ringRec
  dsimp only
  split
  · exact .ite (.flogOverflow (.modFlog hs)) (.modFlog hs)
  · exact .ite (.flogOverflow (.modFlog hs)) (.ite (.modFlog hs) (.ite (.flogOverflow (.modFlog hs)) (.modFlog hs)))

theorem execFlogSlotDrain_nextWf (hs : s.memWf) : NextWf (execFlogSlotDrain s) := by
  refine .ite ?_ (.next hs)
  split
  · exact .next hs
  · exact .next (.setFlogNext (.foldl (fun _ _ h => .ringRec h) (.modFlog (.useSlot hs))))

theorem State.memWf.failReadBody {hd p} (hs : s.memWf) : (failReadBody hd p s).memWf := .unlessFail hs (.reply hs)
theorem State.memWf.mapRead {hd q a0 n} (hs : s.memWf) : (s.mapRead hd q a0 n).memWf := .foldl (fun _ _ h => .pushEntry (.meetRange h)) hs
theorem State.memWf.failmapReadBody {hd p} (hs : s.memWf) : (failmapReadBody hd p s).memWf := .unlessFail hs (.ite (.reply hs) (.mapRead hs))
theorem State.memWf.faillogDrainBody {hd p} (hs : s.memWf) : (faillogDrainBody hd p s).memWf := .unlessFail hs (.ite (.reply hs) (.modFlog hs))
theorem State.memWf.drainEntry {q d more} (hs : s.memWf) : (s.drainEntry q d more).memWf := .pushEntry hs

theorem State.memWf.drainEnd {q d blocked} (hs : s.memWf) : (s.drainEnd q d blocked).memWf :=
  .ite (.pushEntry (.ifElse (.modFlog hs) fun h => .drainEntry h)) (.drainEntry (.modFlog hs))

theorem State.memWf.drainAccess {q d errs} (hs : s.memWf) : (s.drainAccess q d errs).memWf :=
  .ite (.drainEnd (.modFlog (.storeErrs hs))) (.ite (.modFlog (.drainEntry (.modFlog (.storeErrs hs)))) (.modFlog (.modFlog (.storeErrs hs))))

/-! ### Records and lanes of a capture engine -/

theorem State.memWf.capPut {i r ts} (hs : s.memWf) : (s.capPut i r ts).memWf := .ite (.modCap hs) (.modCap hs)
theorem State.memWf.putMark {i ts type low v a0 b0} (hs : s.memWf) : (s.putMark i ts type low v a0 b0).memWf := .capPut hs

theorem State.memWf.putVecMark {i ts type low v a0 b0} (hs : s.memWf) : (s.putVecMark i ts type low v a0 b0).memWf := by
  unfold State.putVecMark
  dsimp only
  split
  · exact hs
  · exact .capPut hs

theorem State.memWf.putPad {i} (hs : s.memWf) : (s.putPad i).memWf := .ite (.capPut hs) hs

theorem State.memWf.capUser {q v addr mark operand start} (hs : s.memWf) : (s.capUser q v addr mark operand start).memWf :=
  .forFin (fun _ _ h => .ite (.putVecMark h) h) hs

theorem State.memWf.putRec {i lane v start ts bytes} (hs : s.memWf) : (s.putRec i lane v start ts bytes).memWf := by
  refine .ite ?_ hs
  split
  · exact .ite (.modCap hs) hs
  · exact .capPut hs

theorem State.memWf.putFail {i r} (hs : s.memWf) : (s.putFail i r).memWf := .putRec hs
theorem State.memWf.capResult {i r} (hs : s.memWf) : (s.capResult i r).memWf := .ifThen (.ite hs (.modCap hs)) fun h => .modCap (.ite (.putFail h) h)
theorem State.memWf.putRaw {i x} (hs : s.memWf) : (s.putRaw i x).memWf := .putRec hs

theorem State.memWf.capEdge {i p x} (hs : s.memWf) : (s.capEdge i p x).memWf := by
  refine .ite ?_ hs
  split
  · exact hs
  · exact .ifThen (.putRec hs) fun h => .modCap h

theorem State.memWf.putLane {i lane a0 l} (hs : s.memWf) : (s.putLane i lane a0 l).memWf := .foldl (fun _ _ h => .putRec h) hs
theorem State.memWf.flushHist {i all} (hs : s.memWf) : (s.flushHist i all).memWf := .foldl (fun _ _ h => .putLane h) (.modCap hs)

theorem State.memWf.putWins {i b0 cutHere} (hs : s.memWf) : (s.putWins i b0 cutHere).memWf := by
  unfold State.putWins
  extract_lets k s1 s2
  have h1 : s1.memWf := by
    dsimp only [s1]
    split
    · exact hs
    · exact .putLane hs
  have h2 : s2.memWf := by
    dsimp only [s2]
    split
    · exact h1
    · exact .modCap h1
  exact .flushHist h2

theorem State.memWf.putRows {q i g} (hs : s.memWf) : (s.putRows q i g).memWf := .foldl (fun _ _ h => .putRaw h) (.modCap hs)

theorem State.memWf.capVec {q i} (hs : s.memWf) : (s.capVec q i).memWf := by
  unfold State.capVec
  dsimp only
  split
  · exact hs
  · exact .ite (.modCap (.putWins hs)) hs

theorem State.memWf.capVecs {q i} (hs : s.memWf) : (s.capVecs q i).memWf :=
  .flushHist (.foldl (fun _ _ h => .capVec h) (.forFin (fun _ _ h => .putRows h) hs))

theorem State.memWf.capEdges {q p} (hs : s.memWf) : (s.capEdges q p).memWf :=
  .modPin (.foldl (fun _ _ h => .foldl (fun _ _ h1 => .capEdge h1) h) (.pinEdges hs))

theorem State.memWf.capSync {q} (hs : s.memWf) : (s.capSync q).memWf :=
  .foldl (fun _ _ h => .capVecs h) (.foldl (fun _ _ h => .capEdges h)
    (.foldl (fun _ _ h => .foldl (fun _ _ h1 => .capResult h1) (.logFail h)) (.foldl (fun _ _ h => .mapUpdate h) (.modSeq hs))))

theorem execResultToCapture_nextWf {q} (hs : s.memWf) : NextWf (execResultToCapture q s) := .next (.capSync hs)

/-! ### Capture engines -/

theorem State.memWf.flushMissed {i} (hs : s.memWf) : (s.flushMissed i).memWf := by
  unfold State.flushMissed
  dsimp only
  split
  · exact hs
  · exact .putMark (.modCap hs)

theorem State.memWf.capMiss {i t} (hs : s.memWf) : (s.capMiss i t).memWf := .modCap (.ite (.flushMissed hs) hs)
theorem State.memWf.capReady {i} (hs : s.memWf) : (s.capReady i).memWf := .foldl (fun _ _ h => .capPut h) (.modCap hs)

theorem State.memWf.capEnd {i reason last ts} (hs : s.memWf) : (s.capEnd i reason last ts).memWf := by
  refine .modCap (.putPad (.putMark ?_))
  split
  · exact hs
  · exact .putWins hs

theorem State.memWf.captureDone {q i} (hs : s.memWf) : (s.captureDone q i).memWf := .ite hs (.ite (.capEnd hs) (.ite (.capEnd hs) hs))
theorem State.memWf.captureEnd {i} (hs : s.memWf) : (s.captureEnd i).memWf := .captureDone (.ite (.capSync hs) hs)
theorem execCaptureEnd_nextWf {i} (hs : s.memWf) : NextWf (execCaptureEnd i s) := .next (.captureEnd hs)
theorem State.memWf.rearmed {i} (hs : s.memWf) : (s.rearmed i).memWf := .ite (.ite (.modCap (.capSync hs)) (.capReady (.capSync hs))) hs
theorem execRearmDone_nextWf {i} (hs : s.memWf) : NextWf (execRearmDone i s) := .next (.rearmed hs)

theorem State.memWf.capOpen {i a0 marks ts} (hs : s.memWf) : (s.capOpen i a0 marks ts).memWf :=
  .ite (.modCap hs) (.ite (.modCap (.modCap hs)) (.foldl (fun _ _ h => .capPut h) (.modCap (.modCap hs))))

theorem State.memWf.capStart {i t} (hs : s.memWf) : (s.capStart i t).memWf := by
  unfold State.capStart
  extract_lets k e n type low s1 s2
  have h1 : s1.memWf := .modCap hs
  have h2 : s2.memWf := by
    refine .ite (.modCap (.putMark h1)) ?_
    split
    · exact .capEnd (.putMark h1)
    · exact .capOpen (.modCap h1)
  exact .ite (.reRaise h2) (.raise h2)

theorem State.memWf.capTrigger {i t} (hs : s.memWf) : (s.capTrigger i t).memWf := .ite (.capStart (.modCap hs)) (.capMiss (.modCap hs))
theorem State.memWf.capOccur {i r t at_} (hs : s.memWf) : (s.capOccur i r t at_).memWf := .ite (.ite (.capTrigger (.modCap hs)) (.modCap hs)) hs

theorem State.memWf.resultTrig {i r} (hs : s.memWf) : (s.resultTrig i r).1.memWf := by
  unfold State.resultTrig
  dsimp only
  split
  · exact hs
  · exact hs
  · split
    · exact hs
    · exact .drawn hs

theorem State.memWf.evalResult {q i} (hs : s.memWf) : (s.evalResult q i).memWf := by
  unfold State.evalResult
  dsimp only
  split
  · exact hs
  · exact .modCap (.ifThen hs fun h => .capOccur (.resultTrig h))

theorem State.memWf.evalRaw {q i} (hs : s.memWf) : (s.evalRaw q i).memWf := by
  unfold State.evalRaw
  dsimp only
  split
  · exact .modCap hs
  · split
    · exact .modCap hs
    · exact .capOccur (.modCap hs)

theorem State.memWf.trigEval {i} (hs : s.memWf) : (s.trigEval i).memWf :=
  .ite (.foldl (fun _ _ h => .ite (.evalRaw h) (.evalResult h)) (.rearmed (.capSync hs))) (.rearmed hs)

theorem execTriggerEval_nextWf {i} (hs : s.memWf) : NextWf (execTriggerEval i s) := .next (.trigEval hs)

theorem State.memWf.forced {i ts tap auto hop at_} (hs : s.memWf) : (s.forced i ts tap auto hop at_).memWf :=
  .ifElse (.trigEval hs) fun h => .capTrigger h

theorem execAutoTrigger_nextWf {i} (hs : s.memWf) : NextWf (execAutoTrigger i s) := .next (.ifThen (.trigEval hs) fun h => .forced h)
theorem State.memWf.capStrobed {i} (hs : s.memWf) : (s.capStrobed i).memWf := .modCap hs
theorem State.memWf.capBurstStart {q} (hs : s.memWf) : (s.capBurstStart q).memWf := .foldl (fun _ _ h => .putVecMark (.modCap h)) hs

theorem State.memWf.capBurstEnd {q} (hs : s.memWf) : (s.capBurstEnd q).memWf :=
  .foldl (fun _ _ h => .modCap (.ifThen (.putVecMark (.ifThen (.captureEnd (.trigEval h)) fun h1 => .putWins h1)) fun h1 => .putPad h1)) (.capSync hs)

theorem State.memWf.capSettle {i} (hs : s.memWf) : (s.capSettle i).memWf := by
  refine .ite (.foldl (fun _ _ h => .reply h) ?_) hs
  split
  · exact .modCap hs
  · exact .reply (.modCap hs)

theorem State.memWf.capStop {i} (hs : s.memWf) : (s.capStop i).memWf := by
  refine .ite (.putPad (.putMark (.ite (.capEnd (.flushMissed hs)) (.ifThen (.flushMissed hs) fun h => ?_)))) hs
  split
  · exact h
  · exact .putWins h

theorem State.memWf.capDisarm {i cause discard} (hs : s.memWf) : (s.capDisarm i cause discard).memWf :=
  .ite (.capSettle (.modCap hs)) (.capSettle (.modCap (.capStop hs)))

theorem execSingleDrained_nextWf {i} (hs : s.memWf) : NextWf (execSingleDrained i s) := .ite (.next (.capDisarm hs)) (.next hs)

theorem State.memWf.capDisarmBody {hd p} (hs : s.memWf) : (capDisarmBody hd p s).memWf :=
  .unlessFail hs (.ite (.reply hs) (.ite (.capDisarm (.modCap hs)) (.ok (.ite (.modCap hs) hs))))

theorem State.memWf.capArmBody {hd p} (hs : s.memWf) : (capArmBody hd p s).memWf := .unlessFail hs (.ite (.reply hs) (.pushEntry (.modCap hs)))

theorem execCapArmed_nextWf {i} (hs : s.memWf) : NextWf (execCapArmed i s) :=
  .ite (.next (.putMark (.ifElse (.modCap hs) fun h => .capReady h))) (.next hs)

theorem State.memWf.capArmTap {i} (hs : s.memWf) : (s.capArmTap i).memWf := .ite (.capReady hs) hs
theorem State.memWf.capQualTap {i t} (hs : s.memWf) : (s.capQualTap i t).memWf := .modCap hs
theorem State.memWf.ladderStep {i cause new} (hs : s.memWf) : (s.ladderStep i cause new).memWf := .putVecMark (.modCap hs)

theorem execLadderEval_nextWf {i} (hs : s.memWf) : NextWf (execLadderEval i s) :=
  .ite (.next (.ite (.ladderStep (.modCap (.ite (.flushMissed hs) hs))) (.ifThen (.modCap (.ite (.flushMissed hs) hs)) fun h => .ladderStep h)))
    (.next hs)

theorem execCapSlotWrite_nextWf {i} (hs : s.memWf) : NextWf (execCapSlotWrite i s) := .ite (.next (.modCap (.useSlot hs))) (.next hs)

theorem State.memWf.capDrain {i h errs} (hs : s.memWf) : (s.capDrain i h errs).memWf :=
  .capSettle (.setCapNext (.modCap (.pushEntry (.storeErrs hs))))

theorem execHostoutSlot_nextWf (hs : s.memWf) : NextWf (execHostoutSlot s) := by
  refine .ite (.next ?_) (.next hs)
  have flog : ∀ q : Fin 4, State.memWf (match s.flogs[q].drains with
      | [] => s
      | d :: _ => { s.drawn.useSlot.drainAccess q d (Config.freeDrainErrs s.free) with outFlog := false }) := by
    intro q
    split
    · exact hs
    · exact .setOutFlog (.drainAccess (.useSlot (.drawn hs)))
  have cap : ∀ x : Fin 8 × Hdr, ({ s.drawn.useSlot.capDrain x.1 x.2 (Config.freeDrainErrs s.free) with outFlog := true }).memWf :=
    fun _ => .setOutFlog (.capDrain (.useSlot (.drawn hs)))
  split
  · exact hs
  · exact flog _
  · exact cap _
  · exact .ite (flog _) (cap _)

/-! ### The Tap Matrix -/

theorem State.memWf.takeClaims {t} (hs : s.memWf) : (s.takeClaims t).memWf := by
  unfold State.takeClaims
  refine .foldl (fun u k hu => ?_) ?_
  · dsimp only
    split
    · split
      · exact hu
      · exact .modIo hu
    · split
      · exact .modTaps hu
      · exact .modTaps (.modIo hu)
  · split
    · exact hs
    · exact .modIo hs

theorem State.memWf.routeCommit {h n t} (hs : s.memWf) : (s.routeCommit h n t).memWf := .ok (.dropClaims (.takeClaims (.modChan hs)))

theorem State.memWf.routeWrite {hd p} (hs : s.memWf) : (s.routeWrite hd p).memWf := by
  unfold State.routeWrite
  dsimp only
  split
  · exact .refuse hs
  · split
    · exact .ite (.routeCommit hs) (.reply hs)
    · exact .routeCommit hs

theorem State.memWf.tapRouteBody {hd p} (hs : s.memWf) : (tapRouteBody hd p s).memWf := .ite (.unlessFail hs (.ok (.releaseChan hs))) (.routeWrite hs)

theorem State.memWf.tapStatusBody {hd p} (hs : s.memWf) : (tapStatusBody hd p s).memWf :=
  .unlessFail hs (.replyAt (.ite (.foldl (fun _ _ h => .ite h (.modIn h)) (.modChan hs)) hs))

theorem State.memWf.enterHub {r} (hs : s.memWf) : (s.enterHub r).memWf := .foldl (fun _ _ h => .modTaps (.modChan h)) (.modTaps hs)

theorem execTapRaise_nextWf (hs : s.memWf) : NextWf (execTapRaise s) := by
  unfold execTapRaise
  split
  · exact .next hs
  · exact .next (.enterHub hs)

theorem State.memWf.enterAll (hs : s.memWf) : s.enterAll.memWf := .foldl (fun _ _ h => .enterHub h) hs
theorem State.memWf.leaveHub {t0} (hs : s.memWf) : (s.leaveHub t0).memWf := .modChan (.modTaps hs)

theorem execTapHubRoute_nextWf {ch} (hs : s.memWf) : NextWf (execTapHubRoute ch s) := by
  unfold execTapHubRoute
  dsimp only
  split
  · exact .next hs
  · exact .next (.leaveHub (.enterAll hs))

theorem State.memWf.moveTaps (hs : s.memWf) : s.moveTaps.memWf := by
  refine .foldl (fun _ _ h => ?_) (.enterAll hs)
  split
  · exact h
  · exact .leaveHub h

theorem execConsumerBusyEnd_nextWf {i} (hs : s.memWf) : NextWf (execConsumerBusyEnd i s) := .next (.modIn hs)
theorem State.memWf.pinRaise {prod level} (hs : s.memWf) : (s.pinRaise prod level).memWf := .ite hs (.ite (.modTaps hs) (.modTaps hs))

theorem execEventPinEdge_nextWf {pin level} (hs : s.memWf) : NextWf (execEventPinEdge pin level s) := by
  unfold execEventPinEdge
  dsimp only
  split
  · exact .ite (.next hs) (.next (.pinRaise (.modTaps (.setTmus hs))))
  · exact .ite (.next hs) (.next (.pinRaise (.modIo hs)))

theorem execTapIoPulseEnd_nextWf {n} (hs : s.memWf) : NextWf (execTapIoPulseEnd n s) := .next (.modIo hs)
theorem execTapIoReturnInput_nextWf {n} (hs : s.memWf) : NextWf (execTapIoReturnInput n s) := .next (.modIo hs)

/-! ### Interval measurement -/

theorem State.memWf.tmuConfigBody {hd p} (hs : s.memWf) : (tmuConfigBody hd p s).memWf := .unlessFail hs (.ok (.modTmu hs))
theorem State.memWf.tmuStart {hd u} (hs : s.memWf) : (s.tmuStart hd u).memWf := .pushEntry (.modTmu hs)
theorem State.memWf.tmuResultBody {hd p} (hs : s.memWf) : (tmuResultBody hd p s).memWf := .unlessFail hs (.reply hs)

theorem execTmuWindowOpen_nextWf {u t} (hs : s.memWf) : NextWf (execTmuWindowOpen u t s) := by
  unfold execTmuWindowOpen
  split
  · exact .next (.ite (.modTmu hs) hs)
  · exact .next hs

theorem execTmuWindowClose_nextWf {u t} (hs : s.memWf) : NextWf (execTmuWindowClose u t s) := by
  unfold execTmuWindowClose
  split
  · exact .next (.ite (.modTmu hs) hs)
  · exact .next hs

theorem execTmuSettingDone_nextWf {u c1s c2s c1p c2p} (hs : s.memWf) : NextWf (execTmuSettingDone u c1s c2s c1p c2p s) :=
  .ite (.next hs) (.next (.ifThen (.ifThen (.modTmu hs) fun h => .report h) fun h => .report h))

theorem execTmuEndpointEvent_nextWf {u code} (hs : s.memWf) : NextWf (execTmuEndpointEvent u code s) := by
  unfold execTmuEndpointEvent
  split
  · exact .next (.ite (.modTmu hs) hs)
  · exact .next hs

theorem execTmuRangeExpire_nextWf {u} (hs : s.memWf) : NextWf (execTmuRangeExpire u s) := .ite (.next (.modTmu hs)) (.next hs)

theorem State.memWf.tmuLatched {u} (hs : s.memWf) : (s.tmuLatched u).memWf := by
  refine .ite ?_ (.modTmu hs)
  split
  · exact .raise (.tmuOff (.modTmu hs))
  · exact .reRaise (.tmuOff (.modTmu hs))

theorem execTmuLatch_nextWf {u} (hs : s.memWf) : NextWf (execTmuLatch u s) := .ite (.next hs) (.next (.tmuLatched hs))
theorem State.memWf.latchTie {u} (hs : s.memWf) : (s.latchTie u).memWf := .ite (.tmuLatched hs) hs

theorem State.memWf.tmuArmBody {hd p} (hs : s.memWf) : (tmuArmBody hd p s).memWf := by
  refine .unlessFail hs (.ite ?_ (.reply (.ifThen (.tmuOff (.latchTie hs)) fun h => .forgetGong (.modTmu h))))
  split
  · exact .refuse hs
  · exact .reply hs
  · exact .tmuStart hs

/-! ### Tap activation -/

theorem State.memWf.busyUntil {k t} (hs : s.memWf) : (s.busyUntil k t).memWf := .modIn hs
theorem State.memWf.ringGt {n ts hop} (hs : s.memWf) : (s.ringGt n ts hop).memWf := .ite (.modBeat hs) (.reRaise hs)
theorem State.memWf.ioActivate {n e u} (hs : s.memWf) : (s.ioActivate n e u).memWf := .ite (.busyUntil (.modIo hs)) (.busyUntil (.modIo hs))

theorem State.memWf.activate {e t} (hs : s.memWf) : (s.activate e t).memWf :=
  .ite (.modSeq hs) (.ite (.capArmTap hs) (.ite (.forced hs)
    (.ite (.capDisarm hs) (.ite (.capQualTap hs)
    (.ite (.modTmu hs) (.ite (.modTmu hs) (.ite (.modTmu hs)
    (.ite (.busyUntil (.mcAccept hs)) (.ite (.modGrp hs) (.ite (.ioActivate hs) (.ite (.busyUntil (.ringGt hs)) (.reportC hs))))))))))))

theorem State.memWf.overrun {k t} (hs : s.memWf) : (s.overrun k t).memWf :=
  .ite (.modMc (.modIn hs)) (.ite (.modTmu (.modIn hs)) (.ifThen (.modIn hs) fun h => .modTmu h))

theorem execTapActivation_nextWf {i} (hs : s.memWf) : NextWf (execTapActivation i s) := by
  have moved : ∀ f g, ((s.moveTaps.modTaps f).modIn i g).memWf := fun _ _ => .modIn (.modTaps (.moveTaps hs))
  unfold execTapActivation
  dsimp only
  split
  · exact .next hs
  · split
    · exact .next (moved _ _)
    · exact .ite (.next (.foldl (fun _ _ h => .overrun h) (moved _ _))) (.next (.activate (.modIn (moved _ _))))

end Sys2Proof.Machine
end

section
/-! O55 continued: commits, the Beat Ring and bursts. -/

namespace Sys2Proof.Machine

open Sys2Proof

variable {s : State}

/-! ### Staging and committing -/

theorem State.memWf.reEnableGrp {g old t} (hs : s.memWf) : (s.reEnableGrp g old t).memWf := .forFin (fun _ _ h => .modPin h) hs

theorem State.memWf.applyWrites {ws t} (hs : s.memWf) : (s.applyWrites ws t).memWf :=
  .forFin (fun _ _ h => .ite (.capStrobed h) h)
    (.forFin (fun _ _ h => .ite h (.clearMap h)) (.foldl (fun _ _ h => .reEnableGrp h) (.setCfg (.forFin (fun _ _ h => .ite (.trigEval h) h) hs))))

theorem State.memWf.settleCommits (hs : s.memWf) : s.settleCommits.memWf := .foldl (fun _ _ h => .replyAt h) (.setCommits hs)
theorem State.memWf.strobe {c} (hs : s.memWf) : (s.strobe c).memWf := .settleCommits (.setCommits (.applyWrites hs))

theorem State.memWf.applyParts {q upTo t v} (hs : s.memWf) : (s.applyParts q upTo t v).memWf :=
  .ite hs (.settleCommits (.setCommits (.applyWrites hs)))

theorem State.memWf.commitSet {h pay atTick} (hs : s.memWf) : (s.commitSet h pay atTick).memWf := by
  unfold State.commitSet
  dsimp only
  split
  · exact .reply (.modCtx hs id)
  · refine .ite (.reply (.modCtx hs id)) ?_
    split
    · exact .setCommits (.modCtx hs id)
    · exact .strobe (.modCtx hs id)

theorem State.memWf.stage {hd op p echo} (hs : s.memWf) : (s.stage hd op p echo).memWf :=
  .ite (.refuse hs) (.ite (.commitSet (.modCtx hs id)) (.reply (.modCtx hs id)))

theorem State.memWf.stageBody {op form echo hd p} (hs : s.memWf) : (stageBody op form echo hd p s).memWf := .unlessFail hs (.stage hs)
theorem State.memWf.reflexBody {hd p} (hs : s.memWf) : (reflexBody hd p s).memWf := .ite (.reflexQueryBody hs) (.stageBody hs)
theorem State.memWf.capConfigBody {hd p} (hs : s.memWf) : (capConfigBody hd p s).memWf := .unlessFail hs (.stage (.modCap hs))
theorem State.memWf.commitBody {hd p} (hs : s.memWf) : (commitBody hd p s).memWf := .unlessFail hs (.commitSet hs)

theorem execCommitStrobeRelease_nextWf {c} (hs : s.memWf) : NextWf (execCommitStrobeRelease c s) :=
  .next (.foldl (fun _ _ h => .strobe h) (.setCommits hs))

theorem State.memWf.discardBody {hd p} (hs : s.memWf) : (discardBody hd p s).memWf := .unlessFail hs (.ok (.modCtx hs id))

/-! ### The Beat Ring -/

theorem State.memWf.ringStatusBody {hd p} (hs : s.memWf) : (ringStatusBody hd p s).memWf := .unlessFail hs (.reply hs)

theorem State.memWf.ringSetupBody {hd p} (hs : s.memWf) : (ringSetupBody hd p s).memWf :=
  .unlessFail hs (.ok (.devEvents (.syncBypass (.modBeat hs))))

theorem State.memWf.ringTrainBody {hd p} (hs : s.memWf) : (ringTrainBody hd p s).memWf :=
  .ite (.unlessFail hs (.modBeat hs)) (.unlessFail hs (.devEvents (.modBeat hs)))

theorem State.memWf.failTrains {f st sub detail} (hs : s.memWf) : (s.failTrains f st sub detail).memWf := .foldl (fun _ _ h => .reply h) (.modBeat hs)
theorem State.memWf.failTraining {st sub detail} (hs : s.memWf) : (s.failTraining st sub detail).memWf := .modBeat (.failTrains hs)

theorem execEnumeration_nextWf {count own} (hs : s.memWf) : NextWf (execEnumeration count own s) :=
  .ite (.next hs) (.ite (.ite (.ite (.next hs) (.ite (.next (.failTraining hs)) (.next (.modBeat hs))))
    (.ite (.next hs) (.next (.ifThen (.report (.modBeat hs)) fun h => .failTraining h)))) (.next (.devEvents (.modBeat hs))))

theorem execLoopMeasured_nextWf {raw passes} (hs : s.memWf) : NextWf (execLoopMeasured raw passes s) :=
  .ite (.next hs) (.ite (.next (.failTraining hs)) (.next (.ifThen (.modBeat hs) fun h => .report h)))

theorem execControlBlock_nextWf {cb} (hs : s.memWf) : NextWf (execControlBlock cb s) :=
  .ite (.next hs) (.ite (.ite (.next (.failTraining hs)) (.next (.modBeat hs)))
    (.ite (.next hs) (.ite (.next (.modBeat hs)) (.ite (.next (.modBeat hs)) (.next hs)))))

theorem execCountLoad_nextWf {masterFine dk} (hs : s.memWf) : NextWf (execCountLoad masterFine dk s) := by
  have loaded : ∀ f m u, ({ s.modBeat f with metro := m, tmus := u }).memWf := fun _ _ _ => hs
  exact .ite (.next hs) (.ite (.next (.modBeat hs)) (.next (.forFin (fun _ _ h => .fireAlarm h) (loaded _ _ _))))

theorem execTrainingEnd_nextWf (hs : s.memWf) : NextWf (execTrainingEnd s) :=
  .ite (.next (.devEvents (.foldl (fun _ _ h => .reply h) (.modBeat hs)))) (.next hs)

theorem execTrainTimeout_nextWf (hs : s.memWf) : NextWf (execTrainTimeout s) := .next (.failTrains (.ite (.failTraining hs) hs))

theorem execDecisionWord_nextWf {w valid} (hs : s.memWf) : NextWf (execDecisionWord w valid s) :=
  .ite (.next hs) (.next (.modBeat (.foldl (fun _ _ h => .ite (.absorb h) h) hs)))

theorem State.memWf.gtRaise {g origin hop fine} (hs : s.memWf) : (s.gtRaise g origin hop fine).memWf := .modBeat (.modTaps hs)

theorem State.memWf.gtSend (hs : s.memWf) : s.gtSend.memWf := by
  unfold State.gtSend
  dsimp only
  split
  · exact .modBeat hs
  · exact .gtRaise (.modBeat hs)

theorem execGtSlot_nextWf {pos slot valid} (hs : s.memWf) : NextWf (execGtSlot pos slot valid s) :=
  .ite (.next hs) (.ite (.next (.gtSend hs)) (.ite (.next (.modBeat hs)) (.ite (.next hs) (.next (.gtRaise hs)))))

theorem State.memWf.missDb (hs : s.memWf) : s.missDb.memWf := .ifThen (.modBeat hs) fun h => .devEvents (.ringDrop h)

theorem execDownbeat_nextWf {tick carried measured} (hs : s.memWf) : NextWf (execDownbeat tick carried measured s) :=
  .ite (.next hs) (.ite (.next (.modBeat hs)) (.ite (.next (.missDb (.modBeat hs))) (.next (.modBeat (.modBeat hs)))))

theorem execAlignStep_nextWf (hs : s.memWf) : NextWf (execAlignStep s) := .ite (.next hs) (.next (.setMetro (.modBeat hs)))
theorem execDownbeatMissed_nextWf (hs : s.memWf) : NextWf (execDownbeatMissed s) := .next (.ite (.missDb hs) hs)
theorem execRingErrorBlock_nextWf {lane} (hs : s.memWf) : NextWf (execRingErrorBlock lane s) := .ite (.next hs) (.next (.report (.modBeat hs)))

theorem execRingLoss_nextWf {cause} (hs : s.memWf) : NextWf (execRingLoss cause s) := by
  refine .next (.devEvents (.syncBypass (.ringDrop ?_)))
  split
  · exact .report (.modBeat hs)
  · exact .report hs
  · exact hs

theorem execRingLaneLock_nextWf {lane} (hs : s.memWf) : NextWf (execRingLaneLock lane s) := .next (.ifThen (.modBeat hs) fun h => .report h)

/-! ### Placing a vector -/

theorem State.memWf.placePin {q v l gi p a} (hs : s.memWf) : (s.placePin q v l gi p a).1.memWf := .modPin hs

theorem State.memWf.placeVector {q v l} (hs : s.memWf) : (s.placeVector q v l).1.memWf :=
  foldl_keeps (fun r : State × PlaceAcc => r.1.memWf) _
    (fun r _ h => foldl_keeps (fun r : State × PlaceAcc => r.1.memWf) _ (fun _ _ h => .placePin h) _ r h) _ (s, {}) hs

/-! ### The flow of a burst -/

theorem State.memWf.timeout {q tc} (hs : s.memWf) : (s.timeout q tc).memWf := .setFlag hs

theorem State.memWf.resolve {q T} (hs : s.memWf) : (s.resolve q T).1.memWf := by
  unfold State.resolve
  dsimp only
  split
  · exact hs
  · exact .modSeq hs
  · split
    · exact hs
    · exact .modSeq hs
  · exact .iteFst (.modSeq hs) (.iteFst (.timeout (.modSeq hs)) (.modSeq hs))
  · exact .iteFst (.modSeq hs) (.iteFst (.timeout (.modSeq hs)) hs)

theorem State.memWf.movedOn {q T} (hs : s.memWf) : (s.movedOn q T).memWf := .foldl (fun _ _ h => .ite (.modStore (.meetErrs h) id) h) hs

theorem State.memWf.prepare_fst {q} (hs : s.memWf) : (s.prepare q).1.memWf := by
  unfold State.prepare
  exact .absorb (.resolve (.absorb hs))

theorem State.memWf.prepare_snd {q} (hs : s.memWf) : (s.prepare q).2.1.memWf := by
  unfold State.prepare
  dsimp only
  exact .applyParts (.absorb (.resolve (.absorb hs)))

theorem State.memWf.demandMissing {q reason store} (hs : s.memWf) : (s.demandMissing q reason store).memWf := by
  unfold State.demandMissing
  dsimp only
  split
  · exact hs
  · exact .ite (.demand hs) hs

theorem State.memWf.endBurst {q reason sub fine addr store} (hs : s.memWf) : (s.endBurst q reason sub fine addr store).memWf :=
  .applyParts (.foldl (fun _ _ h => .modGrp h) (.foldl (fun _ _ h => .modPin h) (.modSeq hs)))

theorem State.memWf.tapr {q ch start} (hs : s.memWf) : (s.tapr q ch start).memWf := .ite (.modTaps hs) (.report hs)

theorem State.memWf.issueActs {q x l unw sl per} (hs : s.memWf) : (s.issueActs q x l unw sl per).memWf := by
  unfold State.issueActs
  extract_lets s1 s2
  have h1 : s1.memWf := by
    dsimp only [s1]
    split
    · exact .ite hs (.report hs)
    · exact hs
  have h2 : s2.memWf := .ifThen h1 fun h => .foldl (fun _ _ h => .modPin h) (.modFmap h id)
  exact .ite (.tapr h2) (.ite (.capUser h2) (.ifThen h2 fun h => .endBurst h))

theorem State.memWf.vectorZero {q sl} (hs : s.memWf) : (s.vectorZero q sl).memWf := .capBurstStart (.logStart hs)

theorem State.memWf.issueVec {q l unw sl} (hs : s.memWf) : (s.issueVec q l unw sl).memWf :=
  .issueActs (.reportClash (.modSeq (.placeVector (.ite (.vectorZero hs) hs))))

theorem State.memWf.issue {q want} (hs : s.memWf) : (s.issue q want).memWf := by
  have h1 := hs.prepare_fst (q := q)
  have h2 := hs.prepare_snd (q := q)
  unfold State.issue
  generalize s.prepare q = r at h1 h2 ⊢
  obtain ⟨s1, u, d⟩ := r
  refine .ite hs (.ite (.modSeq h1) ?_)
  split
  · exact .endBurst (.demandMissing (.ifThen h1 fun h => .movedOn h))
  · exact .ifThen hs fun _ => .issueVec (.movedOn h2)

theorem execNop_nextWf {q} (hs : s.memWf) : NextWf (execNop q s) := .next (.issue hs)
theorem execRpt_nextWf {q} (hs : s.memWf) : NextWf (execRpt q s) := .next (.issue hs)
theorem execLpb_nextWf {q} (hs : s.memWf) : NextWf (execLpb q s) := .next (.issue hs)
theorem execLpe_nextWf {q} (hs : s.memWf) : NextWf (execLpe q s) := .next (.issue hs)
theorem execCall_nextWf {q} (hs : s.memWf) : NextWf (execCall q s) := .next (.issue hs)
theorem execRet_nextWf {q} (hs : s.memWf) : NextWf (execRet q s) := .next (.issue hs)
theorem execJmp_nextWf {q} (hs : s.memWf) : NextWf (execJmp q s) := .next (.issue hs)
theorem execJmpf_nextWf {q} (hs : s.memWf) : NextWf (execJmpf q s) := .next (.issue hs)
theorem execJmpg_nextWf {q} (hs : s.memWf) : NextWf (execJmpg q s) := .next (.issue hs)
theorem execMatch_nextWf {q} (hs : s.memWf) : NextWf (execMatch q s) := .next (.issue hs)
theorem execTapw_nextWf {q} (hs : s.memWf) : NextWf (execTapw q s) := .next (.issue hs)
theorem execTapr_nextWf {q} (hs : s.memWf) : NextWf (execTapr q s) := .next (.issue hs)
theorem execTset_nextWf {q} (hs : s.memWf) : NextWf (execTset q s) := .next (.issue hs)
theorem execMark_nextWf {q} (hs : s.memWf) : NextWf (execMark q s) := .next (.issue hs)
theorem execClrf_nextWf {q} (hs : s.memWf) : NextWf (execClrf q s) := .next (.issue hs)
theorem execSync_nextWf {q} (hs : s.memWf) : NextWf (execSync q s) := .next (.issue hs)
theorem execHalt_nextWf {q} (hs : s.memWf) : NextWf (execHalt q s) := .next (.issue hs)

theorem execCommitApplyAtVector_nextWf {q} (hs : s.memWf) : NextWf (execCommitApplyAtVector q s) := by
  refine .ite (.next hs) ?_
  split
  · exact .next hs
  · exact .next (.applyParts hs)

/-! ### Bursts -/

theorem State.memWf.startBurst {hd p q d} (hs : s.memWf) : (s.startBurst hd p q d).memWf := .pushEntry (.ifThen (.modSeq hs) fun h => .clearMap h)
theorem State.memWf.meetDesc {p d} (hs : s.memWf) : (s.meetDesc p d).memWf := .ite hs (.meetErrs hs)

theorem State.memWf.burstStartBody {hd p} (hs : s.memWf) : (burstStartBody hd p s).memWf := by
  refine .unlessFail hs ?_
  split
  · exact .refuse hs
  · refine .ite (.refuse (.meetDesc hs)) ?_
    split
    · exact .reply (.meetDesc hs)
    · exact .ite (.refuse (.meetDesc hs)) (.startBurst (.meetDesc hs))

theorem execBurstVector0_nextWf {q} (hs : s.memWf) : NextWf (execBurstVector0 q s) :=
  .ite (.next hs) (.next (.foldl (fun _ _ h => .modPin h) (.modSeq hs)))

theorem State.memWf.seqIdle {q} (hs : s.memWf) : (s.seqIdle q).memWf := .modSeq hs

theorem State.memWf.releaseGone {q} (hs : s.memWf) : (s.releaseGone q).memWf := by
  unfold State.releaseGone
  dsimp only
  split
  · exact .foldl (fun _ _ h => .evictPage h) (.foldl (fun _ _ h => .releaseGrp h) (.seqIdle hs))
  · exact .seqIdle hs

theorem execBurstFinal_nextWf {q} (hs : s.memWf) : NextWf (execBurstFinal q s) :=
  .ite (.next hs) (.next (.ite (.pushEntry (.capBurstEnd hs)) (.releaseGone (.capBurstEnd hs))))

theorem State.memWf.burstStopBody {hd p} (hs : s.memWf) : (burstStopBody hd p s).memWf := .unlessFail hs (.modSeq hs)
theorem execStopRequestArrive_nextWf {q} (hs : s.memWf) : NextWf (execStopRequestArrive q s) := .next (.foldl (fun _ _ h => .reply h) (.modSeq hs))
theorem State.memWf.seqStatusBody {hd p} (hs : s.memWf) : (seqStatusBody hd p s).memWf := .unlessFail hs (.reply hs)

/-! ### Response entries -/

theorem State.memWf.busOut {ws} (hs : s.memWf) : (s.busOut ws).memWf := .modLink hs
theorem State.memWf.signalRing {vec} (hs : s.memWf) : (s.signalRing vec).memWf := .ite hs (.msix hs)

end Sys2Proof.Machine
end

section
/-! O55 continued: enclave, contexts, tuning and power. -/

namespace Sys2Proof.Machine

open Sys2Proof

variable {s : State}

/-! ### The security enclave -/

theorem State.memWf.random {n} (hs : s.memWf) : (s.random n).2.memWf := .modSec hs
theorem State.memWf.authReport {inst sub} (hs : s.memWf) : (s.authReport inst sub).memWf := .report hs

theorem State.memWf.fwUpdateBody {hd p} (hs : s.memWf) : (fwUpdateBody hd p s).memWf :=
  .ite (.unlessFail hs (.ok (.modSec hs))) (.unlessFail hs (.modSec hs))

theorem execFwUpdateDone_nextWf (hs : s.memWf) : NextWf (execFwUpdateDone s) := by
  unfold execFwUpdateDone
  dsimp only
  split
  · exact .next hs
  · exact .next (.ite (.refuse (.modSec hs)) (.ok (.modSec hs)))

theorem State.memWf.prove {hd p} (hs : s.memWf) : (s.prove hd p).memWf := by
  unfold State.prove
  dsimp only
  split
  · exact .refuse hs
  · exact .ite (.ok (.modCtx (.ifThen (.modCtx hs id) fun h => .modSec h) id)) (.refuse (.authReport (.modSec (.modCtx hs id))))

theorem State.memWf.officerBody {h p} (hs : s.memWf) : (officerBody h p s).memWf :=
  have h1 : (s.random 32).2.memWf := .random hs
  .ite (.unlessFail hs (.reply (.modCtx h1 id))) (.ite (.prove hs) (.ite (.unlessFail hs (.ok (.modSec hs))) (.unlessFail hs (.ok (.modCtx hs id)))))

theorem execChallengeExpire_nextWf {c} (hs : s.memWf) : NextWf (execChallengeExpire c s) := .next (.ite hs (.modCtx hs id))

theorem execLockoutExpire_nextWf (hs : s.memWf) : NextWf (execLockoutExpire s) := by
  refine .next ?_
  split
  · exact .ite (.modSec hs) hs
  · exact hs

theorem State.memWf.attestBody {hd p} (hs : s.memWf) : (attestBody hd p s).memWf := .ite (.unlessFail hs (.reply hs)) (.unlessFail hs (.reply hs))

theorem State.memWf.sealOffer {h p} (hs : s.memWf) : (s.sealOffer h p).memWf := by
  unfold State.sealOffer
  split
  · exact .refuse hs
  · have h1 : ∀ f, ((s.modSec f).random 32).2.memWf := fun _ => .random (.modSec hs)
    exact .ite (.reply (.modCtx (h1 _) id)) (.refuse (.report (h1 _)))

theorem State.memWf.sealAccept {hd p} (hs : s.memWf) : (s.sealAccept hd p).memWf := by
  unfold State.sealAccept
  dsimp only
  split
  · exact .refuse hs
  · split
    · exact .refuse (.modCtx hs id)
    · exact .pushEntry (.modCtx (.modSec hs) id)

theorem State.memWf.sealBody {hd p} (hs : s.memWf) : (sealBody hd p s).memWf :=
  .ite (.sealOffer hs) (.ite (.sealAccept hs) (.ite (.unlessFail hs (.settle (.modCtx hs id))) (.refuse hs)))

theorem execOfferExpire_nextWf {c} (hs : s.memWf) : NextWf (execOfferExpire c s) := .next (.ite (.modCtx hs id) hs)
theorem State.memWf.stopAt {q t} (hs : s.memWf) : (s.stopAt q t).memWf := .modSeq hs
theorem State.memWf.eraseKeys (hs : s.memWf) : s.eraseKeys.memWf := .modSec (.forFin (fun _ _ h => .modCtx h id) hs)

theorem State.memWf.startZero {level} (hs : s.memWf) : (s.startZero level).memWf :=
  .authReport (.modSec (.forFin (fun _ _ h => .ite (.stopAt h) h) (.eraseKeys hs)))

/-- The Fail Maps erased as the enclave erases sealed data. -/
theorem State.memWf.eraseFmaps {c : Fmap → Bool} (hs : s.memWf) :
    ({ s with fmaps := vmap s.fmaps (fun _ m => if c m then { m with mem := [], sealed := false } else m) }).memWf := by
  obtain ⟨hstore, hctx, hmap, hrest⟩ := hs
  refine ⟨hstore, hctx, fun q => ?_, hrest⟩
  dsimp only
  rw [vmap_get]
  split
  · rfl
  · exact hmap q

theorem State.memWf.eraseSealed (hs : s.memWf) : s.eraseSealed.memWf := by
  unfold State.eraseSealed
  refine .forFin (fun _ _ h => .ifThen h fun h => .capSettle (.modCap h)) ?_
  exact .setFlogs (.setPins (.eraseFmaps (.foldl (fun _ _ h => .evictPage (.answerPage h)) hs)))

theorem State.memWf.zeroizeBody {hd p} (hs : s.memWf) : (zeroizeBody hd p s).memWf := .unlessFail hs (.startZero (.modSec hs))
theorem execZeroizeNAssert_nextWf (hs : s.memWf) : NextWf (execZeroizeNAssert s) := .next (.ite (.startZero (.modSec hs)) (.modSec (.modSec hs)))
theorem execZeroizeNRelease_nextWf (hs : s.memWf) : NextWf (execZeroizeNRelease s) := .next (.modSec hs)

theorem execZeroizeDone_nextWf (hs : s.memWf) : NextWf (execZeroizeDone s) := by
  unfold execZeroizeDone
  dsimp only
  split
  · exact .next hs
  · refine .ite (.next hs) (.next ?_)
    split
    · exact .foldl (fun _ _ h => .ok h) (.modSec (.eraseSealed hs))
    · exact .ok (.modSec (.foldl (fun _ _ h => .ok h) (.modSec (.eraseSealed hs))))

theorem State.memWf.debugBody {hd p} (hs : s.memWf) : (debugBody hd p s).memWf :=
  .unlessFail hs (.ite (.startZero (.modSec (.modCtx hs id))) (.refuse (.authReport hs)))

/-! ### Contexts -/

theorem State.memWf.openRefused {c p f} (hs : s.memWf) : (s.openRefused c p f).memWf := .ite (.signalRing (.busOut hs)) (.modCtx hs id)

theorem State.memWf.openClosed {c p} (hs : s.memWf) : (s.openClosed c p).memWf := by
  unfold State.openClosed
  split
  · exact .openRefused (.modCtx hs id)
  · split
    · exact .openRefused hs
    · exact .reply (.modCtx hs id)

theorem State.memWf.forcedStop {c} (hs : s.memWf) : (s.forcedStop c).memWf :=
  .forFin (fun _ _ h => .ite (.tmuOff h) h) (.forFin (fun _ _ h => .ite (.capDisarm h) h) (.forFin (fun _ _ h => .modSeq h) hs))

theorem State.memWf.ctxCloseBody {hd p} (hs : s.memWf) : (ctxCloseBody hd p s).memWf :=
  .unlessFail hs (.settle (.modCtx (.ite (.forcedStop hs) hs) id))

theorem State.memWf.orphan (hs : s.memWf) : s.orphan.memWf := hs
theorem State.memWf.relabel {gs ps o} (hs : s.memWf) : (s.relabel gs ps o).memWf := hs
theorem State.memWf.dropCtx {c} (hs : s.memWf) : (s.dropCtx c).memWf := .relabel (.releaseCtx (.relabel hs))

/-- Every context back in its reset state, but for its window. -/
theorem State.memWf.resetCtxs {l} (hs : s.memWf) :
    ({ s with ctxs := vmap s.ctxs (fun _ x => { window := x.window }), link := l }).memWf := by
  obtain ⟨hstore, hctx, hrest⟩ := hs
  refine ⟨hstore, fun c => ?_, hrest⟩
  dsimp only
  rw [vmap_get]
  exact hctx c

theorem State.memWf.hostDown (hs : s.memWf) : s.hostDown.memWf :=
  .resetCtxs (.forFin (fun _ _ h => .dropCtx h) (.forFin (fun _ _ h => .forcedStop h) (.settleStore (.orphan hs))))

theorem execPcieLinkDown_nextWf (hs : s.memWf) : NextWf (execPcieLinkDown s) := .next (.ite (.hostDown hs) hs)
theorem State.memWf.fenceBody {hd p} (hs : s.memWf) : (fenceBody hd p s).memWf := .unlessFail hs (.settle (.modCtx hs id))
theorem State.memWf.echoBody {hd p} (hs : s.memWf) : (echoBody hd p s).memWf := .reply hs
theorem State.memWf.deviceInfoBody {hd p} (hs : s.memWf) : (deviceInfoBody hd p s).memWf := .unlessFail hs (.reply hs)

/-! ### Tuning -/

theorem State.memWf.discard {g e sub value limit} (hs : s.memWf) : (s.discard g e sub value limit).memWf :=
  .ifElse (.modGrp hs) fun h => .report (.modTune h)

theorem State.memWf.applyRes {r} (hs : s.memWf) : (s.applyRes r).memWf := .ite (.modTune hs) (.discard hs)
theorem State.memWf.applyAll {rs} (hs : s.memWf) : (s.applyAll rs).memWf := .foldl (fun _ _ h => .applyRes h) hs
theorem State.memWf.bandOf {d} (hs : s.memWf) : (s.bandOf d).memWf := .ifThen (.modTune hs) fun h => .reportC h
theorem State.memWf.tuneStatusBody {hd p} (hs : s.memWf) : (tuneStatusBody hd p s).memWf := .unlessFail hs (.reply hs)

theorem State.memWf.tuneRunBody {hd p} (hs : s.memWf) : (tuneRunBody hd p s).memWf :=
  .unlessFail hs (.ite (.modTune hs) (.ite (.modTune hs) (.ok (.foldl (fun _ _ h => .modGrp h) hs))))

theorem State.memWf.nextFull (hs : s.memWf) : s.nextFull.memWf := .modTune hs
theorem State.memWf.fullReply {f fault} (hs : s.memWf) : (s.fullReply f fault).memWf := .ite (.reply hs) (.ite (.reply hs) (.reply hs))
theorem State.memWf.fullApply {f d rs} (hs : s.memWf) : (s.fullApply f d rs).memWf := .bandOf (.modTune (.applyAll hs))

theorem execTuneFullDieDone_nextWf {res} (hs : s.memWf) : NextWf (execTuneFullDieDone res s) := by
  unfold execTuneFullDieDone
  dsimp only
  split
  · exact .next hs
  · split
    · exact .next hs
    · refine .ite (.next (.fullReply (.nextFull hs))) (.ite (.next (.fullReply (.nextFull hs))) (.ite (.next hs) ?_))
      split
      · exact .next (.fullReply (.nextFull (.fullApply hs)))
      · exact .next (.fullApply hs)

theorem State.memWf.reflectPin {g e r} (hs : s.memWf) : (s.reflectPin g e r).1.memWf := by
  unfold State.reflectPin
  split
  · exact .discard hs
  · exact .iteFst (.modPin hs) (.discard hs)

theorem State.memWf.reflectAll {g mask trips} (hs : s.memWf) : (s.reflectAll g mask trips).1.memWf := by
  unfold State.reflectAll
  refine foldl_keeps (fun a : State × List Byte × Nat => a.1.memWf) _ (fun a e h => ?_) _ (s, [], 0) hs
  exact .iteFst (.reflectPin h) h

theorem execReflectDone_nextWf {g trips} (hs : s.memWf) : NextWf (execReflectDone g trips s) := by
  unfold execReflectDone
  split
  · exact .next hs
  next r _ =>
    have h1 : ((s.modTune (fun t => { t with reflects := t.reflects.erase r })).reflectAll g r.mask trips).1.memWf := .reflectAll (.modTune hs)
    exact .ite (.next (.ite (.reply h1) (.reply h1))) (.next hs)

theorem State.memWf.calStoreBody {hd p} (hs : s.memWf) : (calStoreBody hd p s).memWf := .unlessFail hs (.modTune (.setFlash hs))

theorem execCalStoreDone_nextWf {readBackOk} (hs : s.memWf) : NextWf (execCalStoreDone readBackOk s) := by
  unfold execCalStoreDone
  split
  · exact .next hs
  · exact .ite (.next (.ok (.modTune (.setFlash (.modTune hs))))) (.next (.refuse (.modTune hs)))

theorem State.memWf.restoreTables (hs : s.memWf) : s.restoreTables.memWf := by
  unfold State.restoreTables
  dsimp only
  split
  · exact .reportC (.modTune hs)
  · exact .forFin (fun _ _ h => .modTune h) (.foldl (fun _ _ h => .ite (.modPin h) (.discard h)) (.applyAll (.modTune hs)))

theorem execGapCalibration_nextWf {p cell meas gain} (hs : s.memWf) : NextWf (execGapCalibration p cell meas gain s) :=
  .ite (.next hs) (.ite (.next (.modPin hs)) (.next (.discard (.modPin hs))))

theorem execEdgeCellStarved_nextWf {p cell} (hs : s.memWf) : NextWf (execEdgeCellStarved p cell s) := .ite (.next (.modPin hs)) (.next hs)
theorem State.memWf.modTake {g f} (hs : s.memWf) : (s.modTake g f).memWf := .modGrp hs

theorem execTakeoverCycle_nextWf {g} (hs : s.memWf) : NextWf (execTakeoverCycle g s) := by
  refine .ite (.next hs) (.ite ?_ (.next (.modTake hs)))
  split
  · exact .next (.modTake hs)
  · exact .next (.modTake hs)

theorem execTakeoverPrepareDone_nextWf {g residual handoff} (hs : s.memWf) : NextWf (execTakeoverPrepareDone g residual handoff s) :=
  .ite (.next hs) (.ite (.next (.modTake hs)) (.ite (.next hs) (.ite (.next (.modGrp hs)) (.next (.discard (.modTake hs))))))

theorem execHandoff_nextWf {g} (hs : s.memWf) : NextWf (execHandoff g s) := by
  refine .ite (.next hs) ?_
  split
  · exact .ite (.next (.modTake hs)) (.next hs)
  · exact .ite (.next (.modTake hs)) (.next hs)
  · exact .next hs

theorem execTakeoverDefer_nextWf {g handoff} (hs : s.memWf) : NextWf (execTakeoverDefer g handoff s) :=
  .ite (.next (.modTake hs)) (.ite (.next (.modTake hs)) (.next hs))

theorem execCarryDone_nextWf {g res handoff} (hs : s.memWf) : NextWf (execCarryDone g res handoff s) :=
  .ite (.next hs) (.next (.modTake (.ite hs (.applyAll hs))))

theorem execHandbackAfterBurst_nextWf {g} (hs : s.memWf) : NextWf (execHandbackAfterBurst g s) := by
  unfold execHandbackAfterBurst
  dsimp only
  split
  · exact .next (.ite (.modTake hs) hs)
  · exact .next hs

/-! ### Power, resets and start-up -/

theorem State.hardReset_memWf {pin masterSel pw} : (s.hardReset pin masterSel pw).memWf := reset_memWf
theorem execPowerOn_nextWf {masterSel} (hs : s.memWf) : NextWf (execPowerOn masterSel s) := .next (.ite hs State.hardReset_memWf)
theorem execBrownOut_nextWf (hs : s.memWf) : NextWf (execBrownOut s) := .next (.ite State.hardReset_memWf hs)
theorem execOvervoltage_nextWf (hs : s.memWf) : NextWf (execOvervoltage s) := .next (.ite State.hardReset_memWf hs)
theorem State.memWf.letGo {cause masterSel} (hs : s.memWf) : (s.letGo cause masterSel).memWf := .ite (.modBeat (.modPower hs)) hs
theorem execOvervoltageRelease_nextWf {masterSel} (hs : s.memWf) : NextWf (execOvervoltageRelease masterSel s) := .next (.letGo hs)
theorem execThermalRestart_nextWf {masterSel} (hs : s.memWf) : NextWf (execThermalRestart masterSel s) := .next (.ite (.letGo hs) hs)
theorem execResetNAssert_nextWf {masterSel} (hs : s.memWf) : NextWf (execResetNAssert masterSel s) := .next (.ite State.hardReset_memWf hs)
theorem State.memWf.linkReset (hs : s.memWf) : s.linkReset.memWf := .setLink (.hostDown hs)
theorem execPerstNAssert_nextWf (hs : s.memWf) : NextWf (execPerstNAssert s) := .next (.ite hs (.modLink (.ite (.modPower (.linkReset hs)) hs)))
theorem execPerstNRelease_nextWf (hs : s.memWf) : NextWf (execPerstNRelease s) := .next (.modLink hs)
theorem execPcieLinkUp_nextWf (hs : s.memWf) : NextWf (execPcieLinkUp s) := .next (.ite (.msix (.modLink hs)) hs)
theorem State.memWf.bootStop {code} (hs : s.memWf) : (s.bootStop code).memWf := .modPower hs
theorem State.memWf.stepTo {n} (hs : s.memWf) : (s.stepTo n).memWf := .modPower hs
theorem State.memWf.endStep2 (hs : s.memWf) : s.endStep2.memWf := .setMetro (.modPower hs)

theorem State.memWf.bootPolicy (hs : s.memWf) : s.bootPolicy.memWf := by
  unfold State.bootPolicy
  split
  · exact .modSec hs
  · exact .ite (.authReport (.modSec hs)) (.modSec hs)
  · exact .authReport (.modSec hs)

theorem State.memWf.testFailed {test} (hs : s.memWf) : (s.testFailed test).memWf := .report (.bootStop hs)

theorem State.memWf.endStep3 {r} (hs : s.memWf) : (s.endStep3 r).memWf := by
  refine .ite (.testFailed hs) ?_
  split
  · exact .modPower (.bootStop hs)
  · exact .ite (.testFailed (.modSec hs)) (.ifThen (.modGong (.stepTo (.bootPolicy (.modSec hs)))) fun h => .startZero (.modSec h))

theorem State.memWf.endStep4 {r} (hs : s.memWf) : (s.endStep4 r).memWf :=
  .ite hs (.ite (.bootStop (.modPower hs)) (.modSram (.stepTo (.modPower hs)) id))

theorem State.memWf.endStep5 {r} (hs : s.memWf) : (s.endStep5 r).memWf := .ite (.bootStop hs) (.modSram (.stepTo (.setBrush hs)) id)

theorem State.memWf.endStep7 {r} (hs : s.memWf) : (s.endStep7 r).memWf :=
  .devEvents (.syncBypass (.modLink (.setPins (.modGong (.modPower hs)))))

theorem State.memWf.endStep {r} (hs : s.memWf) : (s.endStep r).memWf := by
  unfold State.endStep
  split
  · exact .modPower (.stepTo hs)
  · exact .ite (.bootStop hs) (.ite (.endStep2 hs) hs)
  · exact .endStep3 hs
  · exact .endStep4 hs
  · exact .endStep5 hs
  · exact .stepTo (.restoreTables hs)
  · exact .endStep7 hs
  · exact hs

theorem execStartupStepDone_nextWf {r} (hs : s.memWf) : NextWf (execStartupStepDone r s) := .next (.ite (.endStep hs) hs)
theorem execRailTimeout_nextWf {rail} (hs : s.memWf) : NextWf (execRailTimeout rail s) := .next (.ite (.modPower (.bootStop hs)) hs)
theorem execRefclkWaitTimeout_nextWf (hs : s.memWf) : NextWf (execRefclkWaitTimeout s) := .next (.ite (.modPower hs) hs)
theorem execRefclkLoss_nextWf (hs : s.memWf) : NextWf (execRefclkLoss s) := .next (.ifThen (.modPower hs) fun h => .report h)
theorem execRefclkReturn_nextWf (hs : s.memWf) : NextWf (execRefclkReturn s) := .next (.ifThen (.modPower hs) fun h => .report h)
theorem execClockLockLoss_nextWf {die} (hs : s.memWf) : NextWf (execClockLockLoss die s) := .next (.ite (.report hs) hs)

theorem execSupplyCondition_nextWf {rail out mv} (hs : s.memWf) : NextWf (execSupplyCondition rail out mv s) :=
  .next (.ifThen (.modPower hs) fun h => .report h)

theorem State.memWf.reportChange {src inst was now v} (hs : s.memWf) : (s.reportChange src inst was now v).memWf := .ite hs (.report hs)

theorem execTempSample_nextWf {sensor temp} (hs : s.memWf) : NextWf (execTempSample sensor temp s) :=
  .next (.ite (.ifElse (.modPower hs) fun _ => State.hardReset_memWf) (.ifThen (.reportChange (.reportChange (.modPower hs))) fun h => .bandOf h))

theorem State.memWf.resetCapture (hs : s.memWf) : s.resetCapture.memWf :=
  .setCaps (.forFin (fun _ _ h => .tmuOff h) (.forFin (fun _ _ h => .ifThen h fun h => .capDisarm h) hs))

theorem State.memWf.resetDie {d} (hs : s.memWf) : (s.resetDie d).memWf := .ifThen (.forFin (fun _ _ h => .ite (.resetPins h) h) hs) fun h => .report h

theorem State.memWf.resetTarget {target inst} (hs : s.memWf) : (s.resetTarget target inst).memWf :=
  .ite (.resetCapture hs) (.ite (.resetDie hs) (.ite (.devEvents (.ringDrop hs)) (.ite (.linkReset hs) hs)))

theorem execSubsysReset_nextWf (hs : s.memWf) : NextWf (execSubsysReset s) := by
  unfold execSubsysReset
  split
  · exact .next hs
  · exact .next (.report (.resetTarget (.modGong hs)))

theorem State.memWf.healthBody {hd p} (hs : s.memWf) : (healthBody hd p s).memWf := .unlessFail hs (.reply (.setFree hs))

theorem execSmbusRead_nextWf {code} (hs : s.memWf) : NextWf (execSmbusRead code s) := by
  refine .next ?_
  split
  · exact .modPower (.setFree hs)
  · exact .modPower hs

theorem execSmbusWrite_nextWf {code data} (hs : s.memWf) : NextWf (execSmbusWrite code data s) := .next (.modPower hs)

end Sys2Proof.Machine
end

section
/-! O55 continued: mailboxes and the packet of any opcode. -/

namespace Sys2Proof.Machine

open Sys2Proof

variable {s : State}

/-! ### The front registers and the mailboxes -/

/-- The meaning of any packet of the host: its delivery with the body of its opcode. -/
theorem State.memWf.takePkt {c op p} (hs : s.memWf) : (takePkt c op p s).memWf := by
  unfold Sys2Proof.Machine.takePkt
  split
  · exact .ite (.deliver hs fun _ _ _ h => .refuse h) (.openClosed hs)
  · exact .deliver hs fun _ _ _ h => .ctxCloseBody h
  · exact .deliver hs fun _ _ _ h => .commitBody h
  · exact .deliver hs fun _ _ _ h => .discardBody h
  · exact .deliver hs fun _ _ _ h => .fenceBody h
  · exact .deliver hs fun _ _ _ h => .echoBody h
  · exact .deliver hs fun _ _ _ h => .deviceInfoBody h
  · exact .deliver hs fun _ _ _ h => .ringSetupBody h
  · exact .deliver hs fun _ _ _ h => .ringTrainBody h
  · exact .deliver hs fun _ _ _ h => .ringStatusBody h
  · exact .deliver hs fun _ _ _ h => .storeStart h
  · exact .deliver hs fun _ _ _ h => .storeStart h
  · exact .deliver hs fun _ _ _ h => .storeStart h
  · exact .deliver hs fun _ _ _ h => .storeStart h
  · exact .deliver hs fun _ _ _ h => .storeStart h
  · exact .deliver hs fun _ _ _ h => .groupAssignBody h
  · exact .deliver hs fun _ _ _ h => .stageBody h
  · exact .deliver hs fun _ _ _ h => .burstStartBody h
  · exact .deliver hs fun _ _ _ h => .burstStopBody h
  · exact .deliver hs fun _ _ _ h => .seqStatusBody h
  · exact .deliver hs fun _ _ _ h => .stageBody h
  · exact .deliver hs fun _ _ _ h => .stageBody h
  · exact .deliver hs fun _ _ _ h => .stageBody h
  · exact .deliver hs fun _ _ _ h => .alarmBody h
  · exact .deliver hs fun _ _ _ h => .stageBody h
  · exact .deliver hs fun _ _ _ h => .reflexBody h
  · exact .deliver hs fun _ _ _ h => .stageBody h
  · exact .deliver hs fun _ _ _ h => .stageBody h
  · exact .deliver hs fun _ _ _ h => .guardSetBody h
  · exact .deliver hs fun _ _ _ h => .ppmuSetBody h
  · exact .deliver hs fun _ _ _ h => .ppmuMeasureBody h
  · exact .deliver hs fun _ _ _ h => .levelMeasureBody h
  · exact .deliver hs fun _ _ _ h => .compCheckBody h
  · exact .deliver hs fun _ _ _ h => .stageBody h
  · exact .deliver hs fun _ _ _ h => .failReadBody h
  · exact .deliver hs fun _ _ _ h => .failmapReadBody h
  · exact .deliver hs fun _ _ _ h => .faillogDrainBody h
  · exact .deliver hs fun _ _ _ h => .capConfigBody h
  · exact .deliver hs fun _ _ _ h => .capArmBody h
  · exact .deliver hs fun _ _ _ h => .capDisarmBody h
  · exact .deliver hs fun _ _ _ h => .tmuConfigBody h
  · exact .deliver hs fun _ _ _ h => .tmuArmBody h
  · exact .deliver hs fun _ _ _ h => .tmuResultBody h
  · exact .deliver hs fun _ _ _ h => .tapRouteBody h
  · exact .deliver hs fun _ _ _ h => .tapStatusBody h
  · exact .deliver hs fun _ _ _ h => .scratchBody h
  · exact .deliver hs fun _ _ _ h => .diagBody h
  · exact .deliver hs fun _ _ _ h => .brushStatusBody h
  · exact .deliver hs fun _ _ _ h => .tuneRunBody h
  · exact .deliver hs fun _ _ _ h => .tuneStatusBody h
  · exact .deliver hs fun _ _ _ h => .calStoreBody h
  · exact .deliver hs fun _ _ _ h => .stageBody h
  · exact .deliver hs fun _ _ _ h => .gongConfigBody h
  · exact .deliver hs fun _ _ _ h => .gongReadBody h
  · exact .deliver hs fun _ _ _ h => .officerBody h
  · exact .deliver hs fun _ _ _ h => .attestBody h
  · exact .deliver hs fun _ _ _ h => .sealBody h
  · exact .deliver hs fun _ _ _ h => .zeroizeBody h
  · exact .deliver hs fun _ _ _ h => .fwUpdateBody h
  · exact .deliver hs fun _ _ _ h => .debugBody h
  · exact .deliver hs fun _ _ _ h => .healthBody h
  · exact .deliver hs fun _ _ _ h => h

theorem State.memWf.discardBatch {c hd f} (hs : s.memWf) : (s.discardBatch c hd f).memWf :=
  .ite (.rejectIntake (.modCtx hs id)) (.modCtx (.modCtx hs id) id)

theorem State.memWf.takeFront {c} (hs : s.memWf) : (s.takeFront c).memWf :=
  .ite (.discardBatch hs) (.ite (.discardBatch hs) (.takePkt (.modCtx hs id)))

theorem State.memWf.drain {c n} (hs : s.memWf) : (s.drain c n).memWf := by
  induction n generalizing s with
  | zero => exact hs
  | succ n ih => exact .ifThen hs fun h => ih (.takeFront h)

theorem State.memWf.intake {c} (hs : s.memWf) : (s.intake c).memWf := .drain hs

theorem execDoorbellWrite_nextWf {c off bytes v} (hs : s.memWf) : NextWf (execDoorbellWrite c off bytes v s) := by
  refine .next (.ifElse hs fun h => .intake (.modCtx h ?_))
  intro x hx
  dsimp only
  split
  · exact Ctx.window_writeWindow_wf x off bytes hx
  · exact Ctx.window_writeWindow_wf x off bytes hx

theorem execRingConsWrite_nextWf {c k v} (hs : s.memWf) : NextWf (execRingConsWrite c k v s) :=
  .next (.ite hs (.ite (.intake (.modRing hs)) (.modCtx hs id)))

theorem execTime0Read_nextWf (hs : s.memWf) : NextWf (execTime0Read s) := .next (.ite (.modLink hs) hs)
theorem execXbBusyClear_nextWf {v} (hs : s.memWf) : NextWf (execXbBusyClear v s) := .next (.ite (.modLink hs) hs)
theorem execBar0WriteOther_nextWf {off size v} (hs : s.memWf) : NextWf (execBar0WriteOther off size v s) := .next hs
theorem State.memWf.msixUnmask {vec} (hs : s.memWf) : (s.msixUnmask vec).memWf := .ite (.msix (.modLink hs)) hs
theorem execMsixTableWrite_nextWf {vec k v} (hs : s.memWf) : NextWf (execMsixTableWrite vec k v s) := .next (.ite (.msixUnmask (.modLink hs)) hs)
theorem State.memWf.countSignal {c k} (hs : s.memWf) : (s.countSignal c k).memWf := .ite (.signalRing (.modRing hs)) hs

theorem State.memWf.afterPost {c e} (hs : s.memWf) : (s.afterPost c e).memWf := by
  unfold State.afterPost
  extract_lets s1 s2 s3 s4
  have h1 : s1.memWf := .ite (.modCtx hs id) hs
  have h2 : s2.memWf := by
    dsimp only [s2]
    split
    · exact h1
    · exact .modFlog h1
  have h3 : s3.memWf := by
    dsimp only [s3]
    split
    · exact h2
    · exact .seqIdle h2
  have h4 : s4.memWf := .ifThen h3 fun h => .modCtx h id
  exact .ite (.settle (.leave h4)) (.settle h4)

theorem State.memWf.post {c k e} (hs : s.memWf) : (s.post c k e).memWf := .intake (.afterPost (.countSignal (.modCtx (.modRing (.busOut hs)) id)))

theorem execResponsePost_nextWf {c k} (hs : s.memWf) : NextWf (execResponsePost c k s) := by
  refine .next ?_
  split
  · exact hs
  · exact .ite (.post hs) hs

theorem execMsixTimerExpire_nextWf {c k} (hs : s.memWf) : NextWf (execMsixTimerExpire c k s) := .next (.ite (.signalRing (.modRing hs)) hs)

/-! ### The clock -/

theorem State.memWf.idle (hs : s.memWf) : s.idle.memWf := .ite (.devEvents (.safeArrive (.setMetro hs))) (.safeArrive hs)

end Sys2Proof.Machine
end

section
/-! O55 settled: every command, and every step. -/

namespace Sys2Proof.Machine

open Sys2Proof

variable {s : State}

/-- A host command sends its packet, which is taken as its opcode says. -/
theorem exec_eq_hostCmd {i : Instr} {c : Fin 8} {op : Nat} {p : Pkt} (hi : i.sends = some (c, op, p)) :
    exec i s = hostCmd s c op p (takePkt c op) := by
  cases i <;> cases hi <;> rfl

/-- What the device does itself. -/
theorem exec_nextWf_of_event {i : Instr} (hs : s.memWf) (hi : i.sends = none) : NextWf (exec i s) := by
  unfold exec
  cases i with
  | commitStrobeRelease _ => exact execCommitStrobeRelease_nextWf hs
  | commitApplyAtVector _ => exact execCommitApplyAtVector_nextWf hs
  | doorbellWrite _ _ _ _ => exact execDoorbellWrite_nextWf hs
  | ringConsWrite _ _ _ => exact execRingConsWrite_nextWf hs
  | time0Read => exact execTime0Read_nextWf hs
  | xbBusyClear _ => exact execXbBusyClear_nextWf hs
  | bar0WriteOther _ _ _ => exact execBar0WriteOther_nextWf hs
  | responsePost _ _ => exact execResponsePost_nextWf hs
  | msixTimerExpire _ _ => exact execMsixTimerExpire_nextWf hs
  | pcieLinkDown => exact execPcieLinkDown_nextWf hs
  | pageDemand _ => exact execPageDemand_nextWf hs
  | burstVector0 _ => exact execBurstVector0_nextWf hs
  | burstFinal _ => exact execBurstFinal_nextWf hs
  | stopRequestArrive _ => exact execStopRequestArrive_nextWf hs
  | nop _ => exact execNop_nextWf hs
  | rpt _ => exact execRpt_nextWf hs
  | lpb _ => exact execLpb_nextWf hs
  | lpe _ => exact execLpe_nextWf hs
  | call _ => exact execCall_nextWf hs
  | ret _ => exact execRet_nextWf hs
  | jmp _ => exact execJmp_nextWf hs
  | jmpf _ => exact execJmpf_nextWf hs
  | jmpg _ => exact execJmpg_nextWf hs
  | matchRep _ => exact execMatch_nextWf hs
  | tapw _ => exact execTapw_nextWf hs
  | tapr _ => exact execTapr_nextWf hs
  | tset _ => exact execTset_nextWf hs
  | mark _ => exact execMark_nextWf hs
  | clrf _ => exact execClrf_nextWf hs
  | sync _ => exact execSync_nextWf hs
  | halt _ => exact execHalt_nextWf hs
  | alarmFire _ => exact execAlarmFire_nextWf hs
  | driveEvent _ => exact execDriveEvent_nextWf hs
  | comparatorCrossing _ _ _ _ => exact execComparatorCrossing_nextWf hs
  | armWindowClose _ => exact execArmWindowClose_nextWf hs
  | comparatorValid _ _ _ => exact execComparatorValid_nextWf hs
  | guardTrip _ _ => exact execGuardTrip_nextWf hs
  | ppmuSettled _ => exact execPpmuSettled_nextWf hs
  | ppmuMeasureDone _ _ => exact execPpmuMeasureDone_nextWf hs
  | levelMeasureDone _ _ => exact execLevelMeasureDone_nextWf hs
  | compCheckDone _ _ => exact execCompCheckDone_nextWf hs
  | strobe _ => exact execStrobe_nextWf hs
  | failFlagSet _ => exact execFailFlagSet_nextWf hs
  | resultToCapture _ => exact execResultToCapture_nextWf hs
  | capArmed _ => exact execCapArmed_nextWf hs
  | triggerEval _ => exact execTriggerEval_nextWf hs
  | autoTrigger _ => exact execAutoTrigger_nextWf hs
  | captureEnd _ => exact execCaptureEnd_nextWf hs
  | rearmDone _ => exact execRearmDone_nextWf hs
  | singleDrained _ => exact execSingleDrained_nextWf hs
  | ladderEval _ => exact execLadderEval_nextWf hs
  | tmuSettingDone _ _ _ _ _ => exact execTmuSettingDone_nextWf hs
  | tmuWindowOpen _ _ => exact execTmuWindowOpen_nextWf hs
  | tmuWindowClose _ _ => exact execTmuWindowClose_nextWf hs
  | tmuEndpointEvent _ _ => exact execTmuEndpointEvent_nextWf hs
  | tmuRangeExpire _ => exact execTmuRangeExpire_nextWf hs
  | tmuLatch _ => exact execTmuLatch_nextWf hs
  | tapRaise => exact execTapRaise_nextWf hs
  | tapHubRoute _ => exact execTapHubRoute_nextWf hs
  | tapActivation _ => exact execTapActivation_nextWf hs
  | consumerBusyEnd _ => exact execConsumerBusyEnd_nextWf hs
  | eventPinEdge _ _ => exact execEventPinEdge_nextWf hs
  | tapIoPulseEnd _ => exact execTapIoPulseEnd_nextWf hs
  | tapIoReturnInput _ => exact execTapIoReturnInput_nextWf hs
  | xbHostRead _ _ => exact execXbHostRead_nextWf hs
  | xbHostWrite _ _ _ => exact execXbHostWrite_nextWf hs
  | xbSetAliasWrite _ _ _ => exact execXbSetAliasWrite_nextWf hs
  | xbClrAliasWrite _ _ _ => exact execXbClrAliasWrite_nextWf hs
  | xpRead _ _ => exact execXpRead_nextWf hs
  | xpWrite _ _ _ => exact execXpWrite_nextWf hs
  | brushScrub _ _ => exact execBrushScrub_nextWf hs
  | brushStall _ => exact execBrushStall_nextWf hs
  | seqSlotFetch _ _ _ _ => exact execSeqSlotFetch_nextWf hs
  | capSlotWrite _ => exact execCapSlotWrite_nextWf hs
  | flogSlotDrain => exact execFlogSlotDrain_nextWf hs
  | hostinSlot => exact execHostinSlot_nextWf hs
  | hostoutSlot => exact execHostoutSlot_nextWf hs
  | maintSlot => exact execMaintSlot_nextWf hs
  | supSlot => exact execSupSlot_nextWf hs
  | idleSlot _ => exact execIdleSlot_nextWf hs
  | tuneFullDieDone _ => exact execTuneFullDieDone_nextWf hs
  | reflectDone _ _ => exact execReflectDone_nextWf hs
  | calStoreDone _ => exact execCalStoreDone_nextWf hs
  | gapCalibration _ _ _ _ => exact execGapCalibration_nextWf hs
  | edgeCellStarved _ _ => exact execEdgeCellStarved_nextWf hs
  | takeoverCycle _ => exact execTakeoverCycle_nextWf hs
  | takeoverPrepareDone _ _ _ => exact execTakeoverPrepareDone_nextWf hs
  | handoff _ => exact execHandoff_nextWf hs
  | takeoverDefer _ _ => exact execTakeoverDefer_nextWf hs
  | carryDone _ _ _ => exact execCarryDone_nextWf hs
  | handbackAfterBurst _ => exact execHandbackAfterBurst_nextWf hs
  | gongReport _ => exact execGongReport_nextWf hs
  | subsysReset => exact execSubsysReset_nextWf hs
  | quietExpire => exact execQuietExpire_nextWf hs
  | holdExpire _ _ => exact execHoldExpire_nextWf hs
  | tickToggle => exact execTickToggle_nextWf hs
  | heartbeat _ => exact execHeartbeat_nextWf hs
  | supHang _ => exact execSupHang_nextWf hs
  | clockLockLoss _ => exact execClockLockLoss_nextWf hs
  | refclkLoss => exact execRefclkLoss_nextWf hs
  | enumeration _ _ => exact execEnumeration_nextWf hs
  | loopMeasured _ _ => exact execLoopMeasured_nextWf hs
  | countLoad _ _ => exact execCountLoad_nextWf hs
  | trainingEnd => exact execTrainingEnd_nextWf hs
  | trainTimeout => exact execTrainTimeout_nextWf hs
  | decisionWord _ _ => exact execDecisionWord_nextWf hs
  | gtSlot _ _ _ => exact execGtSlot_nextWf hs
  | controlBlock _ => exact execControlBlock_nextWf hs
  | downbeat _ _ _ => exact execDownbeat_nextWf hs
  | alignStep => exact execAlignStep_nextWf hs
  | downbeatMissed => exact execDownbeatMissed_nextWf hs
  | ringErrorBlock _ => exact execRingErrorBlock_nextWf hs
  | ringLoss _ => exact execRingLoss_nextWf hs
  | challengeExpire _ => exact execChallengeExpire_nextWf hs
  | lockoutExpire => exact execLockoutExpire_nextWf hs
  | offerExpire _ => exact execOfferExpire_nextWf hs
  | zeroizeNAssert => exact execZeroizeNAssert_nextWf hs
  | zeroizeDone => exact execZeroizeDone_nextWf hs
  | powerOn _ => exact execPowerOn_nextWf hs
  | startupStepDone _ => exact execStartupStepDone_nextWf hs
  | railTimeout _ => exact execRailTimeout_nextWf hs
  | refclkWaitTimeout => exact execRefclkWaitTimeout_nextWf hs
  | brownOut => exact execBrownOut_nextWf hs
  | overvoltage => exact execOvervoltage_nextWf hs
  | supplyCondition _ _ _ => exact execSupplyCondition_nextWf hs
  | resetNAssert _ => exact execResetNAssert_nextWf hs
  | perstNAssert => exact execPerstNAssert_nextWf hs
  | perstNRelease => exact execPerstNRelease_nextWf hs
  | tempSample _ _ => exact execTempSample_nextWf hs
  | thermalRestart _ => exact execThermalRestart_nextWf hs
  | smbusRead _ => exact execSmbusRead_nextWf hs
  | smbusWrite _ _ => exact execSmbusWrite_nextWf hs
  | pcieLinkUp => exact execPcieLinkUp_nextWf hs
  | msixTableWrite _ _ _ => exact execMsixTableWrite_nextWf hs
  | fwUpdateDone => exact execFwUpdateDone_nextWf hs
  | zeroizeNRelease => exact execZeroizeNRelease_nextWf hs
  | overvoltageRelease _ => exact execOvervoltageRelease_nextWf hs
  | refclkReturn => exact execRefclkReturn_nextWf hs
  | ringLaneLock _ => exact execRingLaneLock_nextWf hs
  | guardArmed _ _ => exact execGuardArmed_nextWf hs
  | _ => cases hi

theorem exec_nextWf (hs : s.memWf) (i : Instr) : NextWf (exec i s) := by
  cases hi : i.sends with
  | none => exact exec_nextWf_of_event hs hi
  | some packet =>
    rw [exec_eq_hostCmd hi]
    exact hostCmd_nextWf hs fun _ h => .takePkt h

theorem step_nextWf (hs : s.memWf) : NextWf (step s) := by
  unfold step
  split
  · exact .next hs.idle
  next c cs _ =>
    have h1 : ({ s with pending := cs }).memWf := hs
    exact exec_nextWf h1 c

/-- Settles O55: every write of the model to a memory keeps it canonical, whatever command makes it. -/
theorem everyStepKeepsMemoriesCanonical : Obligations.EveryStepKeepsMemoriesCanonical := fun _ _ hs h => step_nextWf hs _ h

end Sys2Proof.Machine
end

section
/-! O19, O42: a vector that is due is issued once, and its opcode names the successor (R115 to R130). -/

namespace Sys2Proof.Machine

open Sys2Proof

/-- Two sequencers agree in every field that the opcode of an issued vector sets. -/
structure Seq.SameFlow (y z : Seq) : Prop where
  vecs : y.vecs = z.vecs
  lastAddr : y.lastAddr = z.lastAddr
  addr : y.addr = z.addr
  nextStart : y.nextStart = z.nextStart
  reps : y.reps = z.reps
  loops : y.loops = z.loops
  calls : y.calls = z.calls
  dec : y.dec = z.dec
  wait : y.wait = z.wait
  base : y.base = z.base
  pf : y.pf = z.pf
  tapPend : y.tapPend = z.tapPend
  tapwChan : y.tapwChan = z.tapwChan
  syncTo : y.syncTo = z.syncTo
  lpbPlain : y.lpbPlain = z.lpbPlain
  st : y.st = z.st

/-- Equal flows agree field by field. -/
theorem Seq.sameFlow_of_flow {y z : Seq} (h : y.flow = z.flow) : y.SameFlow z := by
  simp only [Seq.flow, Prod.mk.injEq] at h
  obtain ⟨⟨hv, hl, ha, hs, hr⟩, hlo, hc, hd, hw, hb, hp, ⟨htp, htc, hsy⟩, hlp, hst⟩ := h
  exact ⟨hv, hl, ha, hs, hr, hlo, hc, hd, hw, hb, hp, htp, htc, hsy, hlp, hst⟩

/-- A sequencer with the flow of one that has counted a vector has issued that vector. -/
theorem Seq.SameFlow.went {y z x : Seq} (h : y.SameFlow z) (hv : z.vecs = x.vecs + 1) (hl : z.lastAddr = x.addr) :
    y.went x z.addr z.nextStart :=
  ⟨h.vecs.trans hv, h.lastAddr.trans hl, h.addr, h.nextStart⟩

/-! ### The successor, opcode by opcode -/

section
variable (x : Seq) (l : VLine) (n : Nat)

/-- What every issued vector does: it is counted, and the next one begins at `n` (R115). -/
def Seq.counted : Seq := { x with vecs := x.vecs + 1, lastAddr := x.addr, nextStart := n, lpbPlain := false, noHand := l.noHand }

/-- A vector is issued, and the next one is at the address after it. -/
def Seq.wentOn : Seq := { x.counted l n with addr := x.addr + 1, reps := 0 }

/-- A vector is issued, and the next one is a repetition of it. -/
def Seq.repeated : Seq := { x.counted l n with reps := x.reps + 1 }

/-- The Downbeat start that a SYNC aims at, set by its first repetition (R130). -/
def Seq.syncAim (start per db : Nat) : Nat := if x.wait = .sync then x.syncTo else syncStart db start per (bits l.operand 15 0)

end

section
variable {x : Seq} {l : VLine} {start n per db : Nat}

/-- NOP and CLRF (R116, R119). -/
theorem Seq.advance_plain (ho : l.op = 0x00 ∨ l.op = 0x0E) : x.advance l start n per db = x.wentOn l n := by
  rcases ho with ho | ho <;> simp [Seq.advance, ho, Seq.wentOn, Seq.counted]

/-- RPT (R117). -/
theorem Seq.advance_rpt (ho : l.op = 0x01) :
    x.advance l start n per db = if x.reps + 1 < max 1 l.operand then x.repeated l n else x.wentOn l n := by
  simp [Seq.advance, ho, Seq.wentOn, Seq.repeated, Seq.counted]

/-- LPB (R122). -/
theorem Seq.advance_lpb (ho : l.op = 0x02) : x.advance l start n per db =
    { x.wentOn l n with loops := if x.lpbPlain then x.loops else { addr := x.addr, count := max 1 l.operand } :: x.loops } := by
  by_cases hp : x.lpbPlain = true <;> simp [Seq.advance, ho, hp, Seq.wentOn, Seq.counted]

/-- LPE with an open loop (R122). -/
theorem Seq.advance_lpe (ho : l.op = 0x03) {f : LoopFr} {fs : List LoopFr} (hl : x.loops = f :: fs) : x.advance l start n per db =
    if 1 < f.count then { x.wentOn l n with loops := { f with count := f.count - 1 } :: fs, addr := f.addr, lpbPlain := true }
    else { x.wentOn l n with loops := fs } := by
  simp [Seq.advance, ho, hl, Seq.wentOn, Seq.counted]

/-- CALL (R122). -/
theorem Seq.advance_call (ho : l.op = 0x04) : x.advance l start n per db =
    { x.wentOn l n with calls := { ret := x.addr + 1, depth := x.loops.length } :: x.calls, addr := l.operand } := by
  simp [Seq.advance, ho, Seq.wentOn, Seq.counted]

/-- RET from an open call (R122). -/
theorem Seq.advance_ret (ho : l.op = 0x05) {f : CallFr} {fs : List CallFr} (hc : x.calls = f :: fs) :
    x.advance l start n per db = { x.wentOn l n with calls := fs, addr := f.ret } := by
  simp [Seq.advance, ho, hc, Seq.wentOn, Seq.counted]

/-- JMP (R123). -/
theorem Seq.advance_jmp (ho : l.op = 0x06) : x.advance l start n per db = { x.wentOn l n with addr := l.operand } := by
  simp [Seq.advance, ho, Seq.wentOn, Seq.counted]

/-- JMPF (R125). -/
theorem Seq.advance_jmpf (ho : l.op = 0x07) : x.advance l start n per db = { x.wentOn l n with dec := .jmpf l.operand } := by
  simp [Seq.advance, ho, Seq.wentOn, Seq.counted]

/-- JMPG (R127). -/
theorem Seq.advance_jmpg (ho : l.op = 0x08) : x.advance l start n per db =
    { x.wentOn l n with dec := .jmpg (bits l.operand 31 28 == 0) (fin 16 (bits l.operand 27 24)) (relTarget x.addr 24 (bits l.operand 23 0)) } := by
  simp [Seq.advance, ho, Seq.wentOn, Seq.counted]

/-- MATCH (R126). -/
theorem Seq.advance_match (ho : l.op = 0x09) : x.advance l start n per db =
    { x.repeated l n with
      wait := .matching, dec := .matching (bits l.operand 27 16 * 2 ^ bits l.operand 31 28) (relTarget x.addr 16 (bits l.operand 15 0)),
      passAt := if x.reps = 0 then none else x.passAt } := by
  simp [Seq.advance, ho, Seq.repeated, Seq.counted]

/-- TAPW (R128). -/
theorem Seq.advance_tapw (ho : l.op = 0x0A) : x.advance l start n per db =
    if x.wait = .tapw then x.repeated l n
    else if x.tapPend.testBit (bits l.operand 29 24) then { x.wentOn l n with tapPend := x.tapPend - 2 ^ bits l.operand 29 24 }
    else { x.repeated l n with
      wait := .tapw, tapwChan := bits l.operand 29 24, tapSeen := none,
      dec := .tapw (fin 64 (bits l.operand 29 24)) (bits l.operand 23 0) } := by
  simp [Seq.advance, ho, Seq.wentOn, Seq.repeated, Seq.counted]

/-- TSET (R120). -/
theorem Seq.advance_tset (ho : l.op = 0x0C) : x.advance l start n per db =
    { x.wentOn l n with
      base := if bit l.operand 31 then bits l.operand 5 0 else x.base, pf := if bit l.operand 30 then fin 4 (bits l.operand 9 8) else x.pf } := by
  simp [Seq.advance, ho, Seq.wentOn, Seq.counted]

/-- SYNC (R130). -/
theorem Seq.advance_sync (ho : l.op = 0x0F) : x.advance l start n per db =
    if n + per ≤ x.syncAim l start per db then { x.repeated l n with wait := .sync, syncTo := x.syncAim l start per db }
    else { x.wentOn l n with wait := .none, syncTo := x.syncAim l start per db, nextStart := max n (x.syncAim l start per db) } := by
  simp only [Seq.advance, ho, Nat.reduceEqDiff, if_false, if_true]
  rfl

end

/-! ### The issue of the vector due -/

/-- The line of the vector issued has the opcode asked for. -/
theorem Issues.op_eq {s : State} {q : Fin 4} {op : Nat} {l : VLine} {u : State} (h : Issues s q op l u) : l.op = op := by
  obtain ⟨_, _, _, _, ho, _⟩ := h
  exact ho

/-- Beside TAPR, MARK and HALT, the vector due leaves the sequencer where its opcode says (R115). -/
theorem State.issue_sameFlow {s : State} {q : Fin 4} {op : Nat} {l : VLine} {u : State} (h : Issues s q op l u) (hop : op ∉ [0x0B, 0x0D, 0x3F])
    {z : Seq} (hz : (u.seqs[q]).advance l (u.seqs[q]).nextStart ((u.seqs[q]).nextStart + u.period q) (u.period q) u.ring.db = z) :
    ((s.issue q op).seqs[q]).SameFlow z := by
  simp only [List.mem_cons, List.not_mem_nil, or_false, not_or] at hop
  obtain ⟨hb, hd, hh⟩ := hop
  exact hz ▸ Seq.sameFlow_of_flow (s.issue_flow q op l u h hb hd hh).1

/-- CLRF clears the fail flag (R119). -/
theorem State.issue_clears_flag {s : State} {q : Fin 4} {l : VLine} {u : State} (h : Issues s q 0x0E l u) :
    ((s.issue q 0x0E).seqs[q]).flag = false :=
  (s.issue_flow q 0x0E l u h (by decide) (by decide) (by decide)).2 rfl

/-- Settles O42: NOP goes on to the next address, and no stack is part of that. -/
theorem nopIssuesItsVectorOnce : Obligations.NopIssuesItsVectorOnce := by
  intro q s l u h
  have hf := State.issue_sameFlow h (by decide) (Seq.advance_plain (.inl h.op_eq))
  exact ⟨_, rfl, hf.went rfl rfl, hf.loops, hf.calls⟩

/-- Settles O19: what each opcode makes of the sequencer, by its `Seq.advance_` lemma, is what its issue leaves (`State.issue_sameFlow`). -/
theorem vectorsFollowTheirOpcodes : Obligations.VectorsFollowTheirOpcodes := by
  refine ⟨fun q s l u h => ?rpt, fun q s l u h => ?lpb, fun q s l u h => ?lpe, fun q s l u h => ?call, fun q s l u h => ?ret, fun q s l u h => ?jmp,
    fun q s l u h => ?jmpf, fun q s l u h => ?jmpg, fun q s l u h => ?matchRep, fun q s l u h => ?tapw, fun q s l u h => ?tset,
    fun q s l u h => ?clrf, fun q s l u h => ?sync⟩
  case rpt =>
    refine ⟨_, rfl, fun hr => ?_, fun hr => ?_⟩
    · have hf := State.issue_sameFlow h (by decide) ((Seq.advance_rpt h.op_eq).trans (if_pos hr))
      exact ⟨hf.went rfl rfl, hf.reps⟩
    · have hf := State.issue_sameFlow h (by decide) ((Seq.advance_rpt h.op_eq).trans (if_neg hr))
      exact ⟨hf.went rfl rfl, hf.reps⟩
  case lpb =>
    have hf := State.issue_sameFlow h (by decide) (Seq.advance_lpb h.op_eq)
    exact ⟨_, rfl, hf.went rfl rfl, hf.loops⟩
  case lpe =>
    refine ⟨_, rfl, fun f fs hl => ⟨fun hc => ?_, fun hc => ?_⟩⟩
    · have hf := State.issue_sameFlow h (by decide) ((Seq.advance_lpe h.op_eq hl).trans (if_pos hc))
      exact ⟨hf.went rfl rfl, hf.loops, hf.lpbPlain⟩
    · have hf := State.issue_sameFlow h (by decide) ((Seq.advance_lpe h.op_eq hl).trans (if_neg hc))
      exact ⟨hf.went rfl rfl, hf.loops⟩
  case call =>
    have hf := State.issue_sameFlow h (by decide) (Seq.advance_call h.op_eq)
    exact ⟨_, rfl, hf.went rfl rfl, hf.calls⟩
  case ret =>
    refine ⟨_, rfl, fun f fs hc => ?_⟩
    have hf := State.issue_sameFlow h (by decide) (Seq.advance_ret h.op_eq hc)
    exact ⟨hf.went rfl rfl, hf.calls⟩
  case jmp =>
    have hf := State.issue_sameFlow h (by decide) (Seq.advance_jmp h.op_eq)
    exact ⟨_, rfl, hf.went rfl rfl, hf.loops, hf.calls⟩
  case jmpf =>
    have hf := State.issue_sameFlow h (by decide) (Seq.advance_jmpf h.op_eq)
    exact ⟨_, rfl, hf.went rfl rfl, hf.dec⟩
  case jmpg =>
    have hf := State.issue_sameFlow h (by decide) (Seq.advance_jmpg h.op_eq)
    exact ⟨_, rfl, hf.went rfl rfl, hf.dec⟩
  case matchRep =>
    have hf := State.issue_sameFlow h (by decide) (Seq.advance_match h.op_eq)
    exact ⟨_, rfl, hf.went rfl rfl, hf.reps, hf.wait, hf.dec, hf.st⟩
  case tapw =>
    refine ⟨_, rfl, fun hw => ?_, fun hw ht => ?_, fun hw ht => ?_⟩
    · have hf := State.issue_sameFlow h (by decide) ((Seq.advance_tapw h.op_eq).trans (if_pos hw))
      exact ⟨hf.went rfl rfl, hf.reps, hf.wait.trans hw⟩
    · have hf := State.issue_sameFlow h (by decide) ((Seq.advance_tapw h.op_eq).trans ((if_neg hw).trans (if_pos ht)))
      exact ⟨hf.went rfl rfl, hf.tapPend⟩
    · have hf := State.issue_sameFlow h (by decide)
        ((Seq.advance_tapw h.op_eq).trans ((if_neg hw).trans (if_neg (ht ▸ Bool.false_ne_true))))
      exact ⟨hf.went rfl rfl, hf.wait, hf.tapwChan, hf.dec⟩
  case tset =>
    have hf := State.issue_sameFlow h (by decide) (Seq.advance_tset h.op_eq)
    exact ⟨_, rfl, hf.went rfl rfl, hf.base, hf.pf⟩
  case clrf =>
    have hf := State.issue_sameFlow h (by decide) (Seq.advance_plain (.inr h.op_eq))
    exact ⟨_, rfl, hf.went rfl rfl, State.issue_clears_flag h⟩
  case sync =>
    refine ⟨_, rfl, fun ha => ?_, fun ha => ?_⟩
    · have hf := State.issue_sameFlow h (by decide) ((Seq.advance_sync h.op_eq).trans (if_pos ha))
      exact ⟨hf.went rfl rfl, hf.wait, hf.syncTo⟩
    · have hf := State.issue_sameFlow h (by decide) ((Seq.advance_sync h.op_eq).trans (if_neg ha))
      exact ⟨hf.went rfl rfl, hf.wait⟩

end Sys2Proof.Machine
end

section
/-! O2: a step on an empty queue lets the clock run on (R150). -/

namespace Sys2Proof.Machine

open Sys2Proof

/-- With no command waiting, the block idles. -/
theorem step_of_pending_nil (s : State) (h : s.pending = []) : step s = .next s.idle := by
  simp only [step, h]

/-- A locked clock advances by one tick before a SAFE arrives. -/
theorem State.idle_locked (s : State) (h : s.power.locked = true) :
    s.idle = State.devEvents s ({ s with metro := s.metro + 512 } : State).safeArrive := if_pos h

/-- Without a locked clock, only a SAFE arrives. -/
theorem State.idle_unlocked (s : State) (h : s.power.locked = false) : s.idle = s.safeArrive :=
  if_neg (Bool.eq_false_iff.1 h)

/-- Settles O2: the step is `State.idle`, with its clock locked or not. -/
theorem emptyQueueRunsTheClock : Obligations.EmptyQueueRunsTheClock := fun s hp =>
  ⟨fun hl => by rw [step_of_pending_nil s hp, State.idle_locked s hl],
    fun hl => by rw [step_of_pending_nil s hp, State.idle_unlocked s hl]⟩

end Sys2Proof.Machine
end

section
/-! O11, O12: an alarm fires at its due tick, and ALARM_SET writes, queries or releases its unit (R173 to R175). -/

namespace Sys2Proof.Machine

open Sys2Proof

/-! ### The firing of an alarm (R174) -/

/-- An alarm without an interval fires once and is then disabled. -/
theorem Alarm.fired_once (x : Alarm) (t : Nat) (hi : x.interval = 0) :
    x.fired t = { x with late := decide (x.due < t), count := (x.count + 1) % 2 ^ 64, enabled := false } := if_pos hi

/-- An alarm with an interval moves on by the intervals that have passed and one more, and loses those that have passed. -/
theorem Alarm.fired_again (x : Alarm) (t : Nat) (hi : x.interval ≠ 0) :
    x.fired t = { x with late := decide (x.due < t), count := (x.count + 1) % 2 ^ 64, due := x.due + ((t - x.due) / x.interval + 1) * x.interval, lost := min (x.lost + (t - x.due) / x.interval) (2 ^ 32 - 1) } := if_neg hi

/-- Whatever its interval, a firing notes its lateness, is counted, and leaves owner and interval. -/
theorem Alarm.fired_frame (x : Alarm) (t : Nat) :
    (x.fired t).owner = x.owner ∧ (x.fired t).interval = x.interval ∧ (x.fired t).late = decide (x.due < t) ∧
      (x.fired t).count = (x.count + 1) % 2 ^ 64 := by
  by_cases hi : x.interval = 0
  · rw [x.fired_once t hi]; exact ⟨rfl, rfl, rfl, rfl⟩
  · rw [x.fired_again t hi]; exact ⟨rfl, rfl, rfl, rfl⟩

/-- The last whole interval after a due tick that has come ends by now, and the next one after now. -/
theorem due_le_and_lt_due (due t i : Nat) (hi : i ≠ 0) (hd : due ≤ t) :
    due + (t - due) / i * i ≤ t ∧ t < due + ((t - due) / i + 1) * i := by
  have hlo : (t - due) / i * i ≤ t - due := Nat.div_mul_le_self _ _
  have hhi : t - due < ((t - due) / i + 1) * i := (Nat.div_lt_iff_lt_mul (Nat.pos_of_ne_zero hi)).1 (Nat.lt_succ_self _)
  omega

/-- An alarm that is due fires and raises its tap. -/
theorem State.fireAlarm_due (s : State) (n : Fin 8) (he : s.alarms[n].enabled = true) (hd : s.alarms[n].due ≤ s.tick) :
    s.fireAlarm n = (s.modAlarm n (fun x => x.fired s.tick)).raise (0x40 + n.val) s.nowTick 0 none none :=
  if_pos (by rw [he, decide_eq_true hd]; rfl)

/-- An alarm that is disabled or not yet due does not fire. -/
theorem State.fireAlarm_idle (s : State) (n : Fin 8) (h : s.alarms[n].enabled = false ∨ s.tick < s.alarms[n].due) :
    s.fireAlarm n = s := by
  refine if_neg fun hf => ?_
  rw [Bool.and_eq_true, decide_eq_true_eq] at hf
  obtain he | hd := h
  · exact Bool.false_ne_true (he.symm.trans hf.1)
  · exact absurd hf.2 (Nat.not_le_of_lt hd)

/-- Settles O12: the firing is `State.fireAlarm_due`, its intervals those of `Alarm.fired_again`. -/
theorem alarmFiresAtItsDueTick : Obligations.AlarmFiresAtItsDueTick := by
  refine ⟨fun n s he hd => ?_, fun n s h => congrArg Host.Outcome.next (s.fireAlarm_idle n h)⟩
  obtain ⟨ho, hi, hl, hc⟩ := s.alarms[n].fired_frame s.tick
  refine ⟨_, s.alarms[n].fired s.tick, congrArg Host.Outcome.next (s.fireAlarm_due n he hd), rfl, ho, hi, hl, hc, fun h0 => ?_, fun h0 => ?_⟩
  · rw [Alarm.fired_once _ _ h0]
    exact ⟨rfl, rfl, rfl⟩
  · obtain ⟨hle, hlt⟩ := due_le_and_lt_due _ _ _ h0 hd
    rw [Alarm.fired_again _ _ h0]
    exact ⟨he, _, rfl, hlt, hle, rfl⟩

/-! ### ALARM_SET (R173) -/

/-- The unit that ALARM_SET names is free or the sender's. -/
theorem alarmOwns_none (h : Hdr) (q : Pkt) (a : State) :
    alarmOwns h q a = none ↔ if q.b0 12 then a.mcs[alarmUnit q].owner = .none ∨ a.mcs[alarmUnit q].owner = h.who
      else a.alarms[alarmUnit q].owner = .none ∨ a.alarms[alarmUnit q].owner = h.who := by
  rw [alarmOwns, failIf_none, takenFrom_false]
  cases q.b0 12 <;> rfl

/-- The row of ALARM_SET gives RELEASE by bit 0 of its field and QUERY by bit 1. -/
theorem alarmRow_bits (p q : Pkt) (v : Nat) (hq : q.arg0 = (p.withA0 15 14 v).arg0) (hv : v < 4) :
    q.b0 14 = v.testBit 0 ∧ q.b0 15 = v.testBit 1 := by
  have hf : q.a0 15 14 = v := Pkt.a0_of_row p q 15 14 v hq (by decide) (by decide) hv
  exact ⟨hf ▸ Pkt.b0_of_a0 q 15 14 0 (by decide), hf ▸ Pkt.b0_of_a0 q 15 14 1 (by decide)⟩

/-- The status of the unit that a packet names, as the response to ALARM_SET gives it. -/
def State.unitReply (s : State) (h : Hdr) (q : Pkt) : State := s.reply h 0 0 0 (s.unitBytes q)

/-- With QUERY, ALARM_SET only answers. -/
theorem alarmBody_queries (h : Hdr) (q : Pkt) (a : State) (hq : q.b0 15 = true) (hu : q.units = 0) : alarmBody h q a = a.unitReply h q := by
  rw [alarmBody, State.unlessFail_of_none _ _ _ (by simp [hq, hu])]
  simp only [hq, if_true, State.unitReply]

/-- With RELEASE, ALARM_SET disables the unit and gives it up, an alarm after a firing that is due. -/
theorem alarmBody_releases (h : Hdr) (q : Pkt) (a : State) (hq : q.b0 15 = false) (hr : q.b0 14 = true) (hu : q.units = 0) :
    alarmBody h q a = (if q.b0 12 then a.modMc (alarmUnit q) TimeCap.released
      else (a.fireAlarm (alarmUnit q)).modAlarm (alarmUnit q) Alarm.released).unitReply h q := by
  rw [alarmBody, State.unlessFail_of_none _ _ _ (by simp [hr, hu])]
  cases q.b0 12 <;> simp only [hq, hr, State.unitReply, Bool.or_self, Bool.false_eq_true, if_false, if_true]

section
variable (h : Hdr) (q : Pkt) (a : State) (hq : q.b0 15 = false) (hr : q.b0 14 = false) (hu : q.units = 0)
include hq hr hu

/-- ALARM_SET of an alarm fires it under its old setting, writes it, and fires it under the new one. -/
theorem alarmBody_writes_alarm (hm : q.b0 12 = false) :
    alarmBody h q a = (((a.fireAlarm (alarmUnit q)).modAlarm (alarmUnit q) (fun x => x.write h.who q)).fireAlarm (alarmUnit q)).unitReply h q := by
  rw [alarmBody, State.unlessFail_of_none _ _ _ (by simp [hm, hu])]
  simp only [hq, hr, hm, State.unitReply, Bool.or_self, Bool.false_eq_true, if_false]

/-- ALARM_SET of a capture unit whose buffer lies in the Exchange Bank writes it, and clears the buffer where it enables it. -/
theorem alarmBody_writes_capture (hm : q.b0 12 = true) (hb : bufOk q = true) :
    alarmBody h q a = (if q.b0 13 then (a.modMc (alarmUnit q) (fun x => x.write h.who q)).plainBytes 1 0 (q.a1 15 0) (zeros (2 ^ q.a2 3 0 * 16))
      else a.modMc (alarmUnit q) (fun x => x.write h.who q)).unitReply h q := by
  rw [alarmBody, State.unlessFail_of_none _ _ _ (by simp [hb, hu])]
  simp only [hq, hr, hm, State.unitReply, Bool.false_eq_true, if_false, if_true]

end

/-- A buffer that starts anew at each enabling, as a case split on ENABLE. -/
theorem TimeCap.write_eq (m : TimeCap) (o : Owner) (q : Pkt) :
    m.write o q = if q.b0 13 then { m with owner := o, enabled := true, buf := q.a1 15 0, sizeLog2 := q.a2 3 0, next := 0, eseq := 1 }
      else { m with owner := o, enabled := false, buf := q.a1 15 0, sizeLog2 := q.a2 3 0 } := by
  cases hb : q.b0 13 <;> simp only [TimeCap.write, hb, Bool.false_eq_true, if_false, if_true]

/-- The response about an alarm carries the status of the alarm. -/
theorem State.unitReply_alarm (s : State) (h : Hdr) (q : Pkt) (hm : q.b0 12 = false) :
    s.unitReply h q = s.reply h 0 0 0 ((s.alarms[alarmUnit q]).bytes (alarmUnit q)) := by
  rw [State.unitReply, State.unitBytes, hm, if_neg Bool.false_ne_true]

/-- The response about a capture unit carries the status of the unit. -/
theorem State.unitReply_capture (s : State) (h : Hdr) (q : Pkt) (hm : q.b0 12 = true) :
    s.unitReply h q = s.reply h 0 0 0 ((s.mcs[alarmUnit q]).bytes (alarmUnit q)) := by
  rw [State.unitReply, State.unitBytes, hm, if_pos rfl]

/-- Settles O11: each form of ALARM_SET is `completes_of_body` with the lemma about its body. -/
theorem alarmCommandsWriteOneUnit : Obligations.AlarmCommandsWriteOneUnit := by
  refine ⟨fun c p => ?_, fun c p => ?_, fun c p => ?_, fun c p => ?_⟩ <;>
    refine completes_of_body _ c 0x404 _ _ _ alarmOwns noFail alarmBody (fun _ => rfl) ?_
  · rintro h bs a q ⟨hm, ho, hu⟩
    obtain ⟨hr, hq⟩ := alarmRow_bits p q 0 rfl (by decide)
    refine ⟨(alarmOwns_none h q a).2 (by rwa [hm]), rfl, ?_⟩
    rw [alarmBody_writes_alarm h q a hq hr hu hm, State.unitReply_alarm _ h q hm]
    rfl
  · rintro h bs a q ⟨hm, ho, hu, hs, he⟩
    obtain ⟨hr, hq⟩ := alarmRow_bits p q 0 rfl (by decide)
    have hb : bufOk q = true := by rw [bufOk, decide_eq_true hs, decide_eq_true he]; rfl
    refine ⟨(alarmOwns_none h q a).2 (by rwa [hm]), rfl, ?_⟩
    rw [alarmBody_writes_capture h q a hq hr hu hm hb, State.unitReply_capture _ h q hm]
    simp only [TimeCap.write_eq]
  · rintro h bs a q ⟨ho, hu⟩
    have hq : q.b0 15 = true := Pkt.b0_of_row_one p q 15 rfl (by decide)
    exact ⟨(alarmOwns_none h q a).2 ho, rfl, alarmBody_queries h q a hq hu⟩
  · rintro h bs a q ⟨ho, hu⟩
    obtain ⟨hr, hq⟩ := alarmRow_bits p q 1 rfl (by decide)
    exact ⟨(alarmOwns_none h q a).2 ho, rfl, alarmBody_releases h q a hq hr hu⟩

end Sys2Proof.Machine
end

section
/-! O23: the commands of guards, PPMU, level measurements, self-checks and reflex status (R192, R209 to R225). -/

namespace Sys2Proof.Machine

open Sys2Proof

/-- A measurement joins those of its group, and starts at once where the group measures nothing (R55, R215). -/
theorem State.addJob_eq (a : State) (g : Fin 8) (j : MeasJob) :
    a.addJob g j = if a.grps[g].jobs = [] then (a.modGrp g (fun x => { x with jobs := x.jobs ++ [j] })).startJob g
      else a.modGrp g (fun x => { x with jobs := x.jobs ++ [j] }) := by
  simp only [State.addJob, List.isEmpty_iff]

/-- REFLEX_SET with QUERY answers the status entries of the group (R192). -/
theorem reflexBody_queries (h : Hdr) (q : Pkt) (a : State) (hq : q.b0 15 = true) (hu : q.units = 0) :
    reflexBody h q a = a.reply h 0 0 0 ((List.finRange 16).flatMap (fun e => a.reflexEntry (pinOf (pktGroup q) e))) := by
  rw [reflexBody, if_pos hq, reflexQueryBody, State.unlessFail_of_none _ _ _ ((lenFail_none q 0).2 hu)]

/-- The level measurement that LEVEL_MEASURE asks for (R217). -/
def levMeasOf (h : Hdr) (q : Pkt) (slope : Bool) : LevMeas :=
  { hdr := h, pin := levPin q, slope := slope, sel := q.b0 12, keepHyst := q.b0 20,
    vStart := sext 32 q.arg1.toNat, vEnd := sext 32 q.arg2.toNat, rate := q.a3 15 0, ramps := q.a3 31 16,
    count := q.arg1.toNat, timeout := q.arg2.toNat }

section
variable (h : Hdr) (q : Pkt) (a : State)

section
variable (hf : guardForm q = none)
include hf

/-- GUARD_SET with QUERY answers the status block (R210). -/
theorem guardSetBody_queries (hq : q.b0 15 = true) : guardSetBody h q a = a.replyStatus h (pktGroup q) := by
  rw [guardSetBody, State.unlessFail_of_none _ _ _ hf]
  exact if_pos hq

/-- GUARD_SET with CLEAR clears the latches of the pins selected (R210). -/
theorem guardSetBody_clears (hq : q.b0 15 = false) (hc : q.b0 14 = true) :
    guardSetBody h q a = (a.modEntries (pktGroup q) (pktMask q) (fun _ x => x.guardClear a.tick)).ok h := by
  rw [guardSetBody, State.unlessFail_of_none _ _ _ hf]
  simp only [hq, hc, Bool.false_eq_true, if_false, if_true]

/-- GUARD_SET writes the guards of the pins selected (R209). -/
theorem guardSetBody_writes (hq : q.b0 15 = false) (hc : q.b0 14 = false) :
    guardSetBody h q a = (a.modEntries (pktGroup q) (pktMask q) (fun e x => x.guardWrite (entryAt 16 q.body e))).ok h := by
  rw [guardSetBody, State.unlessFail_of_none _ _ _ hf]
  simp only [hq, hc, Bool.false_eq_true, if_false]

end

/-- PPMU_MEASURE of pins whose PPMU is on, of a sample count in its range, joins the measurements of the group (R215). -/
theorem ppmuMeasureBody_joins (hu : q.units = 0) (hm : ∀ e ∈ entriesOf (pktMask q), a.pins[pinOf (pktGroup q) e].ppmu.mode ≠ 0)
    (h1 : 1 ≤ q.a2 16 0) (h2 : q.a2 16 0 ≤ 65536) :
    ppmuMeasureBody h q a = a.addJob (pktGroup q) (.ppmu { hdr := h, mask := pktMask q, samples := q.a2 16 0 }) := by
  have hon : (entriesOf (pktMask q)).any (fun e => a.pins[pinOf (pktGroup q) e].ppmu.mode == 0) = false :=
    List.any_eq_false.2 (fun e he => mt beq_iff_eq.1 (hm e he))
  have hn : (decide (q.a2 16 0 = 0) || decide (65536 < q.a2 16 0)) = false := by
    simp only [Bool.or_eq_false_iff, decide_eq_false_iff_not]
    omega
  rw [ppmuMeasureBody, State.unlessFail_of_none _ _ _ (by rw [hon]; simp only [firstFail_cons, firstFail_nil, lenFail_none, failIf_none, hu, hn, and_self])]

/-- LEVEL_MEASURE joins the measurements of the group, as the SLOPE measurement or the ramps that its MODE names (R217). -/
theorem levelMeasureBody_joins (hf : levelForm q = none) :
    levelMeasureBody h q a = a.addJob (pktGroup q) (.level (levMeasOf h q (q.a0 17 16 == 1))) := by
  rw [levelMeasureBody, State.unlessFail_of_none _ _ _ hf]
  rfl

/-- LEVEL_MEASURE with MODE SLOPE runs beside a burst (R217). -/
theorem levelBusy_slope (hm : q.a0 17 16 = 1) : levelBusy h q a = none := by
  simp [levelBusy, hm]

/-- COMP_CHECK with MODE STATUS needs no idle sequencer (R223). -/
theorem checkBusy_status (hm : q.a0 17 16 = 0) : checkBusy h q a = none := by
  simp [checkBusy, hm]

/-- COMP_CHECK with MODE STATUS answers the status block (R223, R225). -/
theorem compCheckBody_answers_status (hu : q.units = 0) (hm : q.a0 17 16 = 0) : compCheckBody h q a = a.replyStatus h (pktGroup q) := by
  rw [compCheckBody, State.unlessFail_of_none _ _ _ ((lenFail_none q 0).2 hu)]
  exact if_pos hm

/-- COMP_CHECK with MODE SWAP or TIE joins the measurements of the group (R223). -/
theorem compCheckBody_joins (hu : q.units = 0) (hm : q.a0 17 16 ≠ 0) :
    compCheckBody h q a = a.addJob (pktGroup q) (.check { hdr := h, tie := q.a0 17 16 == 2, mask := q.a1 16 0 }) := by
  rw [compCheckBody, State.unlessFail_of_none _ _ _ ((lenFail_none q 0).2 hu)]
  exact if_neg hm

end

/-- Settles O23: each command is `completes_of_body` with the lemma about its body; the measurements end with `State.addJob_eq`. -/
theorem analogCommandsComplete : Obligations.AnalogCommandsComplete := by
  refine ⟨fun c p => ?_, fun c p => ?_, fun c p => ?_, fun c p => ?_, fun c p => ?_, fun c p => ?_, fun c p => ?_, fun c p => ?_, fun c p => ?_,
    fun c p => ?_, fun c p => ?_⟩
  · refine completes_of_body _ c 0x502 _ _ _ ownGrp noFail reflexBody (fun _ => rfl) ?_
    rintro h bs a q ⟨hg, hu⟩
    exact ⟨(ownGrp_none h q a).2 hg, rfl, reflexBody_queries h q a (Pkt.b0_of_row_one p q 15 rfl (by decide)) hu⟩
  · refine completes_of_body _ c 0x505 _ _ _ ownGrp noFail guardSetBody (fun _ => rfl) ?_
    rintro h bs a q ⟨hg, hf⟩
    obtain ⟨hc, hq⟩ := alarmRow_bits p q 0 rfl (by decide)
    exact ⟨(ownGrp_none h q a).2 hg, rfl, guardSetBody_writes h q a hf hq hc⟩
  · refine completes_of_body _ c 0x505 _ _ _ ownGrp noFail guardSetBody (fun _ => rfl) ?_
    rintro h bs a q ⟨hg, hf, hq⟩
    exact ⟨(ownGrp_none h q a).2 hg, rfl, guardSetBody_clears h q a hf hq (Pkt.b0_of_row_one p q 14 rfl (by decide))⟩
  · refine completes_of_body _ c 0x505 _ _ _ ownGrp noFail guardSetBody (fun _ => rfl) ?_
    rintro h bs a q ⟨hg, hf⟩
    have hq : q.b0 15 = true := Pkt.b0_of_row_one p q 15 rfl (by decide)
    exact ⟨(ownGrp_none h q a).2 hg, rfl, (guardSetBody_queries h q a hf hq).trans (replyStatus_answers a h _)⟩
  · refine completes_of_body _ c 0x506 _ _ _ ownGrp ppmuBusy ppmuSetBody (fun _ => rfl) ?_
    rintro h bs a q ⟨hg, hb, hf⟩
    exact ⟨(ownGrp_none h q a).2 hg, hb, State.unlessFail_of_none _ _ _ hf⟩
  · refine completes_of_body _ c 0x507 _ _ _ ownGrp noFail ppmuMeasureBody (fun _ => rfl) ?_
    rintro h bs a q ⟨hg, hu, hm, h1, h2⟩
    exact ⟨(ownGrp_none h q a).2 hg, rfl, (ppmuMeasureBody_joins h q a hu hm h1 h2).trans (a.addJob_eq _ _)⟩
  · refine completes_of_body _ c 0x508 _ _ _ ownGrp levelBusy levelMeasureBody (fun _ => rfl) ?_
    rintro h bs a q ⟨hg, hb, hf⟩
    have hm : q.a0 17 16 = 0 := Pkt.a0_of_row p q 17 16 0 rfl (by decide) (by decide) (by decide)
    refine ⟨(ownGrp_none h q a).2 hg, hb, ?_⟩
    rw [levelMeasureBody_joins h q a hf, State.addJob_eq, hm]
    rfl
  · refine completes_of_body _ c 0x508 _ _ _ ownGrp levelBusy levelMeasureBody (fun _ => rfl) ?_
    rintro h bs a q ⟨hg, hf⟩
    have hm : q.a0 17 16 = 1 := Pkt.a0_of_row p q 17 16 1 rfl (by decide) (by decide) (by decide)
    refine ⟨(ownGrp_none h q a).2 hg, levelBusy_slope h q a hm, ?_⟩
    rw [levelMeasureBody_joins h q a hf, State.addJob_eq, hm]
    rfl
  · refine completes_of_body _ c 0x509 _ _ _ ownGrp checkBusy compCheckBody (fun _ => rfl) ?_
    rintro h bs a q ⟨hg, hu⟩
    have hm : q.a0 17 16 = 0 := Pkt.a0_of_row p q 17 16 0 rfl (by decide) (by decide) (by decide)
    exact ⟨(ownGrp_none h q a).2 hg, checkBusy_status h q a hm, (compCheckBody_answers_status h q a hu hm).trans (replyStatus_answers a h _)⟩
  · refine completes_of_body _ c 0x509 _ _ _ ownGrp checkBusy compCheckBody (fun _ => rfl) ?_
    rintro h bs a q ⟨hg, hb, hu⟩
    have hm : q.a0 17 16 = 1 := Pkt.a0_of_row p q 17 16 1 rfl (by decide) (by decide) (by decide)
    refine ⟨(ownGrp_none h q a).2 hg, hb, ?_⟩
    rw [compCheckBody_joins h q a hu (by rw [hm]; decide), State.addJob_eq, hm]
    rfl
  · refine completes_of_body _ c 0x509 _ _ _ ownGrp checkBusy compCheckBody (fun _ => rfl) ?_
    rintro h bs a q ⟨hg, hb, hu⟩
    have hm : q.a0 17 16 = 2 := Pkt.a0_of_row p q 17 16 2 rfl (by decide) (by decide) (by decide)
    refine ⟨(ownGrp_none h q a).2 hg, hb, ?_⟩
    rw [compCheckBody_joins h q a hu (by rw [hm]; decide), State.addJob_eq, hm]
    rfl

end Sys2Proof.Machine
end

section
/-! O24: drive events, comparator crossings and enables, arm windows and guards act at their pin (R180 to R208). -/

namespace Sys2Proof.Machine

open Sys2Proof

/-- A time has come where its tick has. -/
theorem State.due_iff (s : State) (t : Nat) : s.due t = true ↔ t / 512 ≤ s.tick := decide_eq_true_iff

/-- The next placed event of a pin comes once its tick has (R180). -/
theorem execDriveEvent_due (p : Fin 128) (s : State) (e : DrvEv) (es : List DrvEv) (hq : s.pins[p].driveQ = e :: es) (ht : e.fine / 512 ≤ s.tick) :
    execDriveEvent p s = .next ((s.tellDrive p e).modPin p (fun x => x.takeDrive e es s.tick)) := by
  simp only [execDriveEvent, hq, (s.due_iff _).2 ht, if_true]

/-- A pin without a placed event whose tick has come does nothing (R180). -/
theorem execDriveEvent_early (p : Fin 128) (s : State) (h : ∀ e ∈ s.pins[p].driveQ.head?, s.tick < e.fine / 512) : execDriveEvent p s = .next s := by
  cases hq : s.pins[p].driveQ with
  | nil => simp only [execDriveEvent, hq]
  | cons e es =>
    have ht : ¬ e.fine / 512 ≤ s.tick := Nat.not_le.2 (h e (by rw [hq]; rfl))
    simp only [execDriveEvent, hq, s.due_iff, ht, if_false]

/-- A drive event changes its pin, what the interval units are told of it, and nothing else (R180, R291). -/
theorem State.takeDrive_frame (s : State) (p : Fin 128) (e : DrvEv) (f : Pin → Pin) :
    ∃ w, (s.tellDrive p e).modPin p f = { s with tmus := w, pins := vmod s.pins p f } := by
  obtain ⟨w, hw⟩ := s.tellDrive_frame p e
  exact ⟨w, by rw [hw]; rfl⟩

/-- The crossing as it is recorded: with the vector of the burst in which it falls (R203, R263). -/
def State.crossing (s : State) (p : Fin 128) (voh rising : Bool) (t : Nat) : Cross :=
  { t := t, voh := voh, rising := rising, vec := (s.grps[grpOf p].seq.bind (fun q => s.seqs[q].vecAt t)).map (fun r => r.vec) }

/-- What a crossing does at its pin: it changes its comparator, is recorded and joins the edge pairs (R203, R220). -/
def Pin.takeCross (y : Pin) (x : Cross) (span : Nat) : Pin :=
  let z := if x.voh then { y with voh := y.voh.cross x.rising x.t } else { y with vol := y.vol.cross x.rising x.t }
  ({ z with crosses := x :: z.crosses }).pair x span

/-- A crossing that can occur, in order and due, acts at its pin, comes to the interval units, and meets the reflex units of its
group in turn (R194, R203, R291). -/
theorem execComparatorCrossing_due (p : Fin 128) (voh rising : Bool) (t : Nat) (s : State)
    (hc : (if voh then s.pins[p].voh else s.pins[p].vol).canCross rising t = true) (hl : ∀ c ∈ s.pins[p].crosses.head?, c.t ≤ t) (ht : t / 512 ≤ s.tick) :
    execComparatorCrossing p voh rising t s =
      .next (forFin 16 (fun e u => u.reflexMeet p (pinOf (grpOf p) e) (s.crossing p voh rising t))
        ((s.pinEdges p (fun y => y.takeCross (s.crossing p voh rising t) (s.spanOf p))).feedCross p voh rising t)) := by
  have hlate : (match s.pins[p].crosses with | [] => true | c :: _ => decide (c.t ≤ t)) = true := by
    cases hx : s.pins[p].crosses with
    | nil => rfl
    | cons c cs => exact decide_eq_true (hl c (by rw [hx]; rfl))
  have hx : s.crossing p voh rising t = { t := t, voh := voh, rising := rising, vec := match s.grps[grpOf p].seq with
      | none => none
      | some q => (s.seqs[q].vecAt t).map (fun r => r.vec) } := by
    unfold State.crossing
    cases s.grps[grpOf p].seq <;> rfl
  rw [hx]
  unfold execComparatorCrossing
  exact if_pos (Bool.and_eq_true_iff.2 ⟨Bool.and_eq_true_iff.2 ⟨hc, hlate⟩, (s.due_iff t).2 ht⟩)

/-- A recorded crossing stands before those of its pin, and its comparator is as the crossing leaves it (R203). -/
theorem Pin.takeCross_acts (y : Pin) (x : Cross) (span : Nat) :
    (y.takeCross x span).crosses = x :: y.crosses ∧
      (if x.voh then (y.takeCross x span).voh else (y.takeCross x span).vol) = (if x.voh then y.voh else y.vol).cross x.rising x.t := by
  obtain ⟨h1, h2, h3⟩ := Pin.pair_keeps (let z := if x.voh then { y with voh := y.voh.cross x.rising x.t } else { y with vol := y.vol.cross x.rising x.t }
    { z with crosses := x :: z.crosses }) x span
  unfold Pin.takeCross
  refine ⟨h1.trans ?_, ?_⟩
  · cases x.voh <;> rfl
  · rw [h2, h3]
    cases x.voh <;> rfl

/-- The windows that ARM_WINDOW_CLOSE keeps: those whose close has not come (R193). -/
def State.openWins (s : State) (p : Fin 128) : List (Nat × Option Nat × Bool) :=
  s.pins[p].reflex.wins.filter (fun w => match s.pins[p].winClose w with | none => true | some c => !s.due c)

/-- A window is kept unless its close has come (R193). -/
theorem State.mem_openWins (s : State) (p : Fin 128) (w : Nat × Option Nat × Bool) :
    w ∈ s.openWins p ↔ w ∈ s.pins[p].reflex.wins ∧ ∀ c, s.pins[p].winClose w = some c → s.tick < c / 512 := by
  rw [State.openWins, List.mem_filter]
  cases s.pins[p].winClose w with
  | none => simp only [reduceCtorEq, false_imp_iff, implies_true]
  | some c => simp only [Bool.not_eq_true', ← Bool.not_eq_true, s.due_iff, Nat.not_le, Option.some.injEq, forall_eq']

/-- ARM_WINDOW_CLOSE leaves the windows that are still open (R193). -/
theorem execArmWindowClose_eq (p : Fin 128) (s : State) :
    execArmWindowClose p s = .next (s.modPin p (fun x => { x with reflex := { x.reflex with wins := s.openWins p } })) :=
  congrArg Host.Outcome.next (s.modPin_at p _ _ rfl)

/-- 200 ns after its enable a comparator without a valid output is valid on the side of its input (R204). -/
theorem execComparatorValid_due (p : Fin 128) (voh above : Bool) (s : State) (k : CompS) (hk : k = if voh then s.pins[p].voh else s.pins[p].vol)
    (ho : k.out = .invalid) (hf : k.off = false) (hr : 7 ≤ s.power.stepDone) (ht : (k.enabledAt + 200 * 2048) / 512 ≤ s.tick) :
    execComparatorValid p voh above s = .next (s.modPin p (fun x =>
      let y := { k with out := if above then .high else .low, validAt := max s.metro (k.enabledAt + 200 * 2048) }
      if voh then { x with voh := y } else { x with vol := y })) := by
  have hg : (k.out == .invalid && !k.off && decide (7 ≤ s.power.stepDone) && s.due (k.enabledAt + nsF 200)) = true := by
    have hns : nsF 200 = 200 * 2048 := by decide
    rw [ho, hf, decide_eq_true hr, hns, (s.due_iff _).2 ht]
    rfl
  refine congrArg _ (s.modPin_at p _ _ ?_)
  cases voh with
  | false => subst hk; exact congrArg (fun y => ({ s.pins[p] with vol := y } : Pin)) (if_pos hg)
  | true => subst hk; exact congrArg (fun y => ({ s.pins[p] with voh := y } : Pin)) (if_pos hg)

/-- A guard watches its input while the device is ready, it is enabled and not latched (R207, R210). -/
theorem State.guardLive_of (s : State) (p : Fin 128) (g : Guard) (hr : 7 ≤ s.power.stepDone) (ho : s.pins[p].guardOn g = true)
    (hl : (s.pins[p].guard g).latched = false) : s.guardLive p g = true := by
  rw [State.guardLive, decide_eq_true hr, ho, hl]
  rfl

/-- A guard that trips changes its pin, what is counted at the reserve channel, and nothing else before it is reported (R206, R225). -/
theorem State.trip_frame (s : State) (p : Fin 128) (g : Guard) :
    ∃ w, (s.modPin p (fun x => x.trip g s.tick)).tripCarrier p = { s with pins := vmod s.pins p (fun x => x.trip g s.tick), grps := w } :=
  (s.modPin p (fun x => x.trip g s.tick)).tripCarrier_frame p

/-- Settles O24: each event is what its command does where its time has come, with the lemma about what it does at its pin. -/
theorem pinEventsActAsTheirRulesSay : Obligations.PinEventsActAsTheirRulesSay := by
  refine ⟨?_, execDriveEvent_early, ?_, ?_, ?_, ?_, ?_⟩
  · intro p s e es hq ht
    refine ⟨_, execDriveEvent_due p s e es hq ht, ?_⟩
    obtain ⟨w, hw⟩ := s.takeDrive_frame p e (fun x => x.takeDrive e es s.tick)
    rw [hw]
    refine ⟨?_, fun r hr => vmod_other _ _ _ _ hr, rfl, rfl, rfl, rfl, rfl⟩
    simp only [vmod_self]
    exact s.pins[p].takeDrive_acts e es s.tick
  · intro p voh rising t s hc hl ht
    refine ⟨_, s.crossing p voh rising t, rfl, execComparatorCrossing_due p voh rising t s hc hl ht, ?_⟩
    obtain ⟨w, g, hw, hp, hr⟩ := s.pinEdges_frame p (fun y => y.takeCross (s.crossing p voh rising t) (s.spanOf p))
    obtain ⟨hx, hk⟩ := s.pins[p].takeCross_acts (s.crossing p voh rising t) (s.spanOf p)
    rw [hw]
    refine ⟨(congrArg Pin.crosses hp).trans hx, ?_, hr, rfl, rfl, rfl⟩
    have hout := CompS.cross_out (if voh then s.pins[p].voh else s.pins[p].vol) rising t
    have hw : (if voh then w[p].voh else w[p].vol) = (if voh then s.pins[p].voh else s.pins[p].vol).cross rising t := by
      rw [hp]
      exact hk
    rw [← hw] at hout
    exact hout
  · intro p s
    refine ⟨_, execArmWindowClose_eq p s, ?_, ?_⟩
    · simp only [State.modPin_pins, vmod_self]
    · intro w
      simp only [State.modPin_pins, vmod_self]
      exact s.mem_openWins p w
  · intro p voh above s k ho hf hr ht
    exact execComparatorValid_due p voh above s k rfl ho hf hr ht
  · intro p g s hr ho hl
    refine ⟨_, (s.modPin p (fun x => x.trip g s.tick)).tripCarrier p, if_pos (s.guardLive_of p g hr ho hl), rfl, ?_⟩
    obtain ⟨w, hw⟩ := s.trip_frame p g
    rw [hw]
    refine ⟨?_, fun r hr => vmod_other _ _ _ _ hr, rfl, rfl, rfl⟩
    simp only [vmod_self]
    exact s.pins[p].trip_acts g s.tick
  · intro p g s hr ho hl
    exact if_pos (s.guardLive_of p g hr ho hl)

end Sys2Proof.Machine
end

section
/-! O26: strobes, the fail flag, the FLOG slot, and the commands that read fails (R228 to R255). -/

namespace Sys2Proof.Machine

open Sys2Proof

/-! ### FAIL_READ, FAILMAP_READ, FAILLOG_DRAIN (R240, R245, R251) -/

/-- Data that is not sealed, or asked for by a sealed command, is not refused (R255). -/
theorem sealFail_pass {b r : Bool} (h : b = false ∨ r = true) (st sub : Nat) : failIf (b && !r) st sub = none := by
  rw [failIf_none]
  rcases h with h | h
  · rw [h, Bool.false_and]
  · rw [h, Bool.not_true, Bool.and_false]

/-- FAIL_READ in a right form answers the sixteen fail records of its group (R240). -/
theorem failReadBody_reads (h : Hdr) (q : Pkt) (a : State) (hu : q.units = 0) (hs : a.grpSealed (pktGroup q) = false ∨ h.isS = true) :
    failReadBody h q a = a.reply h 0 0 0 ((List.finRange 16).flatMap (fun e => (a.pins[pinOf (pktGroup q) e].fail).bytes)) := by
  refine (failReadBody.eq_def h q a).trans (State.unlessFail_of_none _ _ _ ?_)
  rw [firstFail_cons, firstFail_cons]
  exact ⟨(lenFail_none q 0).2 hu, sealFail_pass hs _ _, firstFail_nil⟩

/-- FAILMAP_READ of an aligned range in the map answers its entries, and the status where the range is empty (R245); only entries
can be held back as sealed (R255). -/
theorem failmapReadBody_reads (h : Hdr) (q : Pkt) (a : State) (hu : q.units = 0) (h1 : q.arg1.toNat % 64 = 0) (h3 : q.arg3.toNat % 64 = 0)
    (hm : q.arg3.toNat ≤ 8388608) (hl : q.arg1.toNat + q.arg3.toNat ≤ (a.cfg.seqs[pktSeq q]).mapBytes)
    (hs : q.arg3.toNat = 0 ∨ a.fmaps[pktSeq q].sealed = false ∨ h.isS = true) :
    failmapReadBody h q a =
      if q.arg3.toNat = 0 then a.reply h 0 0 0 (a.mapStatus (pktSeq q)) else a.mapRead h (pktSeq q) q.arg1.toNat q.arg3.toNat := by
  have hr : ¬ (q.arg1.toNat % 64 ≠ 0 ∨ q.arg3.toNat % 64 ≠ 0 ∨ 8388608 < q.arg3.toNat ∨ (a.cfg.seqs[pktSeq q]).mapBytes < q.arg1.toNat + q.arg3.toNat) := by omega
  have hb : (decide (q.arg3.toNat ≠ 0) && a.fmaps[pktSeq q].sealed) = false ∨ h.isS = true := by
    rcases hs with h0 | hf | hw
    · exact .inl (by rw [decide_eq_false (not_not.2 h0), Bool.false_and])
    · exact .inl (by rw [hf, Bool.and_false])
    · exact .inr hw
  refine (failmapReadBody.eq_def h q a).trans (State.unlessFail_of_none _ _ _ ?_)
  rw [firstFail_cons, firstFail_cons, firstFail_cons]
  exact ⟨(lenFail_none q 0).2 hu, failIf_pass (decide_eq_false hr) _ _, sealFail_pass hb _ _, firstFail_nil⟩

/-- FAILLOG_DRAIN answers its status where it has nothing to move, and joins the drains of its log otherwise (R251). -/
theorem faillogDrainBody_drains (h : Hdr) (q : Pkt) (a : State) (hu : q.units = 0) :
    faillogDrainBody h q a =
      if q.arg1.toNat = 0 ∨ (a.flogs[pktSeq q].drains = [] ∧ a.flogs[pktSeq q].ring = []) then a.reply h 0 0 0 (a.logStatus (pktSeq q) 0)
      else a.modFlog (pktSeq q) (fun f => { f with drains := f.drains ++ [{ hdr := h, left := q.arg1.toNat }] }) := by
  rw [faillogDrainBody, State.unlessFail_of_none _ _ _ ((lenFail_none q 0).2 hu)]
  simp only [Bool.or_eq_true, Bool.and_eq_true, decide_eq_true_eq, List.isEmpty_iff]

/-! ### The FLOG slot and the strobe (R228, R249) -/

/-- A FLOG slot moves the staged records that the sequencer in turn has ready into its sub-ring (R249). -/
theorem execFlogSlotDrain_moves (s : State) (hf : s.slotFree = true) (hs : s.slot ∈ [4, 20, 36, 52]) (q : Fin 4) (hq : s.flogTurn = some q) :
    execFlogSlotDrain s =
      .next { (s.flogReady q).foldl (fun t r => t.ringRec q r) (s.useSlot.modFlog q (fun f => { f with staging := f.staging.drop (s.flogReady q).length })) with flogNext := q + 1 } := by
  simp only [execFlogSlotDrain, hf, hs, hq, decide_true, Bool.and_self, if_true]

/-- Settles O26: the three commands by `completes_of_body`, and each event by what its command does where it is due. -/
theorem compareAndFailCommandsComplete : Obligations.CompareAndFailCommandsComplete := by
  refine ⟨fun c p => ?_, fun c p => ?_, fun c p => ?_, fun c p => ?_, ?_, fun _ _ => rfl, execFlogSlotDrain_moves, fun _ _ => rfl⟩
  · refine completes_of_body _ c 0x602 _ _ _ ownGrp noFail failReadBody (fun _ => rfl) ?_
    rintro h bs a q ⟨hg, hu, hs⟩
    exact ⟨(ownGrp_none h q a).2 hg, rfl, failReadBody_reads h q a hu hs⟩
  · refine completes_of_body _ c 0x603 _ _ _ ownSeq noFail failmapReadBody (fun _ => rfl) ?_
    rintro h bs a q ⟨hq, hu, h1, h3, hm, h0, hl, hs⟩
    exact ⟨(ownSeq_none h q a).2 hq, rfl, (failmapReadBody_reads h q a hu h1 h3 hm hl (.inr hs)).trans (if_neg h0)⟩
  · refine completes_of_body _ c 0x603 _ _ _ ownSeq noFail failmapReadBody (fun _ => rfl) ?_
    rintro h bs a q ⟨hq, hu, h1, hl⟩
    have h0 : q.arg3.toNat = 0 := rfl
    exact ⟨(ownSeq_none h q a).2 hq, rfl,
      (failmapReadBody_reads h q a hu h1 (by omega) (by omega) (by omega) (.inl h0)).trans (if_pos h0)⟩
  · refine completes_of_body _ c 0x604 _ _ _ ownSeq noFail faillogDrainBody (fun _ => rfl) ?_
    rintro h bs a q ⟨hq, hu⟩
    exact ⟨(ownSeq_none h q a).2 hq, rfl, faillogDrainBody_drains h q a hu⟩
  · intro p s e es hq ht
    have hd : s.due (e.closes + nsF 2) = true := (s.due_iff _).2 ht
    show execStrobe p s = _
    unfold execStrobe
    rw [hq]
    simp only [hd, Bool.not_true, Bool.false_eq_true, if_false]
    cases s.grps[grpOf p].seq with
    | none => rfl
    | some q => rfl

end Sys2Proof.Machine
end

section
/-! O27: the capture engines arm, trigger, capture, step down, drain and disarm (R262 to R282). -/

namespace Sys2Proof.Machine

open Sys2Proof

/-! ### CAP_ARM, CAP_DISARM and CAP_QUERY (R272, R273, R275) -/

/-- The engine is the sender's (R257). -/
theorem engOwns_none (h : Hdr) (q : Pkt) (a : State) : engOwns h q a = none ↔ a.caps[pktEng q].owner = h.who := by
  rw [engOwns, failIf_none, notMine_false]

/-- An engine that is not held may be armed (R272). -/
theorem armBusy_none (h : Hdr) (q : Pkt) (a : State) : armBusy h q a = none ↔ a.caps[pktEng q].held = false := failIf_none _ _ _

/-- The engine of CAP_ARM with its slots and segment, to be armed at the next Bar, and the arm record on its way (R272, R273). -/
def State.capAdmit (a : State) (h : Hdr) (q : Pkt) : State :=
  let i := pktEng q; let k := a.cfg.caps[i]; let tick := (a.tick / 256 + 1) * 256
  let b := a.modCap i (fun e => { owner := e.owner, admitted := true, armOnTap := q.b0 9, hdr := some h, slots := a.placeSlots k.kCap, segHeld := k.seg, kHeld := k.kCap, armTick := tick, endCause := e.endCause, stateTick := e.stateTick, level := k.startLevel, lastStep := tick })
  b.pushEntry h.mb h.ring { hdr := h, more := true, ts := a.nowSI, payload := armRecord i k tick }

/-- CAP_ARM with lanes, pins of the sender, segment space and slots admits the engine for the next Bar and answers the arm record
(R272, R273). -/
theorem capArmBody_admits (h : Hdr) (q : Pkt) (a : State) (hu : q.units = 0) (hl : (a.cfg.caps[pktEng q]).lanes ≠ 0)
    (hq : a.seqs[(a.cfg.caps[pktEng q]).seq].owner = h.who)
    (hp : a.ownsPins (a.cfg.caps[pktEng q]).seq ((a.cfg.caps[pktEng q]).selPins ||| (a.cfg.caps[pktEng q]).care) = true)
    (hs : (a.caps.toList.map (fun e => e.segHeld)).sum + (a.cfg.caps[pktEng q]).seg ≤ a.store.capUnits * 16)
    (hk : (a.cfg.caps[pktEng q]).kCap ≤ min (16 - a.capHeld) a.placeable) :
    capArmBody h q a = a.capAdmit h q := by
  have hown : (notMine a.seqs[(a.cfg.caps[pktEng q]).seq].owner h ||
      !a.ownsPins (a.cfg.caps[pktEng q]).seq ((a.cfg.caps[pktEng q]).selPins ||| (a.cfg.caps[pktEng q]).care)) = false := by
    rw [(notMine_false _ h).2 hq, hp]; rfl
  refine (capArmBody.eq_def h q a).trans ((State.unlessFail_of_none _ _ _ ?_).trans (if_neg (Nat.not_lt.2 hk)))
  rw [firstFail_cons, firstFail_cons, firstFail_cons, firstFail_cons]
  exact ⟨(lenFail_none q 0).2 hu, (failIf_none _ _ _).2 (beq_eq_false_iff_ne.2 hl), (failIf_none _ _ _).2 hown,
    (failIf_none _ _ _).2 (decide_eq_false (Nat.not_lt.2 hs)), firstFail_nil⟩

/-- CAP_DISARM disarms a held engine, and releases a free one where it is asked to (R275). -/
theorem capDisarmBody_disarms (h : Hdr) (q : Pkt) (a : State) (hu : q.units = 0) (hq : q.b0 10 = false) :
    capDisarmBody h q a =
      let i := pktEng q
      if a.caps[i].held then (a.modCap i (fun x => { x with disarms := x.disarms ++ [h], releaseAfter := x.releaseAfter || q.b0 8 })).capDisarm i 0 (q.b0 9)
      else (if q.b0 8 then a.modCap i Cap.released else a).ok h := by
  rw [capDisarmBody, State.unlessFail_of_none _ _ _ ((lenFail_none q 0).2 hu)]
  exact if_neg (Bool.eq_false_iff.1 hq)

/-- CAP_DISARM with QUERY answers the status block (R275). -/
theorem capDisarmBody_queries (h : Hdr) (q : Pkt) (a : State) (hu : q.units = 0) (hq : q.b0 10 = true) :
    capDisarmBody h q a = a.reply h 0 0 0 (a.capBlock (pktEng q)) := by
  rw [capDisarmBody, State.unlessFail_of_none _ _ _ ((lenFail_none q 0).2 hu)]
  exact if_pos hq

/-! ### The first Bar of an engine (R272, R279) -/

/-- The engine is no longer waiting for its first Bar, entered its state at tick `t`, and its state is `x`. -/
def Cap.began (e : Cap) (t : Nat) (x : CapSt) : Prop := e.admitted = false ∧ e.stateTick = t ∧ e.st = x

/-- The same of engine `i` of a device. -/
def State.capBegan (s : State) (i : Fin 8) (t : Nat) (x : CapSt) : Prop := (s.caps[i]).began t x

/-- The state of an engine after a change is that of the changed engine. -/
theorem State.capBegan_modCap {s : State} {i : Fin 8} {t : Nat} {x : CapSt} {f : Cap → Cap} (h : (f s.caps[i]).began t x) :
    (s.modCap i f).capBegan i t x := by
  rw [State.capBegan, State.modCap_caps, vmod_self]
  exact h

/-- The fill that an engine notes leaves its state (R282). -/
theorem Cap.noteFill_began {e : Cap} {t : Nat} {x : CapSt} (h : e.began t x) : (e.noteFill).began t x := by
  unfold Cap.noteFill
  split <;> exact h

/-- An item is dropped, or staged behind what is staged already (R280, R283). -/
theorem State.capPut_cases (s : State) (i : Fin 8) (r : CapRec) (ts : Ts) :
    s.capPut i r ts = s.modCap i (fun x => x.drop r ts) ∨ ∃ l n, s.capPut i r ts = s.modCap i (fun x =>
      ({ x with staging := x.staging ++ l ++ [r], units := x.units + r.units + n, gapRec := 0, gapMark := 0 }).noteFill) := by
  unfold State.capPut
  dsimp only
  split
  · exact .inl rfl
  · exact .inr ⟨_, _, rfl⟩

/-- A staged or dropped item leaves the state of its engine. -/
theorem State.capBegan_capPut {s : State} {i : Fin 8} {t : Nat} {x : CapSt} (r : CapRec) (ts : Ts) (h : s.capBegan i t x) :
    (s.capPut i r ts).capBegan i t x := by
  obtain hd | ⟨l, n, hp⟩ := s.capPut_cases i r ts
  · rw [hd]
    exact State.capBegan_modCap h
  · rw [hp]
    exact State.capBegan_modCap (Cap.noteFill_began h)

/-- An engine READY at a tick; in STREAM it keeps the vectors that it takes (R268, R271). -/
def Cap.toReady (x : Cap) (tick : Nat) (stream : Bool) : Cap :=
  { x with st := .ready, readyTick := tick, taken := if stream then x.taken else x.vecsIn, capVec := none, early := [] }

/-- An engine that becomes READY stages the items that were kept for it (R268, R269). -/
theorem State.capReady_eq (s : State) (i : Fin 8) : s.capReady i =
    s.caps[i].early.foldl (fun t r => t.capPut i r.1 r.2) (s.modCap i (fun x => x.toReady s.tick ((s.cfg.caps[i]).mode == 3))) := rfl

/-- An engine that becomes READY keeps the tick of its state (R275). -/
theorem State.capBegan_capReady {s : State} {i : Fin 8} {t : Nat} {x : CapSt} (h : s.capBegan i t x) : (s.capReady i).capBegan i t .ready := by
  obtain ⟨ha, ht, -⟩ := h
  have hput : ∀ (u : State) (r : CapRec × Ts), u.capBegan i t .ready → (u.capPut i r.1 r.2).capBegan i t .ready :=
    fun _ r => State.capBegan_capPut r.1 r.2
  rw [State.capReady_eq]
  exact foldl_inv (fun u : State => u.capBegan i t .ready) _ hput _ _ (State.capBegan_modCap ⟨ha, ht, rfl⟩)

/-- The engine at its first Bar, which began at `t`, with the first vectors of a running burst behind it: it waits for its tap. -/
def Cap.atBar (x : Cap) (t first : Nat) : Cap :=
  { x with admitted := false, stateTick := t, vecsIn := first, evald := List.range first, taken := first, rawAt := t * 512, st := .waitTap }

/-- Vectors of a burst at the pins that began before the first Bar of an engine (R272). -/
def State.vecsBefore (s : State) (i : Fin 8) : Nat :=
  if s.capRuns i then ((s.seqs[(s.cfg.caps[i]).seq].hist.filter (fun r => decide (r.start < s.caps[i].armTick * 512))).length) else 0

/-- What an engine is at its first Bar, before its mark: READY, or waiting for its tap (R268, R272). -/
def State.begun (s : State) (i : Fin 8) : State :=
  let u := s.modCap i (fun x => x.atBar s.caps[i].armTick (s.vecsBefore i))
  if s.caps[i].armOnTap then u else u.capReady i

/-- At its first Bar an engine begins, with a mark (R272, R279). -/
theorem execCapArmed_begins (i : Fin 8) (s : State) (ha : s.caps[i].admitted = true) (ht : s.caps[i].armTick ≤ s.tick) :
    execCapArmed i s = .next ((s.begun i).putMark i (s.tickTs (s.caps[i].armTick * 512)) 0x19 0
      ((s.seqs[(s.cfg.caps[i]).seq].hist.find? (fun r => decide (r.start ≤ s.caps[i].armTick * 512))).map (fun r => r.vec)) 0 0) :=
  if_pos (Bool.and_eq_true_iff.2 ⟨ha, decide_eq_true ht⟩)

/-- The state of an engine at its first Bar (R268, R272). -/
theorem State.begun_capBegan (s : State) (i : Fin 8) :
    (s.begun i).capBegan i s.caps[i].armTick (if s.caps[i].armOnTap then .waitTap else .ready) := by
  have hw : (s.modCap i (fun x => x.atBar s.caps[i].armTick (s.vecsBefore i))).capBegan i s.caps[i].armTick .waitTap :=
    State.capBegan_modCap ⟨rfl, rfl, rfl⟩
  unfold State.begun
  cases s.caps[i].armOnTap with
  | true => exact hw
  | false => exact State.capBegan_capReady hw

/-! ### Triggers and captures (R262, R267, R268, R270) -/

/-- The trigger pattern of an armed engine is evaluated while its burst is at the pins (R262, R263). -/
theorem State.trigEval_runs (s : State) (i : Fin 8) (ha : s.caps[i].armed = true) (hr : s.capRuns i = true) :
    s.trigEval i =
      let u := (s.capSync (s.cfg.caps[i]).seq).rearmed i
      (List.range (u.evalsDue i)).foldl (fun t _ => if (s.cfg.caps[i]).trigRaw then t.evalRaw (s.cfg.caps[i]).seq i else t.evalResult (s.cfg.caps[i]).seq i) u :=
  if_pos (Bool.and_eq_true_iff.2 ⟨ha, hr⟩)

section
variable (u : State) (q : Fin 4) (i : Fin 8)

section
variable (hp : (u.caps[i]).st = .post)
include hp

/-- A capture whose last post-trigger vector has been taken ends with that vector (R270). -/
theorem State.captureDone_last (hv : (u.caps[i]).postVec < (u.caps[i]).vecsIn) :
    u.captureDone q i = u.capEnd i 0 (some (u.caps[i]).postVec) (u.startTs i ((u.caps[i]).postVec + 1)
      ((((u.seqs[q]).vecRec (u.caps[i]).postVec).map (fun r => r.fin)).getD (u.seqs[q]).nextStart)) := by
  unfold State.captureDone
  simp only [hp, bne_self_eq_false, Bool.false_eq_true, if_false, if_pos hv]

/-- A capture whose burst has ended and been taken ends with it (R270). -/
theorem State.captureDone_burst (hv : ¬ (u.caps[i]).postVec < (u.caps[i]).vecsIn) (hr : (u.seqs[q]).st ≠ .running) (ha : (u.seqs[q]).st ≠ .admitted)
    (ht : (u.seqs[q]).vecs ≤ (u.caps[i]).vecsIn) :
    u.captureDone q i = u.capEnd i 1 (some ((u.seqs[q]).vecs - 1)) (u.tickTs (u.seqs[q]).endFine) := by
  have hend : ((u.seqs[q]).st != .running && (u.seqs[q]).st != .admitted && decide ((u.seqs[q]).vecs ≤ (u.caps[i]).vecsIn)) = true := by
    rw [bne_iff_ne.2 hr, bne_iff_ne.2 ha, decide_eq_true ht]; rfl
  unfold State.captureDone
  simp only [hp, bne_self_eq_false, Bool.false_eq_true, if_false, if_neg hv, hend, if_true]

end

end

/-- A capture in its post-trigger part takes what has come before it is looked at (R258, R270). -/
theorem State.captureEnd_post (s : State) (i : Fin 8) (hp : s.caps[i].st = .post) :
    s.captureEnd i = (s.capSync (s.cfg.caps[i]).seq).captureDone (s.cfg.caps[i]).seq i :=
  congrArg (fun u : State => u.captureDone (s.cfg.caps[i]).seq i) (if_pos hp)

/-- 64 ns after a capture the engine waits for its tap, or is READY (R268). -/
theorem State.rearmed_due (s : State) (i : Fin 8) (hr : s.caps[i].st = .rearm) (ht : s.caps[i].rearmAt ≤ s.tick) :
    s.rearmed i = let u := s.capSync (s.cfg.caps[i]).seq
      if s.caps[i].armOnTap then u.modCap i (fun x => { x with st := .waitTap }) else u.capReady i :=
  if_pos (Bool.and_eq_true_iff.2 ⟨beq_iff_eq.2 hr, decide_eq_true ht⟩)

/-- A SINGLE capture that has been drained disarms its engine (R268). -/
theorem execSingleDrained_disarms (i : Fin 8) (s : State) (hd : s.caps[i].st = .done) (hu : s.caps[i].undrained = false) :
    execSingleDrained i s = .next (s.capDisarm i 2 false) :=
  if_pos ⟨hd, by rw [hu]; rfl⟩

/-! ### The ladder and the slots (R280, R282) -/

/-- Since when both fills of an engine have been under 25 %, as the ladder notes it at a tick (R282). -/
def Cap.quietSince (e : Cap) (tick : Nat) : Option Nat :=
  if decide (4 * e.ringUnits < e.room) && decide (e.stageUnits < 512) then some (e.lowSince.getD tick) else none

/-- At a Bar start whose misses are written, an engine too full steps down, 16 Bars after its last step down at the earliest (R282). -/
theorem execLadderEval_steps_down (i : Fin 8) (s : State) (ha : s.caps[i].armed = true) (hb : s.tick % 256 = 0) (hm : s.caps[i].missedBar = s.tick / 256)
    (hf : decide (3 * s.caps[i].room < 4 * s.caps[i].ringUnits) = true ∨ 1536 < s.caps[i].stageUnits) (hl : s.caps[i].level < 3)
    (hd : ∀ b, s.caps[i].lastDown = some b → b + 16 ≤ s.tick / 256) :
    execLadderEval i s = .next ((s.modCap i (fun x => { x with lowSince := s.caps[i].quietSince s.tick })).ladderStep i
      (if decide (3 * s.caps[i].room < 4 * s.caps[i].ringUnits) then 0 else 1) (s.caps[i].level + 1)) := by
  have hbar : (s.caps[i].armed && s.tick % 256 == 0) = true := by rw [ha, hb]; rfl
  have hfull : (decide (3 * s.caps[i].room < 4 * s.caps[i].ringUnits) || decide (1536 < s.caps[i].stageUnits)) = true :=
    Bool.or_eq_true_iff.2 (hf.imp_right decide_eq_true)
  have hpast : (match s.caps[i].lastDown with | none => true | some b => decide (b + 16 ≤ s.tick / 256)) = true := by
    cases hx : s.caps[i].lastDown with
    | none => rfl
    | some b => exact decide_eq_true (hd b hx)
  unfold execLadderEval
  simp only [hbar, hm, ne_eq, not_true_eq_false, if_true, if_false]
  exact congrArg Host.Outcome.next (if_pos (Bool.and_eq_true_iff.2 ⟨Bool.and_eq_true_iff.2 ⟨hfull, decide_eq_true hl⟩, hpast⟩))

/-- A CAP slot of the engine writes up to 1,024 bytes of its staged items to its segment (R280). -/
theorem execCapSlotWrite_writes (i : Fin 8) (s : State) (hf : s.slotFree = true) (hs : s.slot ∈ s.caps[i].slots) (hn : s.caps[i].staging ≠ []) :
    execCapSlotWrite i s = .next (s.useSlot.modCap i (fun x => (x.writeUnits 32 32).noteFill)) := by
  have hn' : (!s.caps[i].staging.isEmpty) = true := by rw [List.isEmpty_eq_false_iff.2 hn]; rfl
  exact if_pos (Bool.and_eq_true_iff.2 ⟨Bool.and_eq_true_iff.2 ⟨hf, List.contains_iff_mem.2 hs⟩, hn'⟩)

/-- Settles O27: each command is `completes_of_body` with the lemma about its body, and each event what it does where it is due. -/
theorem captureCommandsComplete : Obligations.CaptureCommandsComplete := by
  refine ⟨fun c p => ?_, fun c p => ?_, fun c p => ?_, ?_, ?_, ?_, ?_, ?_, ?_, ?_, execCapSlotWrite_writes⟩
  · refine completes_of_body _ c 0x702 _ _ _ engOwns armBusy capArmBody (fun _ => rfl) ?_
    rintro h bs a q ⟨ho, hh, hu, hl, hq, hp, hs, hk⟩
    exact ⟨(engOwns_none h q a).2 ho, (armBusy_none h q a).2 hh, capArmBody_admits h q a hu hl hq hp hs hk⟩
  · refine completes_of_body _ c 0x703 _ _ _ engOwns noFail capDisarmBody (fun _ => rfl) ?_
    rintro h bs a q ⟨ho, hu⟩
    exact ⟨(engOwns_none h q a).2 ho, rfl, capDisarmBody_disarms h q a hu (Pkt.b0_of_row_zero p q 10 rfl (by decide))⟩
  · refine completes_of_body _ c 0x703 _ _ _ engOwns noFail capDisarmBody (fun _ => rfl) ?_
    rintro h bs a q ⟨ho, hu⟩
    exact ⟨(engOwns_none h q a).2 ho, rfl, capDisarmBody_queries h q a hu (Pkt.b0_of_row_one p q 10 rfl (by decide))⟩
  · intro i s ha ht
    exact ⟨s.begun i, execCapArmed_begins i s ha ht, s.begun_capBegan i⟩
  · intro i s ha hr
    exact congrArg Host.Outcome.next (s.trigEval_runs i ha hr)
  · intro i s u hm hr ht
    exact congrArg Host.Outcome.next (if_pos ⟨hm, hr, ht⟩)
  · intro i s hp u hu
    refine ⟨fun hv => ?_, fun hv hr ha ht => ?_⟩
    · exact congrArg Host.Outcome.next ((s.captureEnd_post i hp).trans (u.captureDone_last _ i hu hv))
    · exact congrArg Host.Outcome.next ((s.captureEnd_post i hp).trans (u.captureDone_burst _ i hu hv hr ha ht))
  · intro i s hr ht
    exact congrArg Host.Outcome.next (s.rearmed_due i hr ht)
  · exact execSingleDrained_disarms
  · intro i s ha hb hm e high hf hl hd
    refine ⟨_, execLadderEval_steps_down i s ha hb hm hf hl hd, ?_, rfl, rfl⟩
    rw [State.modCap_caps, vmod_self]

end Sys2Proof.Machine
end

section
/-! O28: the interval units are configured, armed and disarmed, and run their cycle (R290 to R303). -/

namespace Sys2Proof.Machine

open Sys2Proof

/-! ### TMU_CONFIG, TMU_ARM and TMU_RESULT (R298 to R300, R303) -/

/-- The unit of TMU_ARM and TMU_RESULT is the sender's (R299). -/
theorem tmuArmOwns_none (h : Hdr) (q : Pkt) (a : State) : tmuArmOwns h q a = none ↔ a.tmus[armUnit q].owner = h.who := by
  rw [tmuArmOwns, failIf_none, notMine_false]

/-- An armed unit refuses only to be armed again (R299). -/
theorem tmuArmBusy_none (h : Hdr) (q : Pkt) (a : State) : tmuArmBusy h q a = none ↔ (q.a0 9 8 = 0 → a.tmus[armUnit q].st = .idle) := by
  rw [tmuArmBusy, failIf_none, Bool.and_eq_false_imp, beq_iff_eq, bne_eq_false_iff_eq]

/-- TMU_ARM of a configured unit over pins of the sender, with the lanes that it needs free, starts it (R299). -/
theorem tmuArmBody_starts (h : Hdr) (q : Pkt) (a : State) (hq : q.a0 9 8 = 0) (hu : q.units = 0) (hc : a.tmus[armUnit q].configured = true)
    (hp : a.tmuPins h a.tmus[armUnit q].cfg = none) (hl : a.lanesLack a.tmus[armUnit q].cfg = none) :
    tmuArmBody h q a = a.tmuStart h (armUnit q) := by
  have hf : firstFail [failIf (!a.tmus[armUnit q].configured) 0x030 0x8002, a.tmuPins h a.tmus[armUnit q].cfg] = none := by
    rw [firstFail_cons, firstFail_cons, hc]
    exact ⟨rfl, hp, firstFail_nil⟩
  rw [tmuArmBody, State.unlessFail_of_none _ _ _ ((lenFail_none q 0).2 hu)]
  simp only [hq, hf, hl, if_true]

/-- Unit `u` disarmed on request, with the result counted that falls in the cycle of the request (R300). -/
def State.tmuDisarmed (a : State) (u : Fin 16) : State := (a.latchTie u).tmuOff u 1

/-- 1 of a unit that is not idle, as the response to a disarm says it (R300). -/
theorem b2n_tmu_not_idle (x : Tmu) : b2n (x.st != .idle) = if x.st = .idle then 0 else 1 := by
  cases x.st <;> rfl

/-- TMU_ARM with DISARM or RELEASE disarms the unit, gives it up for RELEASE, and answers whether it ran (R300). -/
theorem tmuArmBody_disarms (h : Hdr) (q : Pkt) (a : State) (hq : q.a0 9 8 ≠ 0) (hu : q.units = 0) :
    tmuArmBody h q a =
      (if q.b0 9 then ((a.tmuDisarmed (armUnit q)).modTmu (armUnit q) Tmu.released).forgetGong (fun src inst => src == 0x1C && inst == (armUnit q).val)
        else a.tmuDisarmed (armUnit q)).reply h 0 0 (if a.tmus[armUnit q].st = .idle then 0 else 1) [] := by
  rw [tmuArmBody, State.unlessFail_of_none _ _ _ ((lenFail_none q 0).2 hu), ← b2n_tmu_not_idle]
  exact if_neg hq

/-- TMU_RESULT answers the statistics and up to 256 of the last results (R303). -/
theorem tmuResultBody_reads (h : Hdr) (q : Pkt) (a : State) (hu : q.units = 0) (hn : q.a1 8 0 ≤ 256) :
    tmuResultBody h q a = a.reply h 0 0 0 (a.tmus[armUnit q].block (armUnit q) ++
      ((a.tmus[armUnit q].recent.take (q.a1 8 0)).reverse.flatMap (fun r => r.bytes (armUnit q)))) := by
  refine State.unlessFail_of_none _ _ _ ?_
  rw [firstFail_cons, firstFail_cons]
  exact ⟨(lenFail_none q 0).2 hu, failIf_pass (decide_eq_false (Nat.not_lt.2 hn)) _ _, firstFail_nil⟩

/-! ### The end of SETTING (R293 to R295) -/

/-- A unit READY 16 ns after it entered SETTING, with fresh codes (R294, R295). -/
def Tmu.readied (x : Tmu) (c1s c2s c1p c2p : Nat) (bad : Bool) : Tmu :=
  { x with st := .ready, enterAt := x.enterAt + nsF 16, c1s := c1s, c2s := c2s, c1p := c1p, c2p := c2p, calBad := bad, timebase := false }

/-- A unit at the end of SETTING: READY, with its first window open where its gate has been active since the arm (R293). -/
def Tmu.settled (x : Tmu) (c1s c2s c1p c2p : Nat) (bad : Bool) : Tmu :=
  if x.gateAtArm then (x.readied c1s c2s c1p c2p bad).winStart (x.enterAt + nsF 16) else x.readied c1s c2s c1p c2p bad

/-- The end of SETTING leaves the configuration and the results of a unit, and opens a window for an active gate alone (R293, R294). -/
theorem Tmu.settled_is_ready (x : Tmu) (c1s c2s c1p c2p : Nat) (bad : Bool) :
    let z := x.settled c1s c2s c1p c2p bad
    z.st = .ready ∧ z.enterAt = x.enterAt + 16 * 2048 ∧ z.c1s = c1s ∧ z.c2s = c2s ∧ z.c1p = c1p ∧ z.c2p = c2p ∧ z.calBad = bad ∧
    z.cfg = x.cfg ∧ z.results = x.results ∧ (x.gateAtArm = false → z.wins = x.wins) ∧
    (x.gateAtArm = true → ∃ w, z.wins = w :: x.wins ∧ w.from_ = x.enterAt + 16 * 2048 ∧ w.used = false ∧ w.ended = false) := by
  unfold Tmu.settled
  cases x.gateAtArm with
  | false => exact ⟨rfl, rfl, rfl, rfl, rfl, rfl, rfl, rfl, rfl, fun _ => rfl, nofun⟩
  | true => exact ⟨rfl, rfl, rfl, rfl, rfl, rfl, rfl, rfl, rfl, nofun, fun _ => ⟨_, rfl, rfl, rfl, rfl⟩⟩

/-- 16 ns after it entered SETTING a unit is READY, and a span off by more than 3 % is reported for its side (R294, R295). -/
theorem execTmuSettingDone_settles (u : Fin 16) (c1s c2s c1p c2p : Nat) (s : State) (hs : s.tmus[u].st = .setting)
    (ht : s.tmus[u].enterAt + 16 * 2048 ≤ s.metro) :
    execTmuSettingDone u c1s c2s c1p c2p s = .next (
      let s1 := s.modTmu u (fun _ => s.tmus[u].settled c1s c2s c1p c2p (s.spanBad u 0 (c2s - c1s) || s.spanBad u 1 (c2p - c1p)))
      let s2 := if s.spanBad u 0 (c2s - c1s) then s1.report 0x1C u.val false s1.nowGHz (c2s - c1s) 0 else s1
      if s.spanBad u 1 (c2p - c1p) then s2.report 0x1C u.val false s2.nowGHz (c2p - c1p) 1 else s2) := by
  have hlate : ¬ s.metro < s.tmus[u].enterAt + nsF 16 := Nat.not_lt.2 ht
  have hdue : ¬ (s.tmus[u].st != .setting || decide (s.metro < s.tmus[u].enterAt + nsF 16)) = true := by
    rw [hs, decide_eq_false hlate]; decide
  exact if_neg hdue

/-! ### What is on its way to a unit (R291, R293) -/

/-- The first thing on its way to an armed unit, once it has come and need not wait, is the next to take effect. -/
theorem State.tmuNext_first {u : Fin 16} {i : TmuIn} {rest : List TmuIn} {s : State} (hq : s.tmus[u].inq = i :: rest)
    (ha : s.tmus[u].st ≠ .idle) (hd : i.due / 512 ≤ s.tick) (hw : s.tmus[u].waits i.t = false) : s.tmuNext u = some i := by
  simp only [State.tmuNext, hq, (s.due_iff _).2 hd, hw, bne_iff_ne.2 ha, Bool.not_false, Bool.and_self, if_true]

section
variable {u : Fin 16} {i : TmuIn} {s : State} (hn : s.tmuNext u = some i)
include hn

/-- An edge or tap that is next opens a window in its tick (R293). -/
theorem execTmuWindowOpen_opens (ho : i.sig = .opens) :
    execTmuWindowOpen u (i.t / 512) s = .next (s.modTmu u (fun x => x.pop.winStart i.t)) := by
  simp only [execTmuWindowOpen, hn, Tmu.winEdge, ho, and_self, if_true]

/-- The end of a window that is next closes it in its tick (R293). -/
theorem execTmuWindowClose_closes (hc : i.sig = .closes) :
    execTmuWindowClose u (i.t / 512) s = .next (s.modTmu u (fun x => x.pop.winEnd i.t)) := by
  simp only [execTmuWindowClose, hn, Tmu.winEdge, hc, and_self, if_true, reduceCtorEq, if_false]

/-- An endpoint event that is next is judged as it counts (R291, R296). -/
theorem execTmuEndpointEvent_judges (code : Nat) (he : i.sig = .start ∨ i.sig = .stop) :
    execTmuEndpointEvent u code s = .next (s.modTmu u (fun x => x.pop.event (i.sig == .stop) (s.tmuTake u i code) none)) := by
  have hr : i.sig.rank = 2 := by rcases he with h | h <;> rw [h] <;> rfl
  simp only [execTmuEndpointEvent, hn, hr, if_true]

end

/-! ### The range and the result (R294, R297, R301) -/

/-- A measurement with no second endpoint after 2^40 ticks is complete (R297). -/
theorem execTmuRangeExpire_expires (u : Fin 16) (s : State) (hm : s.tmus[u].st = .measuring)
    (ht : (laterOf s.tmus[u].start s.tmus[u].stop + 2 ^ 49) / 512 ≤ s.tick) :
    execTmuRangeExpire u s = .next (s.modTmu u (fun y =>
      y.toLatch ((y.win.map (fun w => w.from_)).getD 0) (laterOf s.tmus[u].start s.tmus[u].stop + 2 ^ 49) none)) :=
  if_pos ⟨hm, (s.due_iff _).2 ht⟩

/-- 4 ns after its measurement the result of a unit is formed (R294). -/
theorem execTmuLatch_latches (u : Fin 16) (s : State) (hl : s.tmus[u].st = .latch) (ht : (s.tmus[u].doneAt + 4 * 2048) / 512 ≤ s.tick) :
    execTmuLatch u s = .next (s.tmuLatched u) := by
  have hdue : s.due (s.tmus[u].doneAt + nsF 4) = true := (s.due_iff _).2 ht
  have hgo : ¬ (s.tmus[u].st != .latch || !s.due (s.tmus[u].doneAt + nsF 4)) = true := by rw [hl, hdue]; decide
  exact if_neg hgo

/-- The unit with its result formed, under the flags of the moment (R297, R302). -/
def State.tmuFormed (s : State) (u : Fin 16) : Tmu := (s.tmus[u]).formed (s.tsFlags 0 false false false)

/-- The time of a unit's TMUn_DONE, on its tick (R301). -/
def State.tmuDoneTs (s : State) (u : Fin 16) : Ts := { fine := ((s.tmus[u]).doneAt + 4 * 2048) / 512 * 512, flags := s.tsFlags 0 false false false }

section
variable (s : State) (u : Fin 16)

/-- The N-th result of a unit disarms it and raises its tap, one hop further where a tap completed the measurement (R294, R301). -/
theorem State.tmuLatched_last (hr : (s.tmuFormed u).results = (s.tmuFormed u).cfg.nM1 + 1) :
    (s.tmus[u].byTap = none → s.tmuLatched u = ((s.modTmu u (fun _ => s.tmuFormed u)).tmuOff u 0).raise (0x30 + u.val) (s.tmuDoneTs u) 0 none none) ∧
    (∀ n, s.tmus[u].byTap = some n →
      s.tmuLatched u = ((s.modTmu u (fun _ => s.tmuFormed u)).tmuOff u 0).reRaise (0x30 + u.val) (s.tmuDoneTs u) (n + 1)) := by
  refine ⟨fun hb => (if_pos hr).trans ?_, fun n hb => (if_pos hr).trans ?_⟩ <;> rw [hb] <;> rfl

/-- A result before the N-th starts the next cycle of its unit (R294). -/
theorem State.tmuLatched_next (hr : (s.tmuFormed u).results ≠ (s.tmuFormed u).cfg.nM1 + 1) :
    s.tmuLatched u = s.modTmu u (fun _ => { s.tmuFormed u with
      st := .setting, enterAt := s.tmus[u].doneAt + 4 * 2048, start := none, stop := none, skipped := 0, byTap := none }) :=
  if_neg hr

end

/-- Settles O28: each command is `completes_of_body` with the lemma about its body, and each event what it does where it is due. -/
theorem intervalMeasurementActsAsItsRulesSay : Obligations.IntervalMeasurementActsAsItsRulesSay := by
  refine ⟨fun c p => ?_, fun c p => ?_, fun c p => ?_, fun c p => ?_, fun c p => ?_, ?_, ?_, execTmuRangeExpire_expires, ?_⟩
  · refine completes_of_body _ c 0x801 _ _ _ tmuCfgOwns tmuCfgBusy tmuConfigBody (fun _ => rfl) ?_
    rintro h bs a q ⟨ho, hb, hf⟩
    exact ⟨ho, hb, State.unlessFail_of_none _ _ _ hf⟩
  · refine completes_of_body _ c 0x802 _ _ _ tmuArmOwns tmuArmBusy tmuArmBody (fun _ => rfl) ?_
    rintro h bs a q ⟨ho, hi, hu, hc, hp, hl⟩
    have hq : q.a0 9 8 = 0 := Pkt.a0_of_row p q 9 8 0 rfl (by decide) (by decide) (by decide)
    exact ⟨(tmuArmOwns_none h q a).2 ho, (tmuArmBusy_none h q a).2 fun _ => hi, tmuArmBody_starts h q a hq hu hc hp hl⟩
  · refine completes_of_body _ c 0x802 _ _ _ tmuArmOwns tmuArmBusy tmuArmBody (fun _ => rfl) ?_
    rintro h bs a q ⟨ho, hu⟩
    have hq : q.a0 9 8 = 1 := Pkt.a0_of_row p q 9 8 1 rfl (by decide) (by decide) (by decide)
    have hq0 : q.a0 9 8 ≠ 0 := by rw [hq]; decide
    have h9 : q.b0 9 = false := by rw [Pkt.b0_of_a0 q 9 8 1 (by decide), hq]; rfl
    refine ⟨(tmuArmOwns_none h q a).2 ho, (tmuArmBusy_none h q a).2 fun h0 => absurd h0 hq0, ?_⟩
    rw [tmuArmBody_disarms h q a hq0 hu, h9]
    rfl
  · refine completes_of_body _ c 0x802 _ _ _ tmuArmOwns tmuArmBusy tmuArmBody (fun _ => rfl) ?_
    rintro h bs a q ⟨ho, hu⟩
    have h9 : q.b0 9 = true := Pkt.b0_of_row_one p q 9 rfl (by decide)
    have hq0 : q.a0 9 8 ≠ 0 := fun h0 => by
      rw [Pkt.b0_of_a0 q 9 8 1 (by decide), h0] at h9
      exact absurd h9 (by decide)
    refine ⟨(tmuArmOwns_none h q a).2 ho, (tmuArmBusy_none h q a).2 fun h0 => absurd h0 hq0, ?_⟩
    rw [tmuArmBody_disarms h q a hq0 hu, h9]
    rfl
  · refine completes_of_body _ c 0x803 _ _ _ tmuArmOwns noFail tmuResultBody (fun _ => rfl) ?_
    rintro h bs a q ⟨ho, hu, hn⟩
    exact ⟨(tmuArmOwns_none h q a).2 ho, rfl, tmuResultBody_reads h q a hu hn⟩
  · intro u c1s c2s c1p c2p s hs ht
    exact ⟨_, s.tmus[u].settled_is_ready c1s c2s c1p c2p _, execTmuSettingDone_settles u c1s c2s c1p c2p s hs ht⟩
  · intro u i rest s hq ha hd hw
    have hn : s.tmuNext u = some i := State.tmuNext_first hq ha hd hw
    exact ⟨execTmuWindowOpen_opens hn, execTmuWindowClose_closes hn, execTmuEndpointEvent_judges hn⟩
  · intro u s hl ht
    have hx : execTmuLatch u s = .next (s.tmuLatched u) := execTmuLatch_latches u s hl ht
    refine ⟨rfl, fun hr hb => ?_, fun hr n hb => ?_, fun hr => ?_⟩
    · exact hx.trans (congrArg Host.Outcome.next ((s.tmuLatched_last u hr).1 hb))
    · exact hx.trans (congrArg Host.Outcome.next ((s.tmuLatched_last u hr).2 n hb))
    · exact hx.trans (congrArg Host.Outcome.next (s.tmuLatched_next u hr))

end Sys2Proof.Machine
end

section
/-! O17: TAP_ROUTE and TAP_STATUS (R309 to R313, R326). -/

namespace Sys2Proof.Machine

open Sys2Proof

section
variable (h : Hdr) (q : Pkt) (a : State)

/-- The channel that TAP_ROUTE and TAP_STATUS name. -/
abbrev tapChan (q : Pkt) : Fin 64 := fin 64 (q.a0 5 0)

/-- The channel of the packet as TAP_ROUTE writes it (R312). -/
abbrev State.routed (a : State) (h : Hdr) (q : Pkt) : TapChan := routeOf h q a.taps.chans[tapChan q]

/-- TAP_ROUTE names a channel that is free or the sender's (R309). -/
theorem tapOwns_none : tapOwns h q a = none ↔ a.taps.chans[tapChan q].owner = .none ∨ a.taps.chans[tapChan q].owner = h.who := by
  rw [tapOwns, failIf_none, takenFrom_false]

/-- TAP_STATUS names a channel of the sender (R309). -/
theorem tapReadOwns_none : tapReadOwns h q a = none ↔ a.taps.chans[tapChan q].owner = h.who := by
  rw [tapReadOwns, failIf_none, notMine_false]

/-- TAP_ROUTE is not busy where the channel does not run, nor would run as it is written (R312). -/
theorem tapBusy_none : tapBusy h q a = none ↔
    a.chanRuns a.taps.chans[tapChan q] = false ∧ (q.b0 15 = false → a.chanRuns (a.routed h q) = false) := by
  rw [tapBusy, failIf_none, Bool.or_eq_false_iff, Bool.and_eq_false_imp, Bool.not_eq_true']

/-- The sender asks for a cycle to be allowed (R313, R320). -/
def asksCycle (q : Pkt) : Bool := q.isE && q.a3 0 0 == 1

/-- The sender asks for a cycle where it is an expert that sets CYCLE_OK. -/
theorem asksCycle_iff : asksCycle q = true ↔ q.isE = true ∧ q.a3 0 0 = 1 := by
  rw [asksCycle, Bool.and_eq_true_iff, beq_iff_eq]

/-- A cycle that the written channel would close (R313, R320). -/
def State.routeCycle (a : State) (h : Hdr) (q : Pkt) : Option (Fin 64) :=
  tapCycle (vmod a.taps.chans (tapChan q) (fun _ => a.routed h q)) (tapChan q)

/-- The written channel needs the ring (R313). -/
def TapChan.needsRing (t : TapChan) : Bool := (0x60 ≤ t.prod && t.prod < 0x70) || t.consCodes.any (fun k => (gtOfCons k).isSome)

/-- The first of steps 3 to 7 of R313 that TAP_ROUTE fails, with the trained ring. -/
def State.routeFail (a : State) (h : Hdr) (q : Pkt) : Option Fail :=
  firstFail [lenFail q 8, failIf (!routeForm q (a.routed h q)) 0x030 0x9001, failIf (asksCycle q && !a.ctxs[h.mb].allowCycle) 0x042 0x9007,
    a.routeUse h (a.routed h q), failIf (!a.routeSec (a.routed h q)) 0x041 0x9006, failIf ((a.routed h q).needsRing && !a.ring.trained) 0x071 0]

/-- A route of the accepted form, of blocks that the sender may use, passes steps 3 to 7 of R313 on a trained ring. -/
theorem State.routeFail_none (hu : q.units = 8) (hf : routeForm q (a.routed h q) = true) (hx : asksCycle q = true → a.ctxs[h.mb].allowCycle = true)
    (hm : a.routeUse h (a.routed h q) = none) (hs : a.routeSec (a.routed h q) = true) (hr : a.ring.trained = true) : a.routeFail h q = none := by
  have hask : (asksCycle q && !a.ctxs[h.mb].allowCycle) = false := by
    rw [Bool.and_eq_false_imp]
    exact fun he => by rw [hx he]; rfl
  simp only [State.routeFail, firstFail_cons, firstFail_nil, lenFail_none, failIf_none, hu, hf, hask, hm, hs, hr, Bool.not_true, Bool.and_false, and_self]

/-- TAP_ROUTE that passes those steps puts its route in force where it closes no cycle or is allowed to (R313). -/
theorem State.routeWrite_commits (hp : a.routeFail h q = none) (hc : a.routeCycle h q = none ∨ asksCycle q = true) :
    a.routeWrite h q = a.routeCommit h (tapChan q) (a.routed h q) := by
  have hw : a.routeWrite h q = match a.routeFail h q with
      | some f => a.refuse h f
      | none => match a.routeCycle h q with
        | some m => if asksCycle q then a.routeCommit h (tapChan q) (a.routed h q) else a.reply h 0x030 0x9002 m.val []
        | none => a.routeCommit h (tapChan q) (a.routed h q) := rfl
  rw [hw, hp]
  cases hcyc : a.routeCycle h q with
  | none => rfl
  | some m =>
    have hask : asksCycle q = true := hc.resolve_left (by rw [hcyc]; exact Option.some_ne_none m)
    exact if_pos hask

/-- TAP_ROUTE without RELEASE is the write of the route. -/
theorem tapRouteBody_writes (hb : q.b0 15 = false) : tapRouteBody h q a = a.routeWrite h q := by
  rw [tapRouteBody, hb, if_neg Bool.false_ne_true]

/-- TAP_ROUTE with RELEASE disables the channel and gives it up (R309, R312). -/
theorem tapRouteBody_releases (hb : q.b0 15 = true) (hu : q.units = 8) : tapRouteBody h q a = (a.releaseChan (tapChan q)).ok h := by
  rw [tapRouteBody, if_pos hb, State.unlessFail_of_none _ _ _ ((lenFail_none q 8).2 hu)]

end

/-- Settles O17: each command is `completes_of_body` with the lemmas about its checks and its body. -/
theorem tapCommandsComplete : Obligations.TapCommandsComplete := by
  refine ⟨fun c p => ?_, fun c p => ?_, fun c p => ?_⟩
  · refine completes_of_body _ c 0x901 _ _ _ tapOwns tapBusy tapRouteBody (fun _ => rfl) ?_
    rintro h bs a q ⟨ho, hold, hnew, hu, hf, hx, hm, hs, hr, hc⟩
    rw [← asksCycle_iff] at hx hc
    have hb : q.b0 15 = false := Pkt.b0_of_row_zero p q 15 rfl (by decide)
    have hp : a.routeFail h q = none := a.routeFail_none h q hu hf hx hm hs hr
    exact ⟨(tapOwns_none h q a).2 ho, (tapBusy_none h q a).2 ⟨hold, fun _ => hnew⟩,
      (tapRouteBody_writes h q a hb).trans (a.routeWrite_commits h q hp hc)⟩
  · refine completes_of_body _ c 0x901 _ _ _ tapOwns tapBusy tapRouteBody (fun _ => rfl) ?_
    rintro h bs a q ⟨ho, hold, hu⟩
    have hb : q.b0 15 = true := Pkt.b0_of_row_one p q 15 rfl (by decide)
    exact ⟨(tapOwns_none h q a).2 ho, (tapBusy_none h q a).2 ⟨hold, fun h0 => absurd (hb.symm.trans h0) (by decide)⟩,
      tapRouteBody_releases h q a hb hu⟩
  · refine completes_of_body _ c 0x902 _ _ _ tapReadOwns noFail tapStatusBody (fun _ => rfl) ?_
    rintro h bs a q ⟨ho, hu⟩
    exact ⟨(tapReadOwns_none h q a).2 ho, rfl, State.unlessFail_of_none _ _ _ ((lenFail_none q 0).2 hu)⟩

end Sys2Proof.Machine
end

section
/-! O18: the way of a tap through the hub to its consumers, and the event pins (R305, R314 to R318, R323, R324). -/

namespace Sys2Proof.Machine

open Sys2Proof

/-! ### The hub (R305, R314, R315) -/

/-- The oldest raise that has come to the hub enters it (R305). -/
theorem execTapRaise_enters {s : State} {r : Raise} (hr : s.taps.raises.find? (fun r => decide (s.hubTime r ≤ s.metro)) = some r) :
    execTapRaise s = .next (s.enterHub r) := by
  rw [execTapRaise, hr]

/-- A tap of the channel whose two cycles in the hub have passed leaves it with those of its cycle (R314, R315). -/
theorem execTapHubRoute_leaves {ch : Fin 64} {s : State} {t0 : Tap} (ht : s.enterAll.hubDue (fun t => t.chan == ch) = some t0) :
    execTapHubRoute ch s = .next (s.enterAll.leaveHub t0) := by
  simp only [execTapHubRoute, ht]

/-! ### A consumer input (R308, R316 to R318) -/

section
variable (s : State) (i : Fin 161) (t0 : Tap)

/-- The tap has become usable at the input (R314). -/
def State.usableAt (t : Tap) : Bool := (t.consumers.any (fun e => e.1 == i.val)) && decide (t.usable ≤ s.metro)

/-- The tap became usable at the input in the island cycle of `t0`, and at a TAPW input through the same channel (R316). -/
def State.actsWith (t : Tap) : Bool :=
  s.usableAt i t && s.cycleOf (inPeriod i.val) t.usable == s.cycleOf (inPeriod i.val) t0.usable && (decide (0x0C ≤ i.val) || t.chan == t0.chan)

/-- The taps that the input takes with `t0`; the GONG input takes each by itself (R316). -/
def State.inGroup : List Tap := if i.val = 0xA0 then [t0] else s.taps.deliver.filter (s.actsWith i t0)

/-- Those of them for which the block of the input is active (R308). -/
def State.liveGroup : List Tap := (s.inGroup i t0).filter (fun t => !s.inactive i.val t.chan)

/-- The input has taken the taps of `t0`, and counted those for which its block is inactive (R308). -/
def State.groupTaken : State :=
  (s.modTaps (fun m => { m with deliver := if i.val = 0xA0 then s.taps.deliver.erase t0 else s.taps.deliver.filter (fun t => !s.actsWith i t0 t) })).modIn i
    (fun x => { x with idle := sat 32 (x.idle + ((s.inGroup i t0).length - (s.liveGroup i t0).length)) })

/-- The input counts one activation of the taps, and how many acted as one (R316, R326). -/
def TapIn.activated (x : TapIn) (n : Nat) : TapIn :=
  { x with acts := sat 32 (x.acts + 1), coalesced := x.coalesced || decide (1 < n), coalesce := if 1 < n then sat 32 (x.coalesce + n) else x.coalesce }

/-- The live taps that an input took activate it as one, or overrun it where it is busy (R316 to R318). -/
def State.answerTaps (u : State) : List Tap → State
  | [] => u
  | t1 :: ts =>
    if s.inBusy i.val t1.chan t1.usable then (t1 :: ts).foldl (fun v t => v.overrun i.val t) u
    else (u.modIn i (fun x => x.activated (t1 :: ts).length)).activate
      (((mergedTap t1 ts).consumers.find? (fun e => e.1 == i.val)).getD (i.val, false, 8)) (mergedTap t1 ts)

end

/-- How the answer to the live taps of an input falls out, case by case (R316 to R318). -/
theorem State.next_answerTaps (s u : State) (i : Fin 161) (l : List Tap) :
    (.next (s.answerTaps i u l) : Out) = match l with
      | [] => .next u
      | t1 :: ts =>
        if s.inBusy i.val t1.chan t1.usable then .next (l.foldl (fun v t => v.overrun i.val t) u)
        else .next ((u.modIn i (fun x => x.activated l.length)).activate
          (((mergedTap t1 ts).consumers.find? (fun e => e.1 == i.val)).getD (i.val, false, 8)) (mergedTap t1 ts)) := by
  cases l with
  | nil => rfl
  | cons t1 ts => exact apply_ite _ _ _ _

/-- TAP_ACTIVATION takes the group of the first tap usable at its input, and the live taps of it act (R308, R316). -/
theorem execTapActivation_takes (i : Fin 161) (s0 : State) (t0 : Tap) (ht : s0.moveTaps.taps.deliver.find? (s0.moveTaps.usableAt i) = some t0) :
    execTapActivation i s0 =
      .next (s0.moveTaps.answerTaps i (s0.moveTaps.groupTaken i t0) (s0.moveTaps.liveGroup i t0)) := by
  have hfind : s0.moveTaps.taps.deliver.find? (fun t => (t.consumers.any (fun e => e.1 == i.val)) && decide (t.usable ≤ s0.moveTaps.metro)) = some t0 := ht
  rw [State.next_answerTaps]
  simp only [execTapActivation, hfind, State.groupTaken, State.liveGroup, State.inGroup]
  by_cases hk : i.val = 0xA0
  · simp only [hk, if_true]
    rfl
  · simp only [hk, if_false]
    rfl

section
variable (s u : State) (i : Fin 161) {l ts : List Tap} {t1 : Tap} (hl : l = t1 :: ts)
include hl

/-- Taps that come to a busy input overrun it, each counted (R317, R318). -/
theorem State.answerTaps_busy (hb : s.inBusy i.val t1.chan t1.usable = true) :
    s.answerTaps i u l = l.foldl (fun v t => v.overrun i.val t) u := by
  subst hl
  exact if_pos hb

/-- Taps that come to a free input activate it as one, with the earliest origin (R316). -/
theorem State.answerTaps_free (hb : s.inBusy i.val t1.chan t1.usable = false) :
    s.answerTaps i u l = (u.modIn i (fun x => x.activated l.length)).activate
      (((mergedTap t1 ts).consumers.find? (fun e => e.1 == i.val)).getD (i.val, false, 8)) (mergedTap t1 ts) := by
  subst hl
  exact if_neg (by rw [hb]; exact Bool.false_ne_true)

end

/-- Two changes of an input that agree on it as it is are one. -/
theorem State.modIn_at (s : State) (i : Fin 161) (f g : TapIn → TapIn) (h : f s.taps.ins[i] = g s.taps.ins[i]) : s.modIn i f = s.modIn i g := by
  unfold State.modIn vmod
  rw [h]

/-- Two changes of a TAP_IO pin that agree on it as it is are one. -/
theorem State.modIo_at (s : State) (n : Fin 8) (f g : EvPin → EvPin) (h : f s.taps.ios[n] = g s.taps.ios[n]) : s.modIo n f = s.modIo n g := by
  unfold State.modIo vmod
  rw [h]

/-- The busy time of an input ends where it has passed (R318). -/
theorem execConsumerBusyEnd_ends (i : Fin 161) (s : State) (t : Nat) (hb : s.taps.ins[i].busyTo = some t) (ht : t ≤ s.metro) :
    execConsumerBusyEnd i s = .next (s.modIn i (fun x => { x with busyTo := none })) := by
  refine congrArg Host.Outcome.next (s.modIn_at i _ _ ?_)
  simp only [hb, ht, if_true]

/-! ### Event pins (R323, R324) -/

/-- The raises of a producer at its pin that are not yet 2 ticks old at tick `t`: their levels have not held (R323). -/
def shortRaise (prod t : Nat) (r : Raise) : Bool := r.prod == prod && decide (t * 512 < r.ts.fine + 1024)

/-- A timestamp taken in the clock unit is that of the Metronome and the ring (R153). -/
theorem State.nowTick_congr {s t : State} (hm : s.metro = t.metro) (hr : s.ring = t.ring) : s.nowTick = t.nowTick := by
  simp only [State.nowTick, State.tick, State.tsFlags, hm, hr]

/-- A ready device raises the edge of an event pin sampled in state `s` 2 ticks later, or takes back the edge of a level that did not hold (R323). -/
theorem State.pinRaise_ready {s u : State} (prod : Nat) (level : Bool) (hm : u.metro = s.metro) (hg : u.ring = s.ring) (hp : u.power = s.power)
    (hr : 7 ≤ s.power.stepDone) :
    u.pinRaise prod level = u.modTaps (fun m => { m with
      raises := if m.raises.any (shortRaise prod s.tick) then m.raises.filter (fun r => !shortRaise prod s.tick r)
        else m.raises ++ [{ prod := prod, ts := s.nowTick, fine := (s.tick + 2) * 512, edge := some level }] }) := by
  have ht : s.tick = u.tick := by rw [State.tick, State.tick, hm]
  rw [ht, ← State.nowTick_congr hm hg, State.pinRaise, hp, if_neg (Nat.not_lt.2 hr)]
  by_cases hs : u.taps.raises.any (shortRaise prod u.tick) = true
  · exact (if_pos hs).trans (congrArg (fun l => u.modTaps (fun m => { m with raises := l })) (if_pos hs).symm)
  · exact (if_neg hs).trans (congrArg (fun l => u.modTaps (fun m => { m with raises := l })) (if_neg hs).symm)

/-- The state with a new level at a GATE input, which the interval units see at once (R293). -/
def State.gateSampled (s : State) (n : Fin 4) (level : Bool) : State :=
  ({ s with tmus := vmap s.tmus (fun _ x => x.gateEdge n level s.tick) } : State).modTaps (fun m => { m with gates := vmod m.gates n (fun e => { e with level := level }) })

/-- The state with a new level at a TAP_IO input (R323). -/
def State.ioSampled (s : State) (n : Fin 8) (level : Bool) : State := s.modIo n (fun e => { e with level := level })

/-- A new level at a GATE input leaves the Metronome, the ring and the power state. -/
theorem State.gateSampled_frame (s : State) (n : Fin 4) (level : Bool) :
    (s.gateSampled n level).metro = s.metro ∧ (s.gateSampled n level).ring = s.ring ∧ (s.gateSampled n level).power = s.power := by
  simp only [State.gateSampled, State.modTaps_metro, State.modTaps_ring, State.modTaps_power, and_self]

/-- A new level at a TAP_IO input leaves the Metronome, the ring and the power state. -/
theorem State.ioSampled_frame (s : State) (n : Fin 8) (level : Bool) :
    (s.ioSampled n level).metro = s.metro ∧ (s.ioSampled n level).ring = s.ring ∧ (s.ioSampled n level).power = s.power :=
  ⟨s.modIo_metro n _, s.modIo_ring n _, s.modIo_power n _⟩

/-- A new level of a GATE input is sampled and its edge raised (R293, R323). -/
theorem execEventPinEdge_gate (n : Fin 4) (level : Bool) (s : State) (hl : s.taps.gates[n].level ≠ level) :
    execEventPinEdge (.gate n) level s = .next ((s.gateSampled n level).pinRaise (0x48 + n.val) level) :=
  if_neg (by rw [beq_iff_eq]; exact hl)

/-- A new level of a TAP_IO input is sampled and its edge raised (R323). -/
theorem execEventPinEdge_io (n : Fin 8) (level : Bool) (s : State) (hl : s.taps.ios[n].level ≠ level) (ho : s.taps.ios[n].isOut = false) :
    execEventPinEdge (.io n) level s = .next ((s.ioSampled n level).pinRaise (0x50 + n.val) level) :=
  if_neg (by rw [ho, Bool.or_false, beq_iff_eq]; exact hl)

/-- An output pulse that has run its length ends low (R324). -/
theorem execTapIoPulseEnd_ends (n : Fin 8) (s : State) (t : Nat) (hp : s.taps.ios[n].pulseTo = some t) (ht : t ≤ s.tick) :
    execTapIoPulseEnd n s = .next (s.modIo n (fun e => { e with out := false, pulseTo := none })) := by
  refine congrArg Host.Outcome.next (s.modIo_at n _ _ ?_)
  simp only [hp, ht, if_true]

/-- A released output pin returns to input (R324). -/
theorem execTapIoReturnInput_returns (n : Fin 8) (s : State) (t : Nat) (hr : s.taps.ios[n].releaseBy = some t) :
    execTapIoReturnInput n s =
      .next (s.modIo n (fun e => { e with isOut := false, driving := false, out := false, pulseTo := none, releaseBy := none })) := by
  refine congrArg Host.Outcome.next (s.modIo_at n _ _ ?_)
  simp only [hr]

/-- Settles O18: one lemma for each event of the matrix. -/
theorem tapEventsFollowTheMatrix : Obligations.TapEventsFollowTheMatrix := by
  refine ⟨fun s r hr => execTapRaise_enters hr, ?_, ?_, execConsumerBusyEnd_ends, ?_, ?_, execTapIoPulseEnd_ends, execTapIoReturnInput_returns⟩
  · rintro ch s u t0 rfl ht
    exact execTapHubRoute_leaves ht
  · rintro i s0 s t0 rfl ht same l live u
    have hx := execTapActivation_takes i s0 t0 ht
    refine ⟨fun hl => ?_, fun t1 ts hl hb => ?_, fun t1 ts hl hb => ?_⟩
    · exact hx.trans (congrArg (fun l => Host.Outcome.next (s0.moveTaps.answerTaps i (s0.moveTaps.groupTaken i t0) l)) hl)
    · exact hx.trans (congrArg Host.Outcome.next (State.answerTaps_busy _ _ i hl hb))
    · exact hx.trans (congrArg Host.Outcome.next (State.answerTaps_free _ _ i hl hb))
  · intro n level s hl hr
    obtain ⟨hm, hg, hp⟩ := s.gateSampled_frame n level
    exact (execEventPinEdge_gate n level s hl).trans (congrArg Host.Outcome.next (State.pinRaise_ready (0x48 + n.val) level hm hg hp hr))
  · intro n level s hl ho hr
    obtain ⟨hm, hg, hp⟩ := s.ioSampled_frame n level
    exact (execEventPinEdge_io n level s hl ho).trans (congrArg Host.Outcome.next (State.pinRaise_ready (0x50 + n.val) level hm hg hp hr))

end Sys2Proof.Machine
end

section
/-! O44, O45: the check bits of a byte and the judgement of a stored codeword, bit by bit (R339, R340). -/

namespace Sys2Proof.Machine

open Sys2Proof

/-- A bit of a codeword is a binary digit of its number. -/
theorem b2n_getLsbD (c : Codeword) (i : Nat) : b2n (c.getLsbD i) = c.toNat / 2 ^ i % 2 := by
  rw [BitVec.getLsbD, Nat.testBit_eq_decide_div_mod_eq]
  rcases Nat.mod_two_eq_zero_or_one (c.toNat / 2 ^ i) with h | h <;> rw [h] <;> rfl

/-- The digit 0 is a clear bit. -/
theorem b2n_eq_zero (x : Bool) : b2n x = 0 ↔ x = false := by cases x <;> decide

/-- The stored C0 to C3 as a number, C0 as bit 0 (R339). -/
theorem storedChecks_eq_bits (c : Codeword) : c.toNat / 256 % 16 =
    b2n (c.getLsbD 8) + 2 * b2n (c.getLsbD 9) + 4 * b2n (c.getLsbD 10) + 8 * b2n (c.getLsbD 11) := by
  simp only [b2n_getLsbD]
  omega

/-- The syndrome compares each stored check bit with the recomputed one (R340). -/
theorem syndrome_eq_bits (c : Codeword) : syndrome c =
    b2n (c.getLsbD 8 ^^ (c.getLsbD 0 ^^ c.getLsbD 1 ^^ c.getLsbD 3 ^^ c.getLsbD 4 ^^ c.getLsbD 6)) +
    2 * b2n (c.getLsbD 9 ^^ (c.getLsbD 0 ^^ c.getLsbD 2 ^^ c.getLsbD 3 ^^ c.getLsbD 5 ^^ c.getLsbD 6)) +
    4 * b2n (c.getLsbD 10 ^^ (c.getLsbD 1 ^^ c.getLsbD 2 ^^ c.getLsbD 3 ^^ c.getLsbD 7)) +
    8 * b2n (c.getLsbD 11 ^^ (c.getLsbD 4 ^^ c.getLsbD 5 ^^ c.getLsbD 6 ^^ c.getLsbD 7)) := by
  rw [nibble_xor, ← storedChecks_eq_bits]
  simp only [syndrome, checks4, xorBits, List.foldl_cons, List.foldl_nil, Bool.false_xor]

/-- The parity of a codeword is over all its bits (R340). -/
theorem parity13_eq_bits (c : Codeword) : parity13 c =
    (c.getLsbD 0 ^^ c.getLsbD 1 ^^ c.getLsbD 2 ^^ c.getLsbD 3 ^^ c.getLsbD 4 ^^ c.getLsbD 5 ^^ c.getLsbD 6 ^^ c.getLsbD 7 ^^
      c.getLsbD 8 ^^ c.getLsbD 9 ^^ c.getLsbD 10 ^^ c.getLsbD 11 ^^ c.getLsbD 12) := by
  have hr : List.range 13 = [0, 1, 2, 3, 4, 5, 6, 7, 8, 9, 10, 11, 12] := rfl
  simp only [parity13, hr, xorBits, List.foldl_cons, List.foldl_nil, Bool.false_xor]

/-- The syndrome has four bits. -/
theorem syndrome_lt (c : Codeword) : syndrome c < 16 := by
  have hn : ∀ a b c d : Bool, b2n a + 2 * b2n b + 4 * b2n c + 8 * b2n d < 16 := by decide
  rw [syndrome_eq_bits]
  exact hn _ _ _ _

/-- Settles O45: judged by parity and syndrome, one row of the table for each of their values. -/
theorem eccJudgesEveryCodeword : Obligations.EccJudgesEveryCodeword := by
  intro c g S P
  have hS : syndrome c = S := syndrome_eq_bits c
  have hP : parity13 c = P := parity13_eq_bits c
  have hlt : S < 16 := hS ▸ syndrome_lt c
  rw [judge, hS, hP]
  clear_value S P
  cases P <;> interval_cases S <;> rfl

/-- A fresh codeword holds its byte in bits 7:0 (R339). -/
theorem eccEnc_data_bits (b : Byte) (i : Nat) (hi : i < 8) : (eccEnc b).getLsbD i = b.getLsbD i := by
  have h := congrArg (fun x : Byte => x.getLsbD i) (ecc_data b)
  simpa [eccData, hi] using h

/-- The check bits of a fresh codeword are those that leave syndrome 0 and even parity (R339). -/
theorem eccEnc_check_bits (b : Byte) :
    let c := eccEnc b; let d := fun i : Nat => c.getLsbD i
    c.getLsbD 8 = (d 0 ^^ d 1 ^^ d 3 ^^ d 4 ^^ d 6) ∧
    c.getLsbD 9 = (d 0 ^^ d 2 ^^ d 3 ^^ d 5 ^^ d 6) ∧
    c.getLsbD 10 = (d 1 ^^ d 2 ^^ d 3 ^^ d 7) ∧
    c.getLsbD 11 = (d 4 ^^ d 5 ^^ d 6 ^^ d 7) ∧
    c.getLsbD 12 = (d 0 ^^ d 1 ^^ d 2 ^^ d 3 ^^ d 4 ^^ d 5 ^^ d 6 ^^ d 7 ^^ d 8 ^^ d 9 ^^ d 10 ^^ d 11) := by
  obtain ⟨hs, hp⟩ := ecc_fresh b
  rw [syndrome_eq_bits] at hs
  simp only [Nat.add_eq_zero_iff, Nat.mul_eq_zero, OfNat.ofNat_ne_zero, false_or, b2n_eq_zero, bne_eq_false_iff_eq] at hs
  obtain ⟨⟨⟨h0, h1⟩, h2⟩, h3⟩ := hs
  rw [parity13_eq_bits, bne_eq_false_iff_eq] at hp
  exact ⟨h0, h1, h2, h3, hp.symm⟩

/-- After a plain write the codeword of the byte is fresh and every other one as it was (R339, R342). -/
theorem State.plainByte_code (s : State) (mem : Nat) (q : Fin 4) (a x : Nat) (b : Byte) (hs : s.memWf) :
    ((s.plainByte mem q a b).cmem mem q).code x = if x = a then eccEnc b else (s.cmem mem q).code x := by
  rw [State.plainByte, State.cmem_putCmem]
  split
  · subst x
    exact CMem.code_setCode_self _ _ _ (s.cmem_wf mem q hs)
  · exact CMem.code_setCode_other _ _ _ _ ‹_›

/-- Settles O44: the bits of a fresh codeword, and that a plain write stores one. -/
theorem eccCheckBitsOfEveryByte : Obligations.EccCheckBitsOfEveryByte := by
  refine ⟨fun b => ⟨eccEnc_data_bits b, ?_⟩, rfl, fun s mem q a x b _ hs => s.plainByte_code mem q a x b hs⟩
  have h := eccEnc_check_bits b
  simpa (disch := decide) only [eccEnc_data_bits] using h

end Sys2Proof.Machine
end

section
/-! O46, O54: the memories at reset, and a byte of an SRAM with none, one or two of its stored bits flipped (R339 to R345). -/

namespace Sys2Proof.Machine

open Sys2Proof

/-- Settles O54: nothing is listed in any memory at reset. -/
theorem resetMemoriesAreCanonical : Obligations.ResetMemoriesAreCanonical := reset_memWf

section
variable {s : State} {mem : Nat} {q : Fin 4} {a : Nat}

/-- A read of a byte without an error counts nothing (R341). -/
theorem State.meet_good (h : judge ((s.cmem mem q).code a) = .good) : s.meet mem q a = s := by
  unfold State.meet
  rw [h]

/-- A read of a correctable byte counts one CE and rewrites nothing (R341). -/
theorem State.meet_corr {x : Codeword} (h : judge ((s.cmem mem q).code a) = .corr x) : s.meet mem q a = s.countCe (fin 9 mem) a := by
  unfold State.meet
  rw [h]

/-- A read of an uncorrectable byte counts one UE and reports SRAM_UE (R341, R342). -/
theorem State.meet_bad (h : judge ((s.cmem mem q).code a) = .bad) : s.meet mem q a = s.countUe (fin 9 mem) a := by
  unfold State.meet
  rw [h]

/-- A memory-side change modifies the corrected byte of a correctable codeword (R335, R342). -/
theorem State.aliasByte_corr {x : Codeword} (f : Byte → Byte) (h : judge ((s.cmem mem q).code a) = .corr x) :
    s.aliasByte mem q a f = (s.countCe (fin 9 mem) a).plainByte mem q a (f (eccData x)) := by
  unfold State.aliasByte
  simp only [h]

/-- A memory-side change counts an uncorrectable codeword and leaves it alone (R335, R342). -/
theorem State.aliasByte_bad (f : Byte → Byte) (h : judge ((s.cmem mem q).code a) = .bad) :
    s.aliasByte mem q a f = s.countUe (fin 9 mem) a := by
  unfold State.aliasByte
  simp only [h]

end

/-- State `s` with the stored codeword of one byte replaced, as bits that flip leave it (R340). -/
def State.stored (s : State) (mem : Nat) (q : Fin 4) (a : Nat) (c : Codeword) : State :=
  s.putCmem mem q ((s.cmem mem q).setCode a c)

section
variable (s : State) (mem : Nat) (q : Fin 4) (a : Nat) (hs : s.memWf)
include hs

/-- A replaced codeword leaves every memory canonical. -/
theorem State.stored_memWf (c : Codeword) : (s.stored mem q a c).memWf :=
  .putCmem hs (CMem.setCode_wf _ a c (s.cmem_wf mem q hs))

/-- A replaced codeword is the stored one. -/
theorem State.stored_code (c : Codeword) : ((s.stored mem q a c).cmem mem q).code a = c := by
  rw [State.stored, State.cmem_putCmem]
  exact CMem.code_setCode_self _ a c (s.cmem_wf mem q hs)

end

/-- Settles O46: in each of the three states the codeword of the byte is the stored one, and its judgement says what an access does. -/
theorem sramSurvivesOneFlippedBit : Obligations.SramSurvivesOneFlippedBit := by
  intro s mem q a b i j f hs hij t hit one two
  have ht : t.memWf := .plainByte hs
  have hfresh : (t.cmem mem q).code a = eccEnc b := (s.plainByte_code mem q a a b hs).trans (if_pos rfl)
  have hone : judge ((one.cmem mem q).code a) = .corr (eccEnc b) := (congrArg judge (t.stored_code mem q a ht _)).trans (ecc_one b i)
  have htwo : judge ((two.cmem mem q).code a) = .bad := (congrArg judge (t.stored_code mem q a ht _)).trans (ecc_two b i j hij)
  have hgood : judge ((t.cmem mem q).code a) = .good := (congrArg judge hfresh).trans (ecc_good b)
  have hwf : (one.countCe (fin 9 mem) a).memWf := .countCe (t.stored_memWf mem q a ht _)
  refine ⟨hfresh, ?_, State.meet_good hgood, ?_, State.meet_corr hone, ?_, ?_, two.badBytes_one mem q a htwo, State.meet_bad htwo,
    State.aliasByte_bad f htwo, ?_⟩
  · rw [State.sramBytes_one, readData_good _ hgood, hfresh, ecc_data]
  · rw [State.sramBytes_one, readData_corr _ _ hone, ecc_data]
  · rw [State.meet_corr hone, State.countCe_cmem]
  · rw [State.aliasByte_corr f hone, ecc_data, State.plainByte_code _ _ _ _ _ _ hwf, if_pos rfl]
  · rw [State.aliasByte_bad f htwo, State.countUe_cmem]

end Sys2Proof.Machine
end

section
/-! O29: SCRATCH_ACCESS, ECC_DIAG and BRUSH_STATUS (R328 to R331, R343, R348). -/

namespace Sys2Proof.Machine

open Sys2Proof

/-! ### SCRATCH_ACCESS (R328 to R331) -/

section
variable (h : Hdr) (q : Pkt) (a : State)

/-- A range is in reach of SECURE within the scratchpad, and of a context within its window (R328, R330). -/
theorem scratchIn_iff (x n : Nat) : scratchIn h x n = true ↔ (h.context = 15 → x + n ≤ 2 ^ 22) ∧
    (h.context ≠ 15 → 0x200000 + h.mb.val * 0x40000 ≤ x ∧ x + n ≤ 0x200000 + h.mb.val * 0x40000 + 0x40000) := by
  unfold scratchIn
  by_cases hc : h.context = 15 <;> simp [hc]

/-- The sender may access its range where the range is in reach, and is only read in the firmware region (R330). -/
theorem scratchOwns_none : scratchOwns h q a = none ↔
    scratchIn h (scratchAddr q) (scratchSize q) = true ∧ (q.a0 1 0 = 0 ∨ 0x200000 ≤ scratchAddr q) := by
  simp only [scratchOwns, firstFail_cons, firstFail_nil, failIf_none, and_true, Bool.not_eq_false', Bool.and_eq_false_iff,
    bne_eq_false_iff_eq, decide_eq_false_iff_not, Nat.not_lt]

/-- A range that SECURE holds above the firmware region, or a context in its window, may be written (R330). -/
theorem scratchOwns_writes (hx : h.context = 15 → scratchAddr q + scratchSize q ≤ 2 ^ 22 ∧ 0x200000 ≤ scratchAddr q)
    (hw : h.context ≠ 15 → 0x200000 + h.mb.val * 0x40000 ≤ scratchAddr q ∧ scratchAddr q + scratchSize q ≤ 0x200000 + h.mb.val * 0x40000 + 0x40000) :
    scratchOwns h q a = none := by
  refine (scratchOwns_none h q a).2 ⟨(scratchIn_iff h _ _).2 ⟨fun hc => (hx hc).1, hw⟩, .inr ?_⟩
  by_cases hc : h.context = 15
  · exact (hx hc).2
  · exact Nat.le_trans (Nat.le_add_right _ _) (hw hc).1

section
variable (h1 : 1 ≤ scratchSize q) (hm : scratchSize q ≤ 262144) (hb : q.isE = false → scratchAddr q % 64 = 0 ∧ scratchSize q % 64 = 0)
include h1 hm hb

/-- The form of SCRATCH_ACCESS is right: expert for SET and CLR, aligned unless expert, and with the payload that its OP takes (R331). -/
theorem scratchForm_right (he : 2 ≤ q.a0 1 0 → q.isE = true) (hu : q.units = if q.a0 1 0 = 0 then 0 else (scratchSize q + 7) / 8) :
    ¬ (scratchSize q = 0 ∨ 262144 < scratchSize q ∨ (2 ≤ q.a0 1 0 ∧ !q.isE) ∨
      (!q.isE ∧ (scratchAddr q % 64 ≠ 0 ∨ scratchSize q % 64 ≠ 0)) ∨ q.units ≠ (if q.a0 1 0 = 0 then 0 else (scratchSize q + 7) / 8)) := by
  rintro (h0 | h0 | ⟨h0, hx⟩ | ⟨hx, h0⟩ | h0)
  · omega
  · omega
  · rw [he h0] at hx
    exact absurd hx (by decide)
  · obtain ⟨hx1, hx2⟩ := hb (Bool.not_eq_true' _ ▸ hx)
    omega
  · exact h0 hu

/-- READ answers the bytes as decoded, and counts the errors that it meets (R331, R341). -/
theorem scratchBody_reads (hop : q.a0 1 0 = 0) (hu : q.units = 0) : scratchBody h q a =
    let bad := a.badBytes 0 0 (scratchAddr q) (scratchSize q)
    (a.meetRange 0 0 (scratchAddr q) (scratchSize q)).reply h
      (if bad = [] then (if 16000 < a.scratchWait (scratchAddr q) (scratchSize q) then 0x002 else 0) else 0x060) 0
      (if bad = [] then 0 else ueDetail (scratchAddr q) bad) (a.sramBytes 0 0 (scratchAddr q) (scratchSize q)) := by
  have hf := scratchForm_right q h1 hm hb (by omega) (by rw [hu, if_pos hop])
  refine (scratchBody.eq_def h q a).trans ((State.unlessFail_of_none _ _ _ (failIf_pass (decide_eq_false hf) _ _)).trans ((if_pos hop).trans ?_))
  simp only [State.scratchStatus, List.isEmpty_iff]

/-- WRITE replaces the bytes (R331). -/
theorem scratchBody_writes (hop : q.a0 1 0 = 1) (hu : q.units = (scratchSize q + 7) / 8) :
    scratchBody h q a = (a.plainBytes 0 0 (scratchAddr q) (q.body.take (scratchSize q))).ok h := by
  have h0 : q.a0 1 0 ≠ 0 := by omega
  have hf := scratchForm_right q h1 hm hb (by omega) (by rw [hu, if_neg h0])
  refine (scratchBody.eq_def h q a).trans ((State.unlessFail_of_none _ _ _ (failIf_pass (decide_eq_false hf) _ _)).trans ?_)
  exact (if_neg h0).trans (if_pos hop)

/-- SET and CLR modify the bytes that decode, and answer MEM_UE with the first uncorrectable address if there is one (R331, R342). -/
theorem scratchBody_modifies (f : Byte → Byte → Byte) (hop : 2 ≤ q.a0 1 0) (he : q.isE = true) (hu : q.units = (scratchSize q + 7) / 8)
    (hg : ∀ d b, (if q.a0 1 0 = 2 then b ||| d else b &&& ~~~d) = f d b) : scratchBody h q a =
    let u := ((q.body.take (scratchSize q)).zipIdx).foldl (fun t (x : Byte × Nat) => t.aliasByte 0 0 (scratchAddr q + x.2) (f x.1)) a
    let bad := a.badBytes 0 0 (scratchAddr q) (scratchSize q)
    if bad = [] then u.ok h else u.reply h 0x060 0 (min bad.length (2 ^ 16 - 1)) (le 8 (bad.headD 0)) := by
  have h0 : q.a0 1 0 ≠ 0 := by omega
  have hw : q.a0 1 0 ≠ 1 := by omega
  have hf := scratchForm_right q h1 hm hb (fun _ => he) (by rw [hu, if_neg h0])
  refine (scratchBody.eq_def h q a).trans ((State.unlessFail_of_none _ _ _ (failIf_pass (decide_eq_false hf) _ _)).trans ?_)
  refine (if_neg h0).trans ((if_neg hw).trans ?_)
  simp only [hg]
  cases a.badBytes 0 0 (scratchAddr q) (scratchSize q) <;> rfl

end

/-! ### ECC_DIAG (R343) -/

/-- READ_RAW answers the stored codewords (R343). -/
theorem diagBody_reads (hf : a.diagForm q = true) (hop : q.a0 1 0 = 0) : diagBody h q a =
    a.reply h 0 0 0 ((List.range (q.a2 8 0)).flatMap (fun i => le 2 ((a.cmem (diagMem q) (diagSeq q)).code (q.arg1.toNat + i)).toNat)) :=
  (diagBody.eq_def h q a).trans ((State.unlessFail_of_none _ _ _ (failIf_pass (by rw [hf]; rfl) _ _)).trans (if_pos hop))

/-- WRITE_RAW and FLIP store a codeword from each old one and its pattern, in the Exchange Bank through port B (R333, R343). -/
theorem diagBody_stores (f : Codeword → Codeword → Codeword) (hf : a.diagForm q = true) (hop : q.a0 1 0 ≠ 0)
    (hg : ∀ k e, (if q.a0 1 0 = 1 then e else k ^^^ e) = f k e) : diagBody h q a =
    let upd (t : State) : State := t.putCmem (diagMem q) (diagSeq q) ((List.range (q.a2 8 0)).foldl (fun k i =>
      k.setCode (q.arg1.toNat + i) (f (k.code (q.arg1.toNat + i)) (BitVec.ofNat 13 (rd q.body (2 * i) 2)))) (t.cmem (diagMem q) (diagSeq q)))
    (if diagMem q = 1 then a.portBUnit (q.arg1.toNat / 4) upd else upd a).ok h := by
  refine (diagBody.eq_def h q a).trans ((State.unlessFail_of_none _ _ _ (failIf_pass (by rw [hf]; rfl) _ _)).trans ((if_neg hop).trans ?_))
  simp only [hg]

/-! ### BRUSH_STATUS (R348) -/

/-- BRUSH_STATUS answers the nine entries, and with CLEAR from SECURE clears the counters (R348). -/
theorem brushStatusBody_answers (hu : q.units = 0) (hc : q.b0 0 = false ∨ h.context = 15) : brushStatusBody h q a =
    (if q.b0 0 then { a with brush := vmap a.brush (fun _ b => b.cleared) } else a).reply h 0 0 0
      ((List.finRange 9).flatMap (fun m => (a.brush[m]).entry m.val a.tick)) := by
  have hs : (q.b0 0 && h.context != 15) = false := by
    rw [Bool.and_eq_false_iff, bne_eq_false_iff_eq]
    exact hc
  refine State.unlessFail_of_none _ _ _ ?_
  rw [firstFail_cons, firstFail_cons]
  exact ⟨(lenFail_none q 0).2 hu, failIf_pass hs _ _, firstFail_nil⟩

end

/-- Settles O29: each command is `completes_of_body` with the lemma about its body. -/
theorem sramCommandsComplete : Obligations.SramCommandsComplete := by
  refine ⟨fun c p => ?_, fun c p => ?_, fun c p => ?_, fun c p => ?_, fun c p => ?_, fun c p => ?_, fun c p => ?_, fun c p => ?_⟩
  · refine completes_of_body _ c 0xA01 _ _ _ scratchOwns noFail scratchBody (fun _ => rfl) ?_
    rintro h bs a q ⟨hx, hw, h1, hm, hb, hu⟩
    have hop : q.a0 1 0 = 0 := Pkt.a0_of_row p q 1 0 0 rfl (by decide) (by decide) (by decide)
    exact ⟨(scratchOwns_none h q a).2 ⟨(scratchIn_iff h _ _).2 ⟨hx, hw⟩, .inl hop⟩, rfl, scratchBody_reads h q a h1 hm hb hop hu⟩
  · refine completes_of_body _ c 0xA01 _ _ _ scratchOwns noFail scratchBody (fun _ => rfl) ?_
    rintro h bs a q ⟨hx, hw, h1, hm, hb, hu⟩
    have hop : q.a0 1 0 = 1 := Pkt.a0_of_row p q 1 0 1 rfl (by decide) (by decide) (by decide)
    exact ⟨scratchOwns_writes h q a hx hw, rfl, scratchBody_writes h q a h1 hm hb hop hu⟩
  · refine completes_of_body _ c 0xA01 _ _ _ scratchOwns noFail scratchBody (fun _ => rfl) ?_
    rintro h bs a q ⟨hx, hw, h1, hm, hb, he, hu⟩
    have hop : q.a0 1 0 = 2 := Pkt.a0_of_row p q 1 0 2 rfl (by decide) (by decide) (by decide)
    exact ⟨scratchOwns_writes h q a hx hw, rfl,
      scratchBody_modifies h q a h1 hm hb (fun d b => b ||| d) (by omega) he hu fun _ _ => if_pos hop⟩
  · refine completes_of_body _ c 0xA01 _ _ _ scratchOwns noFail scratchBody (fun _ => rfl) ?_
    rintro h bs a q ⟨hx, hw, h1, hm, hb, he, hu⟩
    have hop : q.a0 1 0 = 3 := Pkt.a0_of_row p q 1 0 3 rfl (by decide) (by decide) (by decide)
    exact ⟨scratchOwns_writes h q a hx hw, rfl,
      scratchBody_modifies h q a h1 hm hb (fun d b => b &&& ~~~d) (by omega) he hu fun _ _ => if_neg (by omega)⟩
  · refine completes_of_body _ c 0xA02 _ _ _ diagOwns diagBusy diagBody (fun _ => rfl) ?_
    rintro h bs a q ⟨ho, hb, hf⟩
    have hop : q.a0 1 0 = 0 := Pkt.a0_of_row p q 1 0 0 rfl (by decide) (by decide) (by decide)
    exact ⟨ho, hb, diagBody_reads h q a hf hop⟩
  · refine completes_of_body _ c 0xA02 _ _ _ diagOwns diagBusy diagBody (fun _ => rfl) ?_
    rintro h bs a q ⟨ho, hb, hf⟩
    have hop : q.a0 1 0 = 1 := Pkt.a0_of_row p q 1 0 1 rfl (by decide) (by decide) (by decide)
    exact ⟨ho, hb, diagBody_stores h q a (fun _ e => e) hf (by omega) fun _ _ => if_pos hop⟩
  · refine completes_of_body _ c 0xA02 _ _ _ diagOwns diagBusy diagBody (fun _ => rfl) ?_
    rintro h bs a q ⟨ho, hb, hf⟩
    have hop : q.a0 1 0 = 2 := Pkt.a0_of_row p q 1 0 2 rfl (by decide) (by decide) (by decide)
    exact ⟨ho, hb, diagBody_stores h q a (fun k e => k ^^^ e) hf (by omega) fun _ _ => if_neg (by omega)⟩
  · refine completes_of_body _ c 0xA03 _ _ _ noFail noFail brushStatusBody (fun _ => rfl) ?_
    rintro h bs a q ⟨hu, hc⟩
    exact ⟨rfl, rfl, brushStatusBody_answers h q a hu hc⟩

end Sys2Proof.Machine
end

section
/-! O1, O3: a step on a queue runs its front command, and no word spells one. -/

namespace Sys2Proof.Machine

open Sys2Proof

/-- With a command waiting, a step executes it on the state with the queue's rest. -/
theorem step_of_pending_cons (s : State) (c : Instr) (cs : List Instr) (h : s.pending = c :: cs) :
    step s = exec c { s with pending := cs } := by
  simp only [step, h]

/-- Settles O1: the step on a queue that is not empty. -/
theorem queueFrontIsExecuted : Obligations.QueueFrontIsExecuted := fun c cs s h => step_of_pending_cons s c cs h

/-- Settles O3: the decoder has no row to match (log 134), and with no command decoded nothing is placed. -/
theorem noWordSpellsACommand : Obligations.NoWordSpellsACommand := by
  intro n w s
  have hn : decodeTableWord n w = none := rfl
  exact ⟨hn, by rw [State.withFetchWord, hn]⟩

end Sys2Proof.Machine
end

section
/-! O39, O58: supplies and sensors, the reset of an overheated device, subsystem resets, the sideband and HEALTH_READ (R387, R442
to R457). -/

namespace Sys2Proof.Machine

open Sys2Proof

/-! ### Sensors (R454, R455) -/

/-- Supplies and temperatures are judged: powered, not held, and start-up step 2 is done (log 124). -/
def Power.judges (p : Power) : Bool := p.vin && !p.held && decide (2 ≤ p.stepDone)

/-- A powered device past step 2 that is not held judges its supplies and temperatures. -/
theorem Power.judges_of (p : Power) (hv : p.vin = true) (hh : p.held = false) (h2 : 2 ≤ p.stepDone) : p.judges = true := by
  rw [Power.judges, hv, hh, decide_eq_true h2]
  rfl

/-- What a sensor is after it was read: its temperature, and where they are judged its two conditions. -/
def Sensor.sampled (x : Sensor) (up : Bool) (temp : Int) : Sensor :=
  { temp := temp, high := if up then hyster x.high temp 1600 1520 else x.high, crit := if up then hyster x.crit temp 1760 1680 else x.crit }

/-- The state after a sensor was read, before what the reading brings about. -/
def State.sampled (s : State) (n : Fin 16) (temp : Int) : State :=
  s.modPower (fun p => { p with sensors := vmod p.sensors n (fun _ => (s.power.sensors[n]).sampled s.power.judges temp) })

/-- The sensor that was read. -/
theorem State.sampled_sensor (s : State) (n : Fin 16) (temp : Int) :
    (s.sampled n temp).power.sensors[n] = (s.power.sensors[n]).sampled s.power.judges temp := vmod_self _ _ _

/-- The reset that holds an overheated device (R455). -/
def State.overheated (s : State) : State := s.hardReset false s.ring.master (s.power.fromOff true true 4 s.power.resets)

/-- The reports of a sensor's conditions that changed with a reading, TEMP_CRIT first. -/
def State.sensorReports (s : State) (n : Fin 16) (temp : Int) : State :=
  let x := s.power.sensors[n]
  let y := (s.sampled n temp).power.sensors[n]
  ((s.sampled n temp).reportChange 0x06 n.val x.crit y.crit temp).reportChange 0x07 n.val x.high y.high temp

/-- At 125 °C or more a powered device that is not held is reset and held. -/
theorem execTempSample_overheats (n : Fin 16) (temp : Int) (s : State) (ht : 2000 ≤ temp) (hv : s.power.vin = true) (hh : s.power.held = false) :
    execTempSample n temp s = .next (s.sampled n temp).overheated := by
  refine congrArg Host.Outcome.next ((if_pos ⟨ht, hv⟩).trans (if_neg ?_))
  rw [hh]
  exact Bool.false_ne_true

/-- Below 125 °C changed conditions are reported, and the band of a pin die is found anew. -/
theorem execTempSample_reports (n : Fin 16) (temp : Int) (s : State) (ht : temp < 2000) (hj : s.power.judges = true) :
    execTempSample n temp s = .next (if 4 ≤ n.val ∧ n.val < 12 then (s.sensorReports n temp).bandOf (fin 4 ((n.val - 4) / 2)) else s.sensorReports n temp) := by
  have hc : ¬ (2000 ≤ temp ∧ s.power.vin = true) := fun h => absurd h.1 (by omega)
  have hy := s.sampled_sensor n temp
  refine congrArg Host.Outcome.next ((if_neg hc).trans ?_)
  simp only [State.sensorReports, hy]
  exact if_congr (and_iff_right hj) rfl rfl

/-- A device in reset: nothing of the state before it but what survives, with the power state given. -/
theorem State.hardReset_power (s : State) (pin m : Bool) (pw : Power) : (s.hardReset pin m pw).power = pw := rfl

/-- A power-on reset keeps the temperatures. -/
theorem Power.fromOff_temp (p : Power) (vin held : Bool) (cause resets : Nat) (n : Fin 16) :
    ((p.fromOff vin held cause resets).sensors[n]).temp = (p.sensors[n]).temp := by
  have hs : (p.fromOff vin held cause resets).sensors = vmap p.sensors (fun _ x => { temp := x.temp }) := rfl
  rw [hs, vmap_get]

/-- A power-on reset stops every regulator. -/
theorem Power.fromOff_rail (p : Power) (vin held : Bool) (cause resets : Nat) (r : Fin 11) :
    (p.fromOff vin held cause resets).rails[r] = {} := Vector.getElem_replicate r.isLt

/-- A reset closes every context. -/
theorem State.hardReset_ctx (s : State) (pin m : Bool) (pw : Power) (c : Fin 8) : (s.hardReset pin m pw).ctxs[c] = {} := Vector.getElem_replicate c.isLt

/-- A device that is held for a cause is let go. -/
theorem State.letGo_held (s : State) (cause : Nat) (m : Bool) (hh : s.power.held = true) (hc : s.power.cause = cause) :
    s.letGo cause m = (s.modPower (fun p => { p with held := false })).modBeat (fun b => { b with master := m }) := by
  rw [State.letGo, if_pos]
  rw [hh, hc, beq_self_eq_true]
  rfl

/-- Cooled down: both sensors on the standby path read below 85 °C. -/
theorem Power.cooled_iff (p : Power) : p.cooled = true ↔ (p.sensors[(14 : Fin 16)]).temp < 1360 ∧ (p.sensors[(15 : Fin 16)]).temp < 1360 := by
  rw [Power.cooled, Bool.and_eq_true_iff, decide_eq_true_iff, decide_eq_true_iff]

/-- A device that has cooled down is let go. -/
theorem execThermalRestart_cooled (m : Bool) (s : State) (hc : s.power.cooled = true) : execThermalRestart m s = .next (s.letGo 4 m) :=
  congrArg _ (if_pos hc)

/-- A device that has not cooled down stays held. -/
theorem execThermalRestart_hot (m : Bool) (s : State) (hc : ¬ s.power.cooled = true) : execThermalRestart m s = .next s :=
  congrArg _ (if_neg hc)

/-- Settles O58: the reading gives `State.overheated`, a power-on reset that is held; `State.letGo` ends it once the device has cooled. -/
theorem overheatingResetsTheDevice : Obligations.OverheatingResetsTheDevice := by
  constructor
  · intro n temp s ht hv hh
    refine ⟨_, execTempSample_overheats n temp s ht hv hh, rfl, rfl, rfl, rfl, ?_, rfl, rfl, ?_, ?_⟩
    · intro r
      rw [State.overheated, State.hardReset_power, Power.fromOff_rail]
    · intro c
      rw [State.overheated, State.hardReset_ctx]
    · rw [State.overheated, State.hardReset_power, Power.fromOff_temp, State.sampled_sensor]
      rfl
  · intro m s hh h4
    constructor
    · intro h14 h15
      refine ⟨_, execThermalRestart_cooled m s ((Power.cooled_iff _).2 ⟨h14, h15⟩), ?_⟩
      rw [State.letGo_held s 4 m hh h4]
      exact ⟨rfl, rfl⟩
    · intro h
      refine execThermalRestart_hot m s (mt (Power.cooled_iff _).1 ?_)
      omega

/-! ### Clocks and supplies (R442, R445) -/

/-- A REFCLK that returns after its loss was reported ends the condition (R374, R445). -/
theorem execRefclkReturn_ends (s : State) (h0 : s.power.refclkOk = false) (hr : s.refclkReported = true) : execRefclkReturn s =
    .next ((s.modPower (fun p => { p with refclkOk := true, locked := p.vin && !p.held && decide (2 ≤ p.stepDone) })).report 0x03 0 true s.nowSI 0 0) := by
  refine congrArg Host.Outcome.next (if_pos ?_)
  rw [h0, hr]
  rfl

/-- A judged rail whose tolerance state changes is reported, with its voltage (R442, log 138). -/
theorem execSupplyCondition_reports (rail : Fin 11) (out : Bool) (mv : Int) (s : State) (hj : s.power.judges = true)
    (hc : (s.power.rails[rail]).out ≠ out) : execSupplyCondition rail out mv s =
      .next ((s.modPower (fun p => { p with rails := vmod p.rails rail (fun x => { x with mv := some mv, out := out }) })).report 0x08 rail.val (!out) s.nowSI (enc 32 mv) 0) := by
  have hup : (s.power.vin && !s.power.held && decide (2 ≤ s.power.stepDone)) = true := hj
  have hne : ((s.power.rails[rail]).out != out) = true := bne_iff_ne.2 hc
  simp only [execSupplyCondition, hup, hne, Bool.and_self, if_true]

/-! ### Subsystem resets, HEALTH_READ and the sideband (R387, R456, R457) -/

/-- The oldest subsystem reset that is due acts on its target and is recorded (R387). -/
theorem execSubsysReset_acts (s : State) (r : Nat × Nat × Nat) (hr : s.gong.resets.find? (fun r => decide (r.2.2 ≤ s.tick)) = some r) :
    execSubsysReset s = .next (((s.modGong (fun g => { g with resets := g.resets.erase r })).resetTarget r.1 r.2.1).report 0x0B r.1 false s.nowSI 0 0) := by
  simp only [execSubsysReset, hr]

/-- A read of a code that is there returns its bytes (R457). -/
theorem execSmbusRead_returns (code : Byte) (s : State) (bs : List Byte) (hv : s.power.vin = true) (hd : s.smbData code.toNat = some bs) :
    execSmbusRead code s = .next (({ s with free := s.free + 3 } : State).modPower (fun p => { p with smbOut := bs, smbNack := false })) := by
  simp only [execSmbusRead, hv, hd, if_true]

/-- A read without VIN, or of a code that is not there, is answered with NACK (R457). -/
theorem execSmbusRead_nacks (code : Byte) (s : State) (h : s.power.vin = false ∨ s.smbData code.toNat = none) :
    execSmbusRead code s = .next (s.modPower (fun p => { p with smbOut := [], smbNack := true })) := by
  have hn : (if s.power.vin then s.smbData code.toNat else none) = none := by
    rcases h with h | h
    · rw [h, if_neg Bool.false_ne_true]
    · rw [h, ite_self]
  simp only [execSmbusRead, hn]

/-- Settles O39: each event by what its command does where its condition has changed, HEALTH_READ by `completes_of_body`. -/
theorem suppliesTemperatureAndSidebandActAsTheirRulesSay : Obligations.SuppliesTemperatureAndSidebandActAsTheirRulesSay := by
  refine ⟨execRefclkReturn_ends, ?_, ?_, execSubsysReset_acts, ?_, fun c p => ?_⟩
  · intro rail out mv s hv hh h2 hc
    exact execSupplyCondition_reports rail out mv s (s.power.judges_of hv hh h2) hc
  · intro n temp s hv hh h2
    have hj := s.power.judges_of hv hh h2
    refine ⟨fun ht => ⟨s.sampled n temp, execTempSample_overheats n temp s ht hv hh, rfl, rfl⟩, fun ht => ?_⟩
    refine ⟨s.sampled n temp, s.sensorReports n temp, execTempSample_reports n temp s ht hj, ?_, ?_, ?_, rfl⟩
    · rw [State.sampled_sensor]
      rfl
    · rw [State.sampled_sensor, hj]
      rfl
    · rw [State.sampled_sensor, hj]
      rfl
  · intro code s
    exact ⟨fun bs hv hd => execSmbusRead_returns code s bs hv hd, execSmbusRead_nacks code s, fun _ => rfl⟩
  · refine completes_of_body _ c 0xE01 _ _ _ noFail noFail healthBody (fun _ => rfl) ?_
    intro h bs a q hu
    exact ⟨rfl, rfl, State.unlessFail_of_none _ _ _ ((lenFail_none q 0).2 hu)⟩

end Sys2Proof.Machine
end

section
/-! O38: power, start-up, resets and clock losses (R439 to R451). -/

namespace Sys2Proof.Machine

open Sys2Proof

/-! ### The steps of start-up (R448) -/

/-- Start-up runs while the device is powered, neither held nor stopped, not through, and locked from step 3 on (log 129). -/
theorem Power.booting_of (p : Power) (hv : p.vin = true) (hh : p.held = false) (hf : p.failed = false) (h7 : p.stepDone < 7)
    (hl : 2 ≤ p.stepDone → p.locked = true) : p.booting = true := by
  have hk : (decide (p.stepDone < 2) || p.locked) = true := by
    rcases Nat.lt_or_ge p.stepDone 2 with h | h
    · rw [decide_eq_true h, Bool.true_or]
    · rw [hl h, Bool.or_true]
  rw [Power.booting, hv, hh, hf, decide_eq_true h7, hk]
  rfl

/-- While start-up waits for step 2, it runs. -/
theorem Power.booting_step2 (p : Power) (hv : p.vin = true) (hh : p.held = false) (hf : p.failed = false) (h1 : p.stepDone = 1) : p.booting = true :=
  p.booting_of hv hh hf (by omega) (fun h => by omega)

section
variable (r : StepResult) (s : State)

/-- The step in progress ends while start-up runs. -/
theorem execStartupStepDone_ends (hb : s.power.booting = true) : execStartupStepDone r s = .next (s.endStep r) := congrArg _ (if_pos hb)

/-- Step 1 ends: the boot flash lines are driven (R452). -/
theorem State.endStep_one (h : s.power.stepDone = 0) : s.endStep r = (s.stepTo 1).modPower (fun p => { p with flashHiz := false }) := by
  simp only [State.endStep, h]

/-- Step 2 ends with every rail in tolerance and REFCLK valid (R441, R445). -/
theorem State.endStep_two (h : s.power.stepDone = 1) (hc : s.power.refclkOk = true) (hr : r.fail ≠ 1) : s.endStep r = s.endStep2 := by
  simp only [State.endStep, h, hc, hr, if_false, if_true]

/-- Step 3 stops start-up with code 3 where no image is valid (R422). -/
theorem State.endStep_three_stops (h : s.power.stepDone = 2) (hr : r.fail ≠ 4) (hi : s.sec.bootPick = none) :
    s.endStep r = (s.bootStop 3).modPower (fun p => { p with flashHiz := true }) := by
  simp only [State.endStep, State.endStep3, h, hi, hr, false_and, if_false]

/-- Step 5 ends: every memory reads zero and is released (R344). -/
theorem State.endStep_five (h : s.power.stepDone = 4) (hr : r.fail ≠ 6) :
    (s.endStep r).brush = vmap s.brush (fun _ b => { b with initDone := true, lapTick := s.tick, lastOpp := s.tick }) := by
  simp only [State.endStep, State.endStep5, h, hr, if_false]
  rfl

/-- Step 6 ends with the tables of Tuning restored (R354). -/
theorem State.endStep_six (h : s.power.stepDone = 5) : s.endStep r = s.restoreTables.stepTo 6 := by
  simp only [State.endStep, h]

end

/-- A rail that does not reach its tolerance in step 2 stops start-up and every rail (R442). -/
theorem execRailTimeout_stops (rail : Fin 11) (s : State) (hb : s.power.booting = true) (h1 : s.power.stepDone = 1) : execRailTimeout rail s =
    .next ((s.bootStop 1).modPower (fun p => { p with rails := vmap p.rails (fun i x => { x with enabled := false, out := x.out || i == rail }) })) := by
  refine congrArg Host.Outcome.next (if_pos ?_)
  rw [hb, h1]
  rfl

/-- A REFCLK that is missing in step 2 is noted (R445). -/
theorem execRefclkWaitTimeout_notes (s : State) (hb : s.power.booting = true) (h1 : s.power.stepDone = 1) (hc : s.power.refclkOk = false) :
    execRefclkWaitTimeout s = .next (s.modPower (fun p => { p with bootFail := 2 })) := by
  refine congrArg Host.Outcome.next (if_pos ?_)
  rw [hb, h1, hc]
  rfl

/-! ### Resets (R442, R446) -/

/-- VIN on begins start-up (R439). -/
theorem execPowerOn_begins (m : Bool) (s : State) (hv : s.power.vin = false) :
    execPowerOn m s = .next (s.hardReset false m (s.power.fromOff true false (if s.power.cause = 2 then 2 else 0) 0)) :=
  congrArg _ (if_neg (by rw [hv]; exact Bool.false_ne_true))

/-- VIN below its limit resets a powered device (R442). -/
theorem execBrownOut_resets (s : State) (hv : s.power.vin = true) :
    execBrownOut s = .next (s.hardReset false s.ring.master (s.power.fromOff false false 2 0)) := congrArg _ (if_pos hv)

/-- VIN above its limit resets a powered device and holds it (R442). -/
theorem execOvervoltage_resets (s : State) (hv : s.power.vin = true) :
    execOvervoltage s = .next (s.hardReset false s.ring.master (s.power.fromOff true true 3 0)) := congrArg _ (if_pos hv)

/-- A powered device that is not held takes a pulse of RESET_N or a fall of PERST_N. -/
theorem Power.powered (p : Power) (hv : p.vin = true) (hh : p.held = false) : (p.vin && !p.held) = true := by
  rw [hv, hh]
  rfl

/-- RESET_N resets the device, which resumes after step 2 (R446). -/
theorem execResetNAssert_resets (m : Bool) (s : State) (hv : s.power.vin = true) (hh : s.power.held = false) :
    execResetNAssert m s = .next (s.hardReset true m s.power.afterPin) := congrArg _ (if_pos (s.power.powered hv hh))

/-- PERST_N that falls resets the link and closes every context (R446). -/
theorem execPerstNAssert_resets (s : State) (hp : s.link.perstLow = false) (hv : s.power.vin = true) (hh : s.power.held = false) : execPerstNAssert s =
    .next ((s.linkReset.modPower (fun p => { p with resets := min (p.resets + 1) (2 ^ 32 - 1) })).modLink (fun l => { l with perstLow := true, training := false })) := by
  simp only [execPerstNAssert, hp, s.power.powered hv hh, Bool.false_eq_true, if_false, if_true]
  rfl

/-- A link that trains comes up, and vector 0 fires (R450, R451). -/
theorem execPcieLinkUp_rises (s : State) (ht : s.link.training = true) (hp : s.link.perstLow = false) (hl : s.link.linkUp = false) :
    execPcieLinkUp s = .next ((s.modLink (fun l => { l with linkUp := true })).msix 0) := by
  refine congrArg Host.Outcome.next (if_pos ?_)
  rw [ht, hp, hl]
  rfl

/-- Settles O38: one lemma for each event of power, start-up and reset, and one for each step that ends. -/
theorem startUpAndResetsActAsTheirRulesSay : Obligations.StartUpAndResetsActAsTheirRulesSay := by
  refine ⟨execPowerOn_begins, ?_, ?_, ?_, ?_, ?_, execResetNAssert_resets, execPerstNAssert_resets, fun _ => rfl, execPcieLinkUp_rises, ?_⟩
  · intro r s hv hh hf h7 hl
    refine ⟨execStartupStepDone_ends r s (s.power.booting_of hv hh hf h7 hl), s.endStep_one r, ?_, ?_, ?_, s.endStep_six r⟩
    · intro h1 hc hr
      rw [s.endStep_two r h1 hc hr]
      exact ⟨rfl, rfl, rfl⟩
    · intro h2 hr hi
      rw [s.endStep_three_stops r h2 hr hi]
      exact ⟨rfl, rfl⟩
    · intro h4 hr m
      rw [s.endStep_five r h4 hr, vmap_get]
  · intro rail s hv hh hf h1
    exact execRailTimeout_stops rail s (s.power.booting_step2 hv hh hf h1) h1
  · intro s hv hh hf h1 hc
    exact execRefclkWaitTimeout_notes s (s.power.booting_step2 hv hh hf h1) h1 hc
  · exact fun s hv => ⟨execBrownOut_resets s hv, execOvervoltage_resets s hv⟩
  · intro m s hh
    refine ⟨fun h3 => congrArg _ (s.letGo_held 3 m hh h3), fun h4 hc => ?_⟩
    exact (execThermalRestart_cooled m s hc).trans (congrArg _ (s.letGo_held 4 m hh h4))
  · exact fun s hl => ⟨congrArg _ (if_pos hl), fun d => congrArg _ (if_pos hl)⟩

end Sys2Proof.Machine
end

section
/-! O15, O16: GONG_CONFIG and GONG_READ, the ends of episodes and holds, TICK and the heartbeat watchdog (R374 to R392). -/

namespace Sys2Proof.Machine

open Sys2Proof

/-! ### GONG_CONFIG and GONG_READ (R388, R392) -/

section
variable (h : Hdr) (q : Pkt) (a : State)

/-- GONG_CONFIG in a right form does what its OP says and answers OK (R388). -/
theorem gongConfigBody_runs (hu : q.units = 0) (hf : gongForm q = none) : gongConfigBody h q a =
    (if q.a0 31 30 = 0 then a.gongSource h q
      else if q.a0 31 30 = 1 then a.modGong (fun g => { g with quietMs := q.a2 15 0 })
      else a.modCtx h.mb (fun x => { x with noticeOn := bit q.arg2.toNat 2, noticeMin := q.a2 1 0, noticeRing := h.ring })).ok h := by
  refine State.unlessFail_of_none _ _ _ ?_
  rw [firstFail_cons, firstFail_cons]
  exact ⟨(lenFail_none q 0).2 hu, hf, firstFail_nil⟩

/-- The records from a number on: from its record where that is kept, else none where it is yet to come, else all (R392, log 151). -/
theorem Gong.recsFrom_eq (g : Gong) (n : Nat) : g.recsFrom n =
    if g.log.any (fun r => r.recseq == n) = true then g.log.dropWhile (fun r => r.recseq != n)
    else if n ≠ 0 ∧ (n + (2 ^ 32 - 1) - g.nextRec) % (2 ^ 32 - 1) < 2 ^ 31 then [] else g.log := by
  simp only [Gong.recsFrom, Bool.and_eq_true, bne_iff_ne, decide_eq_true_eq]

/-- GONG_READ of at most 4096 records answers the device block and what its OP asks for (R392). -/
theorem gongReadBody_answers_block (hu : q.units = 0) (hn : q.a2 12 0 ≤ 4096) : gongReadBody h q a =
    a.reply h 0 0 0 (a.gongBlock ++ if q.b0 0 then (List.finRange 32).flatMap a.gong.srcEntry
      else ((a.gong.recsFrom q.arg1.toNat).take (q.a2 12 0)).flatMap GRec.bytes) := by
  refine State.unlessFail_of_none _ _ _ ?_
  rw [firstFail_cons, firstFail_cons]
  exact ⟨(lenFail_none q 0).2 hu, failIf_pass (decide_eq_false (by omega)) _ _, firstFail_nil⟩

end

/-- Settles O15: each command is `completes_of_body` with the lemma about its body and the OP of its row. -/
theorem gongCommandsComplete : Obligations.GongCommandsComplete := by
  refine ⟨fun c p => ?_, fun c p => ?_, fun c p => ?_, fun c p => ?_, fun c p => ?_⟩
  · refine completes_of_body _ c 0xC01 _ _ _ gongOwns noFail gongConfigBody (fun _ => rfl) ?_
    rintro h bs a q ⟨ho, hu, hf⟩
    have hop : q.a0 31 30 = 0 := Pkt.a0_of_row p q 31 30 0 rfl (by decide) (by decide) (by decide)
    exact ⟨ho, rfl, (gongConfigBody_runs h q a hu hf).trans (by rw [if_pos hop])⟩
  · refine completes_of_body _ c 0xC01 _ _ _ gongOwns noFail gongConfigBody (fun _ => rfl) ?_
    rintro h bs a q ⟨ho, hu, hf⟩
    have hop : q.a0 31 30 = 1 := Pkt.a0_of_row p q 31 30 1 rfl (by decide) (by decide) (by decide)
    exact ⟨ho, rfl, (gongConfigBody_runs h q a hu hf).trans (by rw [if_neg (by omega), if_pos hop])⟩
  · refine completes_of_body _ c 0xC01 _ _ _ gongOwns noFail gongConfigBody (fun _ => rfl) ?_
    rintro h bs a q ⟨ho, hu, hf⟩
    have hop : q.a0 31 30 = 2 := Pkt.a0_of_row p q 31 30 2 rfl (by decide) (by decide) (by decide)
    exact ⟨ho, rfl, (gongConfigBody_runs h q a hu hf).trans (by rw [if_neg (by omega), if_neg (by omega)])⟩
  · refine completes_of_body _ c 0xC02 _ _ _ noFail noFail gongReadBody (fun _ => rfl) ?_
    rintro h bs a q ⟨hu, hn⟩
    have hb : q.b0 0 = false := Pkt.b0_of_row_zero p q 0 rfl (by decide)
    refine ⟨rfl, rfl, (gongReadBody_answers_block h q a hu hn).trans ?_⟩
    rw [hb, if_neg Bool.false_ne_true, Gong.recsFrom_eq]
  · refine completes_of_body _ c 0xC02 _ _ _ noFail noFail gongReadBody (fun _ => rfl) ?_
    rintro h bs a q ⟨hu, hn⟩
    have hb : q.b0 0 = true := Pkt.b0_of_row_one p q 0 rfl (by decide)
    exact ⟨rfl, rfl, (gongReadBody_answers_block h q a hu hn).trans (by rw [if_pos hb])⟩

/-! ### What the end of an episode or hold touches -/

/-- An interrupt changes the link alone. -/
theorem State.msix_frame (s : State) (v : Fin 64) : ∃ l, s.msix v = { s with link := l } := by
  unfold State.msix
  dsimp only
  split
  · split <;> exact ⟨_, rfl⟩
  · exact ⟨s.link, rfl⟩

/-- The interrupt of a changed device state changes the link alone. -/
theorem State.devEvents_frame (s0 s : State) : ∃ l, State.devEvents s0 s = { s with link := l } := by
  unfold State.devEvents
  split
  · exact s.msix_frame 0
  · exact ⟨s.link, rfl⟩

/-- Pins that leave the safe state change, and nothing else. -/
theorem State.freeSafe_frame (s : State) : ∃ w, s.freeSafe = { s with pins := w } := by
  unfold State.freeSafe
  refine forFin_inv (fun t => ∃ w, t = { s with pins := w }) 128 _ s ?_ ⟨s.pins, rfl⟩
  rintro p t ⟨w, rfl⟩
  dsimp only
  split <;> exact ⟨_, rfl⟩

/-- The next toggle of TICK is all that the end of its holds changes. -/
theorem State.tickAgain_frame (s0 s : State) : ∃ n, State.tickAgain s0 s = s.modGong (fun g => { g with tickAt := n }) := by
  unfold State.tickAgain
  split
  · exact ⟨_, rfl⟩
  · exact ⟨s.gong.tickAt, rfl⟩

/-! ### The fault state and its end (R381, R382) -/

/-- QUIET_MS has passed without a Fault report or condition, in a fault state that is not Fatal (R381). -/
def State.quietOver (s : State) : Bool :=
  s.gong.fault && !s.gong.fatal && !s.gong.faultCond && decide (s.gong.quietFrom + 512 * msT s.gong.quietMs ≤ s.metro)

/-- The Gong as the end of a fault state leaves it: recoveries counted, episodes over, and holds of Fault reports ended. -/
def State.recovered (s : State) : State :=
  s.modGong (fun g => { g with
    fault := false, recoveries := sat 32 (g.recoveries + 1),
    srcs := vmap g.srcs (fun _ y => if y.inEpisode then { y with recoveries := sat 32 (y.recoveries + 1), inEpisode := false } else y),
    insts := g.insts.map (fun i => if i.holdHi then
      (if decide (i.cls < 2) && decide (s.metro < i.lastRep + 512 * msT g.quietMs) then { i with holdHi := false } else { i with holdHi := false, holdSafe := false, holdTick := false, safePins := 0 }) else i) })

/-- Once QUIET_MS is over the device leaves the fault state; pins and TICK are let go, and the change is signaled. -/
theorem State.quietExpire_over (s : State) (h : s.quietOver = true) :
    s.quietExpire = s.devEvents (State.tickAgain s s.recovered.freeSafe) := if_pos h

/-- Before that nothing happens. -/
theorem State.quietExpire_waits (s : State) (h : s.quietOver = false) : s.quietExpire = s := if_neg (Bool.eq_false_iff.1 h)

/-- Letting pins and TICK go, and signaling it, leaves all but pins, link and the next toggle of TICK. -/
theorem State.letGoSafe_frame (s0 u : State) :
    ∃ w n l, State.devEvents s0 (State.tickAgain s0 u.freeSafe) = { u with pins := w, gong := { u.gong with tickAt := n }, link := l } := by
  obtain ⟨w, hw⟩ := u.freeSafe_frame
  obtain ⟨n, hn⟩ := State.tickAgain_frame s0 { u with pins := w }
  obtain ⟨l, hl⟩ := s0.devEvents_frame (State.modGong { u with pins := w } (fun g => { g with tickAt := n }))
  refine ⟨w, n, l, ?_⟩
  rw [hw, hn, hl]
  rfl

/-- When QUIET_MS is over (R381). -/
theorem State.quietOver_iff (s : State) : s.quietOver = true ↔ s.gong.fault = true ∧ s.gong.fatal = false ∧ s.gong.faultCond = false ∧
    s.gong.quietFrom + 512 * (4000000 * s.gong.quietMs) ≤ s.metro := by
  simp only [State.quietOver, Bool.and_eq_true, Bool.not_eq_true', decide_eq_true_eq, and_assoc]
  exact Iff.rfl

/-! ### Holds, TICK and the watchdog (R383, R385, R386) -/

/-- A hold from below Fault ends QUIET_MS after the last report of the source it holds (R383). -/
theorem execHoldExpire_ends (src inst : Nat) (s : State) (hh : (s.gongInst src inst).holdSafe = true ∨ (s.gongInst src inst).holdTick = true)
    (hi : (s.gongInst src inst).holdHi = false) (hl : (s.gongInst src inst).lastRep + 512 * (4000000 * s.gong.quietMs) ≤ s.metro) :
    execHoldExpire src inst s = .next (State.tickAgain s
      ((s.modGong (fun g => g.putInst { (s.gongInst src inst) with holdSafe := false, holdTick := false, safePins := 0 })).freeSafe)) := by
  refine if_pos ?_
  rw [Bool.and_eq_true, Bool.and_eq_true, Bool.or_eq_true]
  exact ⟨⟨hh, by rw [hi]; rfl⟩, decide_eq_true hl⟩

/-- TICK runs while the device is ready, not in the fault state and unheld (R385). -/
theorem State.tickRuns_of (s : State) (hr : s.power.ready = true) (hf : s.gong.fault = false) (hh : ∀ i ∈ s.gong.insts, i.holdTick = false) :
    s.tickRuns = true := by
  have hn : s.gong.insts.any (fun i => i.holdTick) = false := List.any_eq_false.2 (fun i hi => Bool.eq_false_iff.1 (hh i hi))
  rw [State.tickRuns, hr, hf, hn]
  rfl

/-- TICK toggles once its time has come, and next 500 µs later (R385). -/
theorem execTickToggle_toggles (s : State) (hr : s.tickRuns = true) (ht : s.gong.tickAt ≤ s.tick) : execTickToggle s =
    .next (s.modGong (fun g => { g with tick := !g.tick, tickCount := (g.tickCount + 1) % 65536, tickAt := s.tick + 2000000 })) := by
  refine if_pos ?_
  rw [hr, decide_eq_true ht]
  rfl

/-- A core of a started supervisor that is silent for more than 50 ms is reported (R386). -/
theorem execSupHang_reports (core : Fin 4) (s : State) (h3 : 3 ≤ s.power.stepDone) (hb : s.gong.beats[core] + 200000000 < s.tick) : execSupHang core s =
    .next ((s.report 0x04 core.val false s.nowSI 0 0).modGong (fun g => { g with beats := vmod g.beats core (fun _ => s.tick), silent := vmod g.silent core (fun _ => true) })) := by
  refine if_pos ?_
  rw [Bool.and_eq_true]
  exact ⟨decide_eq_true h3, decide_eq_true hb⟩

/-- Settles O16: the end of the fault state by `State.letGoSafe_frame`, every other event by what its command does where it is due. -/
theorem gongEventsActAsTheirRulesSay : Obligations.GongEventsActAsTheirRulesSay := by
  refine ⟨?_, ?_, ?_, ?_, execHoldExpire_ends, ?_, fun _ _ => rfl, execSupHang_reports⟩
  · exact fun e s hs => congrArg _ (if_pos hs)
  · intro s r rs hr
    show execGongReport none s = _
    simp only [execGongReport, hr]
  · intro s hf hx hc hq
    obtain ⟨w, n, l, he⟩ := State.letGoSafe_frame s s.recovered
    refine ⟨_, rfl, ?_⟩
    rw [s.quietExpire_over (s.quietOver_iff.2 ⟨hf, hx, hc, hq⟩), he]
    dsimp only [State.recovered, State.modGong]
    exact ⟨rfl, rfl, rfl, rfl, rfl, rfl, rfl, rfl⟩
  · intro s h
    refine congrArg _ (s.quietExpire_waits (Bool.eq_false_iff.2 fun ho => ?_))
    obtain ⟨hf, hx, hc, hq⟩ := s.quietOver_iff.1 ho
    rcases h with h | h | h | h
    · exact absurd (hf.symm.trans h) (by decide)
    · exact absurd (hx.symm.trans h) (by decide)
    · exact absurd (hc.symm.trans h) (by decide)
    · omega
  · exact fun s hr hf hh ht => execTickToggle_toggles s (s.tickRuns_of hr hf hh) ht

end Sys2Proof.Machine
end

section
/-! O14, O34: RING_SETUP, RING_TRAIN and RING_STATUS, and the training of the ring (R396 to R412). -/

namespace Sys2Proof.Machine

open Sys2Proof

/-! ### RING_SETUP and RING_TRAIN (R401, R402) -/

section
variable (h : Hdr) (q : Pkt) (a : State)

/-- Values in their ranges and a payload of the form's length are in the form of RING_SETUP (R401). -/
theorem ringSetupForm_right (hu : q.units = if q.isE then 32 else 0) (hd : 16 ≤ q.a0 4 0 ∧ q.a0 4 0 ≤ 30)
    (hp : 2048 ≤ q.arg1.toNat ∧ q.arg1.toNat ≤ 134217728) (hf : ∀ k, k < 32 → flightOf q k ≤ 1800000) : ringSetupForm q = none := by
  have hk : (List.range 32).any (fun k => decide (1800000 < flightOf q k)) = false :=
    List.any_eq_false.2 fun k hm => by
      have := hf k (List.mem_range.1 hm)
      rw [decide_eq_true_eq]
      omega
  rw [ringSetupForm, firstFail_cons, firstFail_cons]
  refine ⟨(lenFail_none q _).2 hu, failIf_pass ?_ _ _, firstFail_nil⟩
  rw [hk, decide_eq_false (by omega), decide_eq_false (by omega), decide_eq_false (by omega), decide_eq_false (by omega)]
  rfl

/-- RING_TRAIN on a master that is enabled, alone on its ring and idle begins a training (R402). -/
theorem ringTrainBody_begins (hu : q.units = 0) (hm : a.ring.master = true) (he : a.ring.enable = true) (hc : a.ring.conflict = false)
    (ht : a.ring.inTraining = false) (hr : a.anyRuns = false) : ringTrainBody h q a =
      a.devEvents (a.modBeat (fun b => { b.begin .linking a.metro a.tick with trainHdrs := b.trainHdrs ++ [(h, a.tick, true)] })) := by
  have hf : firstFail [lenFail q 0, failIf (!a.ring.enable) 0x071 0x1002, failIf a.ring.conflict 0x070 0, failIf (a.ring.inTraining || a.anyRuns) 0x010 0x0030] = none := by
    simp only [firstFail_cons, firstFail_nil, lenFail_none, failIf_none, hu, he, hc, ht, hr, Bool.not_true, Bool.or_self, and_self]
  refine (if_neg ?_).trans (State.unlessFail_of_none _ _ _ hf)
  rw [hm]
  exact Bool.false_ne_true

/-- RING_TRAIN on any other device waits for a training (R402). -/
theorem ringTrainBody_waits (hu : q.units = 0) (hm : a.ring.master = false) : ringTrainBody h q a =
    a.modBeat (fun b => { b with trainHdrs := b.trainHdrs ++ [(h, a.tick, false)] }) := by
  refine (if_pos ?_).trans (State.unlessFail_of_none _ _ _ ((lenFail_none q 0).2 hu))
  rw [hm]
  rfl

end

/-- Settles O14: each command is `completes_of_body` with the lemma about its form or its body. -/
theorem ringCommandsComplete : Obligations.RingCommandsComplete := by
  refine ⟨fun c p => ?_, fun c p => ?_, fun c p => ?_⟩
  · refine completes_of_body _ c 0x103 _ _ _ noFail noFail ringStatusBody (fun _ => rfl) ?_
    intro h bs a q hu
    exact ⟨rfl, rfl, State.unlessFail_of_none _ _ _ ((lenFail_none q 0).2 hu)⟩
  · refine completes_of_body _ c 0x101 _ _ _ (fun h _ t => failIf (!t.sole h) 0x041 0x2003)
      (fun _ _ t => failIf (t.ring.inTraining || t.globalRuns) 0x010 0x0030) ringSetupBody (fun _ => rfl) ?_
    rintro h bs a q ⟨hs, ht, hg, hu, hd1, hd2, hp1, hp2, hf⟩
    refine ⟨failIf_pass (by rw [hs]; rfl) _ _, failIf_pass (by rw [ht, hg]; rfl) _ _, ?_⟩
    exact State.unlessFail_of_none _ _ _ (ringSetupForm_right q hu ⟨hd1, hd2⟩ ⟨hp1, hp2⟩ hf)
  · refine completes_of_body _ c 0x102 _ _ _ noFail noFail ringTrainBody (fun _ => rfl) ?_
    rintro h bs a q ⟨hu, hm⟩
    refine ⟨rfl, rfl, ?_⟩
    cases hr : a.ring.master with
    | true =>
      obtain ⟨he, hc, ht, hi⟩ := hm hr
      exact (ringTrainBody_begins h q a hu hr he hc ht hi).trans (if_pos hr).symm
    | false => exact (ringTrainBody_waits h q a hu hr).trans (if_neg (Bool.eq_false_iff.1 hr)).symm

/-! ### Enumeration (R398 to R400) -/

section
variable (count : Nat) (s : State)

/-- A device that is not the master takes its position, and its training begins. -/
theorem execEnumeration_positions (own : Bool) (hb : s.ring.bypass = false) (hm : s.ring.master = false) : execEnumeration count own s =
    .next (s.devEvents (s.modBeat (fun b => { b.begin .training s.metro (s.tick - 4000000 * 2) with posNew := count % 32 }))) := by
  simp only [execEnumeration, hb, hm, Bool.false_eq_true, if_false]
  rfl

/-- The master in training gets its own enumeration back: the training goes on with at most 32 devices, and fails with more. -/
theorem execEnumeration_own (hb : s.ring.bypass = false) (hm : s.ring.master = true) (ht : s.ring.inTraining = true) (hc : count ≠ 0) :
    execEnumeration count true s = if 32 < count then .next (s.failTraining 0x071 0x1003 0)
      else .next (s.modBeat (fun b => { b with st := .training, posNew := 0, countNew := count - 1 })) := by
  have hn : ¬ ((!s.ring.inTraining) = true ∨ count = 0) := by
    rw [ht]
    simpa using hc
  simp only [execEnumeration, hb, hm, Bool.false_eq_true, if_false, if_true]
  exact if_neg (by simpa using hn)

/-- The master that meets another master's enumeration outside a training reports the conflict. -/
theorem execEnumeration_conflict (hb : s.ring.bypass = false) (hm : s.ring.master = true) (hc : s.ring.conflict = false)
    (ht : s.ring.inTraining = false) : execEnumeration count false s =
      .next ((s.modBeat (fun b => { b with conflict := true, idleOnly := true })).report 0x09 0 false s.nowSI 0 0) := by
  simp only [execEnumeration, hb, hm, hc, Bool.false_eq_true, if_false, if_true]
  refine congrArg Host.Outcome.next (if_neg ?_)
  show ¬ s.ring.inTraining = true
  rw [ht]
  exact Bool.false_ne_true

end

/-! ### The measured loop (R404, R405) -/

section
variable (b : BRing) (raw : Nat) (passes : List Nat)

/-- Pass times of the devices found. -/
def BRing.passTimes : List Nat := (List.range (b.countNew + 1)).map (fun k => passes.getD k 0)

/-- Declared flight times of their links, in fine LSB. -/
def BRing.declared : List Nat := (List.range (b.countNew + 1)).map (fun k => (fsToFine b.flights[fin 32 k]).toNat)

/-- What pass times and declared flight times leave of the loop. -/
def BRing.loopRest : Int := (raw : Int) - ((b.passTimes passes).sum : Nat) - (b.declared.sum : Nat)

/-- Flight times as they are used. -/
def BRing.shares : List Nat := shareFlights b.declared (b.loopRest raw passes)

/-- Frames of the loop. -/
def BRing.loopFrames : Nat := max 1 (raw / (1024 * (b.countNew + 1)))

/-- Unit intervals of a frame of the padded loop. -/
def BRing.loopUi : Nat := ceilDiv (raw * 25) (4096 * b.loopFrames raw)

/-- The padded loop, in fine LSB. -/
def BRing.loopTime : Nat := (2 * b.loopFrames raw * b.loopUi raw * 4096 + 25) / 50

/-- The ring as the master computes it from a loop that fits. -/
def BRing.withLoop : BRing :=
  { b with loop := b.loopTime raw, frames := b.loopFrames raw, tfUi := b.loopUi raw, pad := b.loopTime raw - raw, gdl := ceilDiv (40960 + 18432 * (b.countNew + 1)) b.gdlPeriod * b.gdlPeriod, gdlPTrained := b.gdlPeriod, dbTrained := b.dbLog2,
           table := vmap b.table (fun k e => if k.val < b.countNew + 1 then { e with present := true, pass := (b.passTimes passes).getD k.val 0, flight := (b.shares raw passes).getD k.val 0 } else {}) }

/-- Some hop of the loop, pass and flight together, is longer than 9 ns. -/
def BRing.longHop : Bool :=
  ((List.range (b.countNew + 1)).map (fun k => (b.passTimes passes).getD k 0 + (b.shares raw passes).getD k 0)).any (fun x => decide (18432 < x))

/-- No hop is too long where each of them fits. -/
theorem BRing.longHop_false (hk : ∀ k, k < b.countNew + 1 → (b.passTimes passes).getD k 0 + (b.shares raw passes).getD k 0 ≤ 18432) :
    b.longHop raw passes = false := by
  rw [BRing.longHop, List.any_eq_false]
  intro x hx
  obtain ⟨k, hm, rfl⟩ := List.mem_map.1 hx
  have := hk k (List.mem_range.1 hm)
  rw [decide_eq_true_eq]
  omega

end

section
variable (raw : Nat) (passes : List Nat) (s : State)

/-- The master in training judges the loop that it has measured. -/
theorem execLoopMeasured_judges (hm : s.ring.master = true) (ht : s.ring.inTraining = true) (hs : s.ring.st = .training) :
    execLoopMeasured raw passes s =
      if (decide (18432 * (s.ring.countNew + 1) < s.ring.loopTime raw) || s.ring.longHop raw passes) = true then .next (s.failTraining 0x071 0x1004 0)
      else .next (if (s.ring.declared.all (fun f => f != 0) && decide (8 * (s.ring.countNew + 1) < (s.ring.loopRest raw passes).natAbs)) = true then
          State.report { s with ring := s.ring.withLoop raw passes } 0x0A 0 false s.nowSI 4 0
        else { s with ring := s.ring.withLoop raw passes }) := by
  have hrun : (!(s.ring.master && s.ring.inTraining && s.ring.st == .training)) = false := by
    rw [hm, ht, hs]
    rfl
  unfold execLoopMeasured
  simp only [hrun, Bool.false_eq_true, if_false, State.modBeat, BRing.withLoop, BRing.longHop, BRing.loopTime, BRing.loopUi, BRing.loopFrames, BRing.shares, BRing.loopRest, BRing.declared, BRing.passTimes]
  rfl

/-- A loop that is too long fails the training. -/
theorem execLoopMeasured_fails (hm : s.ring.master = true) (ht : s.ring.inTraining = true) (hs : s.ring.st = .training)
    (hl : 18432 * (s.ring.countNew + 1) < s.ring.loopTime raw) : execLoopMeasured raw passes s = .next (s.failTraining 0x071 0x1004 0) := by
  rw [execLoopMeasured_judges raw passes s hm ht hs, if_pos]
  rw [decide_eq_true hl, Bool.true_or]

/-- A loop that fits, with some link undeclared, gives flight times, frame and GDL. -/
theorem execLoopMeasured_computes (hm : s.ring.master = true) (ht : s.ring.inTraining = true) (hs : s.ring.st = .training)
    (hl : s.ring.loopTime raw ≤ 18432 * (s.ring.countNew + 1)) (hk : s.ring.longHop raw passes = false) (h0 : 0 ∈ s.ring.declared) :
    execLoopMeasured raw passes s = .next { s with ring := s.ring.withLoop raw passes } := by
  have ha : s.ring.declared.all (fun f => f != 0) = false := List.all_eq_false.2 ⟨0, h0, by decide⟩
  rw [execLoopMeasured_judges raw passes s hm ht hs, if_neg, if_neg]
  · rw [ha, Bool.false_and]
    exact Bool.false_ne_true
  · rw [hk, decide_eq_false (Nat.not_lt.2 hl)]
    exact Bool.false_ne_true

end

/-! ### The count load, the end of a training, and control blocks (R403, R406, R410) -/

/-- The master notes the count that it loads. -/
theorem execCountLoad_master (m dk : Nat) (s : State) (ht : s.ring.inTraining = true) (hl : s.ring.loaded = false) (hm : s.ring.master = true) :
    execCountLoad m dk s = .next (s.modBeat (fun b => { b with loaded := true, ringBit := true, trainTick := m / 512 })) := by
  simp only [execCountLoad, ht, hl, hm, Bool.not_true, Bool.or_self, Bool.false_eq_true, if_false, if_true]

/-- A device with the master's count and its own delay loaded, before alarms that are due fire (R297, R406). -/
def State.countLoaded (s : State) (m dk : Nat) : State :=
  { s.modBeat (fun b =>
      { b with loaded := true, ringBit := true, trainTick := m / 512, delay := dk, phi := b.phi + (((m + dk : Nat) : Int) - s.metro), trainStart := ((b.trainStart : Int) + (((m + dk : Nat) : Int) - s.metro) / 512).toNat, goodDbs := 0, missedRow := 0, corr := 0 })
    with metro := m + dk, tmus := vmap s.tmus (fun _ u => if u.st == .measuring then { u with timebase := true } else u) }

/-- Any other device sets its Metronome, and alarms whose due ticks are passed fire. -/
theorem execCountLoad_loads (m dk : Nat) (s : State) (ht : s.ring.inTraining = true) (hl : s.ring.loaded = false) (hm : s.ring.master = false) :
    execCountLoad m dk s = .next (forFin 8 (fun n t => t.fireAlarm n) (s.countLoaded m dk)) := by
  simp only [execCountLoad, ht, hl, hm, Bool.not_true, Bool.or_self, Bool.false_eq_true, if_false]
  rfl

/-- The ring as the end of a training leaves it (R403). -/
def BRing.ended (b : BRing) : BRing :=
  { b with trained := true, st := .ready, inTraining := false, loaded := false, pos := b.posNew, countM1 := b.countNew, trainings := sat 32 (b.trainings + 1), hold := false, lostAt := none, missedRow := 0, words := [], gtSeen := [], gtBad := [], gtWait := [], trainHdrs := [] }

/-- A loaded training ends, for a device that is not the master after three good Downbeats, and its commands are answered. -/
theorem execTrainingEnd_ends (s : State) (ht : s.ring.inTraining = true) (hl : s.ring.loaded = true) (hg : s.ring.master = true ∨ 3 ≤ s.ring.goodDbs) :
    execTrainingEnd s = .next (s.devEvents (s.ring.trainHdrs.foldl (fun t x => t.reply x.1 0 0 0 t.ringBlock) (s.modBeat BRing.ended))) := by
  refine if_pos ?_
  rw [ht, hl, Bool.and_self, Bool.true_and, Bool.or_eq_true, decide_eq_true_eq]
  exact hg

/-- A training that takes too long fails, as do the commands that have waited for one too long. -/
theorem execTrainTimeout_fails (s : State) (ht : s.ring.inTraining = true)
    (hl : s.ring.trainStart + 4000000 * 4 + 8 * 2 ^ (if s.ring.master then s.ring.dbLog2 else s.ring.db) ≤ s.tick) : execTrainTimeout s =
      .next ((s.failTraining 0x071 0x1005 0).failTrains (fun x => !x.2.2 && decide (x.2.1 + 4000000 * 1000 ≤ s.tick)) 0x071 0x1005 0) := by
  refine congrArg (fun t : State => Host.Outcome.next (t.failTrains (fun x => !x.2.2 && decide (x.2.1 + msT 1000 ≤ s.tick)) 0x071 0x1005 0)) (if_pos ?_)
  rw [ht, Bool.true_and, decide_eq_true_eq]
  exact hl

section
variable (cb : CtlBlock) (s : State) (hb : s.ring.bypass = false)
include hb

/-- The status of a position is taken over, unless it shows a master that a device runs (R402, R410). -/
theorem execControlBlock_status (h0 : cb.kind = 0) (hr : s.ring.inTraining = false) : execControlBlock cb s =
    .next (s.modBeat (fun b => { b with table := vmod b.table (fin 32 cb.pos) (fun e => { e with present := true, running := cb.running, global := cb.global, hold := cb.hold, grade := cb.grade }) })) := by
  simp only [execControlBlock, hb, h0, hr, Bool.and_false, Bool.false_and, Bool.false_eq_true, if_false, if_true]

/-- A device that runs fails the master's training (R402). -/
theorem execControlBlock_running (h0 : cb.kind = 0) (hm : s.ring.master = true) (ht : s.ring.inTraining = true) (hr : cb.running = true) :
    execControlBlock cb s = .next (s.failTraining 0x010 0x0030 cb.pos) := by
  simp only [execControlBlock, hb, h0, hm, ht, hr, Bool.and_self, Bool.false_eq_true, if_false, if_true]

/-- The results of the training come to a device that is not the master (R403). -/
theorem execControlBlock_results (h1 : cb.kind = 1) (hm : s.ring.master = false) (ht : s.ring.inTraining = true) : execControlBlock cb s =
    .next (s.modBeat (fun b => { b with loop := cb.loop, countNew := (cb.count - 1) % 32, frames := cb.frames, tfUi := cb.tfUi, pad := cb.pad, gdl := cb.gdl, gdlPTrained := cb.gdlPeriod, dbTrained := cb.dbLog2 })) := by
  have h0 : cb.kind ≠ 0 := by omega
  simp only [execControlBlock, hb, if_neg h0, if_pos h1, hm, ht, Bool.not_true, Bool.or_self, Bool.false_eq_true, if_false]

/-- So do the figures of a link (R403). -/
theorem execControlBlock_link (h2 : cb.kind = 2) (hm : s.ring.master = false) (ht : s.ring.inTraining = true) : execControlBlock cb s =
    .next (s.modBeat (fun b => { b with table := vmod b.table (fin 32 cb.pos) (fun e => { e with present := true, pass := cb.pass, flight := cb.flight }) })) := by
  have h0 : cb.kind ≠ 0 := by omega
  have h1 : cb.kind ≠ 1 := by omega
  simp only [execControlBlock, hb, if_neg h0, if_neg h1, if_pos h2, hm, ht, Bool.not_true, Bool.or_self, Bool.false_eq_true, if_false]

end

/-- Settles O34: one lemma for each event of the training, the measured loop by `execLoopMeasured_judges`. -/
theorem ringTrainingActsAsItsRulesSay : Obligations.RingTrainingActsAsItsRulesSay := by
  refine ⟨?_, ?_, ?_, ?_, execTrainTimeout_fails, ?_⟩
  · intro count own s hb
    refine ⟨execEnumeration_positions count s own hb, ?_, ?_, ?_⟩
    · rintro hm rfl ht h1 h32
      exact (execEnumeration_own count s hb hm ht (by omega)).trans (if_neg (by omega))
    · rintro hm rfl ht h32
      exact (execEnumeration_own count s hb hm ht (by omega)).trans (if_pos h32)
    · rintro hm rfl hc ht
      exact execEnumeration_conflict count s hb hm hc ht
  · intro raw passes s hm ht hs
    exact ⟨execLoopMeasured_fails raw passes s hm ht hs,
      fun hl hk h0 => execLoopMeasured_computes raw passes s hm ht hs hl (s.ring.longHop_false raw passes hk) h0⟩
  · intro m dk s ht hl
    refine ⟨execCountLoad_master m dk s ht hl, fun hm => ⟨s.countLoaded m dk, execCountLoad_loads m dk s ht hl hm, ?_⟩⟩
    exact ⟨rfl, rfl, rfl, rfl, rfl, rfl⟩
  · intro s ht hl hg
    exact ⟨s.modBeat BRing.ended, execTrainingEnd_ends s ht hl hg, rfl, rfl, rfl, rfl, rfl, rfl, rfl⟩
  · intro cb s hb
    exact ⟨execControlBlock_status cb s hb, execControlBlock_running cb s hb, execControlBlock_results cb s hb, execControlBlock_link cb s hb⟩

end Sys2Proof.Machine
end

section
/-! O35: decision words, tap slots, Downbeats, alignment steps and ring failures (R407 to R416). -/

namespace Sys2Proof.Machine

open Sys2Proof

/-! ### The ring stream (R407 to R409) -/

/-- The state in which the device forms its fail contribution: every burst with GLOBAL has taken in its results up to now. -/
def State.absorbed (s : State) : State :=
  (List.finRange 4).foldl (fun t q => if t.seqs[q].globalB && t.seqs[q].st != .idle then t.absorb q s.metro else t) s

/-- The device's own bit of a decision word: its contribution to the latest window that has ended. -/
def State.ownBit (s : State) : Bool := match windowAt s.metro with | none => false | some x => s.absorbed.contribution x

/-- What a decision word tells of the other positions' windows. -/
def State.wordsSeen (s : State) (w : Word) (valid : Bool) : List (Nat × Nat × Bool × Bool) :=
  ((List.range (s.ring.countM1 + 1)).filter (fun j => j != s.ring.pos)).filterMap (fun j =>
    (windowAt (s.metro - s.ring.since j)).map (fun x => (x, j, w.toNat.testBit j, valid)))

/-- A decision word leaves a trained device with its own bit put in and every other bit as it came (R408). -/
theorem execDecisionWord_passes (w : Word) (valid : Bool) (s : State) (ht : s.ring.trained = true) : execDecisionWord w valid s =
    .next (s.absorbed.modBeat (fun b => { b with words := s.wordsSeen w valid ++ b.words, wordOut := w.toNat - b2n (w.toNat.testBit s.ring.pos) * 2 ^ s.ring.pos + b2n s.ownBit * 2 ^ s.ring.pos })) := by
  refine if_neg ?_
  rw [ht]
  exact Bool.false_ne_true

/-- The tick at which the slot of a position left its own device, as the local tick count has it (R409). -/
def State.slotLeft (s : State) (pos : Nat) : Nat := (s.metro + s.ring.table[fin 32 s.ring.pos].pass - s.ring.since pos + 256) / 512

section
variable (pos : Fin 32) (slot : BitVec 16) (valid : Bool) (s : State) (ht : s.ring.trained = true) (hp : pos.val ≤ s.ring.countM1)
include ht hp

/-- A position of a trained ring has its slot. -/
theorem execGtSlot_passes : execGtSlot pos slot valid s =
    if pos.val = s.ring.pos then .next s.gtSend
    else if !valid then .next (s.modBeat (fun b => { b with gtBad := ((s.slotLeft pos.val - 76) * 512, s.slotLeft pos.val * 512) :: b.gtBad }))
    else if !bit slot.toNat 15 then .next s
    else .next (s.gtRaise (fin 16 (bits slot.toNat 13 10)) (s.slotLeft pos.val - bits slot.toNat 6 0) (bits slot.toNat 9 7) (s.metro + nsF 1)) := by
  refine if_neg ?_
  rw [ht, decide_eq_false (Nat.not_lt.2 hp)]
  exact Bool.false_ne_true

/-- The device's own slot sends a waiting raise. -/
theorem execGtSlot_sends (ho : pos.val = s.ring.pos) : execGtSlot pos slot valid s = .next s.gtSend :=
  (execGtSlot_passes pos slot valid s ht hp).trans (if_pos ho)

/-- An invalid slot of another position marks the times of the raises that it may have carried as bad (R411, log 96). -/
theorem execGtSlot_marks (ho : pos.val ≠ s.ring.pos) (hv : valid = false) : execGtSlot pos slot valid s =
    .next (s.modBeat (fun b => { b with gtBad := ((s.slotLeft pos.val - 76) * 512, s.slotLeft pos.val * 512) :: b.gtBad })) := by
  rw [execGtSlot_passes pos slot valid s ht hp, if_neg ho, hv]
  rfl

/-- A valid slot of another position that carries a raise raises its global tap 1 ns later (R408, R409). -/
theorem execGtSlot_raises (ho : pos.val ≠ s.ring.pos) (hv : valid = true) (hb : bit slot.toNat 15 = true) : execGtSlot pos slot valid s =
    .next (s.gtRaise (fin 16 (bits slot.toNat 13 10)) (s.slotLeft pos.val - bits slot.toNat 6 0) (bits slot.toNat 9 7) (s.metro + 2048)) := by
  rw [execGtSlot_passes pos slot valid s ht hp, if_neg ho, hv, hb]
  rfl

end

/-! ### Downbeats and alignment (R412, R414) -/

section
variable (tick carried measured : Nat) (s : State)

/-- The alignment error that a Downbeat shows (R412). -/
def State.alignError : Int := (measured : Int) - (((tick + carried) * 512 + s.ring.delay : Nat) : Int)

variable (hf : s.ring.follows = true) (ht : tick % 2 ^ s.ring.db = 0)
include hf ht

/-- A device that follows the Downbeats measures the one at its tick: the master only takes note. -/
theorem execDownbeat_measures : execDownbeat tick carried measured s =
    if s.ring.master then .next (s.modBeat (fun b => { b with missedRow := 0 }))
    else if 64 < (s.alignError tick carried measured).natAbs then .next (s.modBeat (fun b => { b with alignErr := s.alignError tick carried measured })).missDb
    else .next ((s.modBeat (fun b => { b with alignErr := s.alignError tick carried measured })).modBeat (fun b =>
      { b with corr := -(s.alignError tick carried measured), corrDone := 0, missedRow := 0, hold := b.hold && decide (16 < (s.alignError tick carried measured).natAbs), goodDbs := if (s.alignError tick carried measured).natAbs ≤ 16 then min 3 (b.goodDbs + 1) else 0 })) := by
  refine if_neg ?_
  rw [hf, decide_eq_false (not_not.2 ht)]
  exact Bool.false_ne_true

/-- Beyond 64 fine LSB the Downbeat counts as missed (R414). -/
theorem execDownbeat_misses (hm : s.ring.master = false) (he : 64 < (s.alignError tick carried measured).natAbs) : execDownbeat tick carried measured s =
    .next (s.modBeat (fun b => { b with alignErr := s.alignError tick carried measured })).missDb := by
  rw [execDownbeat_measures tick carried measured s hf ht, if_neg (Bool.eq_false_iff.1 hm), if_pos he]

/-- Within 64 fine LSB the error is corrected (R412). -/
theorem execDownbeat_corrects (hm : s.ring.master = false) (he : (s.alignError tick carried measured).natAbs ≤ 64) : execDownbeat tick carried measured s =
    .next (s.modBeat (fun b =>
      { b with alignErr := s.alignError tick carried measured, corr := -(s.alignError tick carried measured), corrDone := 0, missedRow := 0, hold := b.hold && decide (16 < (s.alignError tick carried measured).natAbs), goodDbs := if (s.alignError tick carried measured).natAbs ≤ 16 then min 3 (b.goodDbs + 1) else 0 })) := by
  rw [execDownbeat_measures tick carried measured s hf ht, if_neg (Bool.eq_false_iff.1 hm), if_neg (Nat.not_lt.2 he)]
  rfl

end

/-- One alignment step: the count and its correction move by one fine LSB toward each other. -/
def State.aligned (s : State) : State :=
  let d : Int := if 0 < s.ring.corr then 1 else -1
  { s.modBeat (fun b => { b with corr := b.corr - d, corrDone := b.corrDone + 1, corrBar := s.tick / 256, phi := b.phi + d }) with metro := ((s.metro : Int) + d).toNat }

/-- An alignment step is made at most once in a Bar and eight times in a Downbeat period (R412). -/
theorem execAlignStep_steps (s : State) (hc : s.ring.corr ≠ 0) (h8 : s.ring.corrDone < 8) (hb : s.ring.corrBar ≠ s.tick / 256) :
    execAlignStep s = .next s.aligned := by
  refine if_neg ?_
  rw [decide_eq_false hc, decide_eq_false (Nat.not_le.2 h8), decide_eq_false hb]
  exact Bool.false_ne_true

/-! ### Ring failures (R415, R416) -/

/-- An error block is counted and reported (R415). -/
theorem execRingErrorBlock_counts (lane : Fin 4) (s : State) (hb : s.ring.bypass = false) : execRingErrorBlock lane s =
    .next ((s.modBeat (fun b => { b with linkErrs := min (b.linkErrs + 1) (2 ^ 32 - 1), invalidWin := min (b.invalidWin + 1) (2 ^ 32 - 1) })).report 0x0A lane.val false s.nowSI 1 0) :=
  if_neg (Bool.eq_false_iff.1 hb)

/-- A cause of ring loss that no report goes with only drops the ring (R416). -/
theorem execRingLoss_unreported (c : RingLossCause) (s : State) (hl : ∀ lane, c ≠ .laneUnlock lane) (hp : c ≠ .loopChange) :
    execRingLoss c s = .next (s.devEvents s.ringDrop.syncBypass) := by
  cases c with
  | laneUnlock lane => exact absurd rfl (hl lane)
  | loopChange => exact absurd rfl hp
  | missedDownbeats => rfl
  | bypassChange => rfl
  | ringReset => rfl

/-- A lane that is locked again ends its reported condition (R415). -/
theorem execRingLaneLock_ends (lane : Fin 4) (s : State) (hr : s.laneReported lane = true) (hk : s.ring.laneLock[lane] = false) :
    execRingLaneLock lane s = .next ((s.modBeat (fun b => { b with laneLock := vmod b.laneLock lane (fun _ => true) })).report 0x0A lane.val true s.nowSI 0 0) := by
  refine congrArg Host.Outcome.next (if_pos ?_)
  rw [hr, hk]
  rfl

/-- Settles O35: one lemma for each event of the stream, of alignment, and of a failing ring. -/
theorem ringStreamActsAsItsRulesSay : Obligations.RingStreamActsAsItsRulesSay := by
  refine ⟨?_, ?_, ?_, ?_, fun s hf => congrArg _ (if_pos hf), execRingErrorBlock_counts, ?_, execRingLaneLock_ends⟩
  · exact fun w valid s ht => ⟨s.absorbed, s.ownBit, s.wordsSeen w valid, rfl, execDecisionWord_passes w valid s ht⟩
  · exact fun pos slot valid s ht hp => ⟨execGtSlot_sends pos slot valid s ht hp, execGtSlot_marks pos slot valid s ht hp,
      execGtSlot_raises pos slot valid s ht hp⟩
  · exact fun tick carried measured s hf ht =>
      ⟨fun hm => (execDownbeat_measures tick carried measured s hf ht).trans (if_pos hm), execDownbeat_misses tick carried measured s hf ht,
        execDownbeat_corrects tick carried measured s hf ht⟩
  · exact fun s hc h8 hb => ⟨s.aligned, execAlignStep_steps s hc h8 hb, rfl, rfl, rfl, rfl, rfl, rfl, rfl⟩
  · exact fun s => ⟨fun _ => rfl, rfl, fun c hl hp => execRingLoss_unreported c s hl hp⟩

end Sys2Proof.Machine
end

section
/-! O32, O33: TUNE_RUN, TUNE_STATUS and CAL_STORE, full passes, reflections, stored tables, gap calibration and live takeover (R352
to R371). -/

namespace Sys2Proof.Machine

open Sys2Proof

/-! ### The commands (R355, R369 to R371) -/

/-- TUNE_RUN in a right form does what its OP says (R369). -/
theorem tuneRunBody_runs (h : Hdr) (q : Pkt) (a : State) (hf : tuneForm q = none) : tuneRunBody h q a =
    if q.a0 17 16 = 0 then
      a.modTune (fun t => { t with full := t.full ++ [{ hdr := h, dies := pktDies q, dieTick := a.tick, external := q.a1 0 0 == 1, vref := q.arg2.toNat }] })
    else if q.a0 17 16 = 1 then
      a.modTune (fun t => { t with reflects := t.reflects ++ [{ hdr := h, grp := ((pktGrps q).head?).getD 0, mask := q.a2 15 0, startTick := a.tick }] })
    else
      ((pktGrps q).foldl (fun t g => t.modGrp g (fun x => { x with take := { x.take with live := q.a1 1 1 == 1, ms := if q.a1 31 16 = 0 then x.take.ms else q.a1 31 16 } })) a).ok h :=
  State.unlessFail_of_none _ _ _ hf

/-- Settles O32: each command is `completes_of_body`, and the OP of its row selects the branch of `tuneRunBody_runs`. -/
theorem tuningCommandsComplete : Obligations.TuningCommandsComplete := by
  refine ⟨fun c p => ?_, fun c p => ?_, fun c p => ?_, fun c p => ?_, fun c p => ?_⟩
  · refine completes_of_body _ c 0xB01 _ _ _ tuneOwns tuneBusy tuneRunBody (fun _ => rfl) ?_
    rintro h bs a q ⟨ho, hb, hf⟩
    have hop : q.a0 17 16 = 0 := Pkt.a0_of_row p q 17 16 0 rfl (by decide) (by decide) (by decide)
    exact ⟨ho, hb, (tuneRunBody_runs h q a hf).trans (if_pos hop)⟩
  · refine completes_of_body _ c 0xB01 _ _ _ tuneOwns tuneBusy tuneRunBody (fun _ => rfl) ?_
    rintro h bs a q ⟨ho, hb, hf⟩
    have hop : q.a0 17 16 = 1 := Pkt.a0_of_row p q 17 16 1 rfl (by decide) (by decide) (by decide)
    exact ⟨ho, hb, (tuneRunBody_runs h q a hf).trans ((if_neg (by omega)).trans (if_pos hop))⟩
  · refine completes_of_body _ c 0xB01 _ _ _ tuneOwns tuneBusy tuneRunBody (fun _ => rfl) ?_
    rintro h bs a q ⟨ho, hb, hf⟩
    have hop : q.a0 17 16 = 2 := Pkt.a0_of_row p q 17 16 2 rfl (by decide) (by decide) (by decide)
    exact ⟨ho, hb, (tuneRunBody_runs h q a hf).trans ((if_neg (by omega)).trans (if_neg (by omega)))⟩
  · refine completes_of_body _ c 0xB02 _ _ _ noFail noFail tuneStatusBody (fun _ => rfl) ?_
    intro h bs a q hu
    exact ⟨rfl, rfl, State.unlessFail_of_none _ _ _ ((lenFail_none q 0).2 hu)⟩
  · refine completes_of_body _ c 0xB03 _ _ _ calStoreOwns calStoreBusy calStoreBody (fun _ => rfl) ?_
    rintro h bs a q ⟨ho, hb, hu⟩
    exact ⟨ho, hb, State.unlessFail_of_none _ _ _ ((lenFail_none q 0).2 hu)⟩

/-! ### Full passes, reflections and stored tables (R355 to R357, R368) -/

section
variable (res : List TuneRes) (s : State) (f : FullPass) (fs : List FullPass) (d : Fin 4) (hs : s.tune.full = f :: fs)
include hs

/-- A fault ends the pass at once (R357). -/
theorem execTuneFullDieDone_faults (ds : List (Fin 4)) (hd : f.dies = d :: ds) (hf : s.fullFault f = true) :
    execTuneFullDieDone res s = .next (s.nextFull.fullReply f true) := by
  simp only [execTuneFullDieDone, hs, hd, hf, if_true]

/-- So does a sender that is gone (R357). -/
theorem execTuneFullDieDone_gone (ds : List (Fin 4)) (hd : f.dies = d :: ds) (hf : s.fullFault f = false) (hg : s.senderGone f.hdr = true) :
    execTuneFullDieDone res s = .next (s.nextFull.fullReply f false) := by
  simp only [execTuneFullDieDone, hs, hd, hf, hg, Bool.false_eq_true, if_false, if_true]

omit hs in
/-- The die has had its 2 s, and its ADCs are free. -/
theorem State.dieDue (ht : f.dieTick + 4000000000 * 2 ≤ s.tick) (ha : (diesGrps [d]).any s.adcBusy = false) :
    ¬ (decide (s.tick < f.dieTick + secT 2) || (diesGrps [d]).any s.adcBusy) = true := by
  have hn : decide (s.tick < f.dieTick + secT 2) = false := decide_eq_false (Nat.not_lt.2 ht)
  rw [ha, hn]
  exact Bool.false_ne_true

variable (hf : s.fullFault f = false) (hg : s.senderGone f.hdr = false)
include hf hg

/-- The results of a die that is due are applied, and the pass goes on with the next (R356). -/
theorem execTuneFullDieDone_applies (e : Fin 4) (es : List (Fin 4)) (hd : f.dies = d :: e :: es)
    (hw : ¬ (decide (s.tick < f.dieTick + secT 2) || (diesGrps [d]).any s.adcBusy) = true) : execTuneFullDieDone res s = .next (s.fullApply f d res) := by
  simp only [execTuneFullDieDone, hs, hd, hf, hg, if_neg hw, Bool.false_eq_true, if_false]

/-- After its last die the pass is answered (R370). -/
theorem execTuneFullDieDone_ends (hd : f.dies = [d]) (hw : ¬ (decide (s.tick < f.dieTick + secT 2) || (diesGrps [d]).any s.adcBusy) = true)
    (g : FullPass) (gs : List FullPass) (hr : (s.fullApply f d res).tune.full = g :: gs) :
    execTuneFullDieDone res s = .next ((s.fullApply f d res).nextFull.fullReply g false) := by
  simp only [execTuneFullDieDone, hs, hd, hf, hg, if_neg hw, hr, Bool.false_eq_true, if_false]

end

/-- A reflection ends with its pins judged, and is answered with their entries (R368, R370). -/
theorem execReflectDone_answers (g : Fin 8) (trips : List (Option Nat)) (s : State) (r : Reflect)
    (hr : s.tune.reflects.find? (fun r => r.grp == g) = some r) (hl : trips.length = (setBits 16 r.mask).length)
    (ht : r.startTick + 4000 * (10 * (setBits 16 r.mask).length) ≤ s.tick) : execReflectDone g trips s = .next (
      let x := (s.modTune (fun t => { t with reflects := t.reflects.erase r })).reflectAll g r.mask trips
      if x.2.2 = 0 then x.1.reply r.hdr 0 0 0 x.2.1 else x.1.reply r.hdr 0x080 0xB035 x.2.2 x.2.1) := by
  simp only [execReflectDone, hr]
  exact if_pos ⟨hl, ht⟩

section
variable (s : State) (h : Hdr) (hs : s.tune.storing = some h)
include hs

/-- A copy that is read back carries the sequence number after the other copy's, and CAL_STORE is answered (R355). -/
theorem execCalStoreDone_stores : execCalStoreDone true s = .next (
    let k := fin 2 s.tune.storeTo
    let n := if s.flash[k + 1].valid then (s.flash[k + 1].seqNo + 1) % 2 ^ 32 else 1
    let u := s.modTune (fun t => { t with storing := none })
    (({ u with flash := vmod u.flash k (fun _ => u.tableCopy n) } : State).modTune (fun t => { t with tableSeq := n, lastStore := s.tick })).ok h) := by
  simp only [execCalStoreDone, hs, if_true]

/-- A copy that is not read back answers MEM_UE (R355). -/
theorem execCalStoreDone_fails : execCalStoreDone false s = .next ((s.modTune (fun t => { t with storing := none })).refuse h (0x060, 0xB020)) := by
  simp only [execCalStoreDone, hs, Bool.false_eq_true, if_false]

end

/-! ### Gap calibration (R359, R360) -/

section
variable (p : Fin 128) (cell : Fin 7) (meas gain : Int) (s : State) (hv : s.grps[grpOf p].take.live = true) (ht : s.tuned (grpOf p) = false)
  (hg : s.pins[p].gap cell s.tick = true) (hu : ∀ t, (s.pins[p].cells[cell]).lastUpd = some t → t + 4000 * 10 ≤ s.tick)
include hv ht hg hu

/-- A gap of a live group, at least 10 µs after the cell's last update, is judged by its gain (R352, R360). -/
theorem execGapCalibration_judges : execGapCalibration p cell meas gain s =
    if gain.natAbs ≤ 30000 then
      .next (s.modPin p (fun x => { x with cells := vmod x.cells cell (fun y => { y with trim := nudge y.trim meas, lastUpd := some s.tick, lastGap := s.tick, starved := false }) }))
    else .next ((s.modPin p (fun x => { x with cells := vmod x.cells cell (fun y => { y with lastGap := s.tick, starved := false }) })).discard (grpOf p) (entOf p).val 0xB031 gain 30000) := by
  cases hx : (s.pins[p].cells[cell]).lastUpd with
  | none => simp only [execGapCalibration, hv, ht, hg, hx, Bool.not_true, Bool.or_self, Bool.false_eq_true, if_false]
  | some t =>
    have hn : decide (s.tick < t + usT 10) = false := decide_eq_false (Nat.not_lt.2 (hu t hx))
    simp only [execGapCalibration, hv, ht, hg, hx, hn, Bool.not_true, Bool.or_self, Bool.false_eq_true, if_false]

end

/-- An edge cell of a live group without a gap for 10 ms is starved (R360, log 114). -/
theorem execEdgeCellStarved_starves (p : Fin 128) (cell : Fin 7) (s : State) (hc : cell.val < 6) (hv : s.grps[grpOf p].take.live = true)
    (ht : (s.pins[p].cells[cell]).lastGap + 4000000 * 10 ≤ s.tick) :
    execEdgeCellStarved p cell s = .next (s.modPin p (fun x => { x with cells := vmod x.cells cell (fun y => { y with starved := true }) })) := by
  refine if_pos ?_
  rw [hv, decide_eq_true hc, Bool.and_self, Bool.true_and]
  exact decide_eq_true ht

/-! ### Live takeover (R361 to R365) -/

section
variable (g : Fin 8) (s : State)

section
variable (hv : s.grps[g].take.live = true) (hf : s.gong.fault = false) (ht : s.tuned g = false) (hi : s.grps[g].take.st = .idle)
  (hc : s.grps[g].take.carried = none) (hd : s.grps[g].take.tapBusy = true ∨ s.grps[g].take.cycleTick + 4000000 * s.grps[g].take.ms ≤ s.tick)
include hv hf ht hi hc hd

/-- A cycle of a live, idle group is not held up once it is due or a tap asks for it (R361, R384). -/
theorem State.cycleFree : (!s.grps[g].take.live || s.gong.fault || s.tuned g || s.grps[g].take.st != .idle || s.grps[g].take.carried.isSome ||
    !(s.grps[g].take.tapBusy || decide (s.grps[g].take.cycleTick + msT s.grps[g].take.ms ≤ s.tick))) = false := by
  have hdue : (s.grps[g].take.tapBusy || decide (s.grps[g].take.cycleTick + msT s.grps[g].take.ms ≤ s.tick)) = true :=
    Bool.or_eq_true_iff.2 (hd.imp_right decide_eq_true)
  rw [hv, hf, ht, hi, hc, hdue]
  rfl

/-- With an idle sequencer the next pin's channel is calibrated directly. -/
theorem execTakeoverCycle_direct (hr : s.grpRuns g = false) : execTakeoverCycle g s =
    .next (s.modTake g (fun x => { x with st := .carry, direct := true, cand := x.next, next := x.next + 1, phaseTick := s.tick, cycleTick := s.tick })) := by
  simp only [execTakeoverCycle, s.cycleFree g hv hf ht hi hc hd, hr, Bool.false_eq_true, if_false]

/-- With a running one the next eligible pin is prepared. -/
theorem execTakeoverCycle_prepares (hr : s.grpRuns g = true) (e : Fin 16)
    (he : ((List.finRange 16).map (fun i => s.grps[g].take.next + i)).find? (s.eligible g) = some e) : execTakeoverCycle g s =
    .next (s.modTake g (fun x => { x with st := .prepare, cand := e, next := e + 1, phaseTick := s.tick, cycleTick := s.tick, handAddr := none, endAt := none })) := by
  simp only [execTakeoverCycle, s.cycleFree g hv hf ht hi hc hd, hr, he, Bool.false_eq_true, if_false, if_true]

end

/-- A phase that has not passed its limit. -/
theorem State.phaseOver_false (us : Nat) (h : s.tick ≤ s.grps[g].take.phaseTick + 4000 * us) : s.phaseOver g us = false :=
  decide_eq_false (Nat.not_lt.2 h)

/-- A preparation in time, with the ADC free, is judged by its residual (R205, R352, R362). -/
theorem execTakeoverPrepareDone_judges (r : Int) (o : Option Nat) (hp : s.grps[g].take.st = .prepare) (ht : s.tuned g = false)
    (hl : s.tick ≤ s.grps[g].take.phaseTick + 4000 * 250) (ha : s.adcBusy g = false) : execTakeoverPrepareDone g r o s =
      let y := s.pins[pinOf g s.grps[g].take.cand]
      if r.natAbs ≤ 2000 then
        .next (s.modGrp g (fun x => { x with rv := { x.rv with voh := y.voh, vol := y.vol }, take := { x.take with st := .search, handAddr := o, phaseTick := s.tick } }))
      else .next ((s.modTake g Take.over).discard g 16 0xB034 r 2000) := by
  refine (if_neg ?_).trans ((if_neg (Bool.eq_false_iff.1 (s.phaseOver_false g 250 hl))).trans (if_neg (Bool.eq_false_iff.1 ha)))
  rw [hp, ht]
  exact Bool.false_ne_true

section
variable (hd : s.grps[g].take.direct = false) (ht : s.tuned g = false) (hn : s.handoffNow g = true)
include hd ht hn

/-- The reserve channel takes a pin that is still eligible. -/
theorem execHandoff_takes (hs : s.grps[g].take.st = .search) (he : s.eligible g s.grps[g].take.cand = true) : execHandoff g s =
    .next (s.modTake g (fun x => { x with st := .carry, carried := some x.cand, phaseTick := s.tick, handAddr := none })) := by
  simp only [execHandoff, hd, ht, hn, hs, he, Bool.not_true, Bool.or_self, Bool.false_eq_true, if_false, if_true]

/-- The reserve channel returns the pin that it carries. -/
theorem execHandoff_returns (hs : s.grps[g].take.st = .handback) (hw : s.slowEnough g = true) (hk : s.grps[g].take.stuck = false) : execHandoff g s =
    .next (s.modTake g (fun x => { x.over with carried := none, takeovers := min (x.takeovers + 1) (2 ^ 32 - 1) })) := by
  simp only [execHandoff, hd, ht, hn, hs, hw, hk, Bool.not_true, Bool.not_false, Bool.or_self, Bool.and_self, Bool.false_eq_true, if_false, if_true]
  rfl

end

section
variable (o : Option Nat) (hl : s.grps[g].take.handAddr = none ∨ s.grps[g].take.phaseTick + 4000 * 100 ≤ s.tick ∨ s.issuing g = false)
include hl

/-- No handoff vector is armed, the window of the search has passed, or no vector is issued (R364). -/
theorem State.searchLate : (s.grps[g].take.handAddr.isNone || decide (s.grps[g].take.phaseTick + usT 100 ≤ s.tick) || !s.issuing g) = true := by
  rw [Bool.or_assoc, Bool.or_eq_true, Bool.or_eq_true, Option.isNone_iff_eq_none, decide_eq_true_iff, Bool.not_eq_true']
  exact hl

/-- A takeover without a handoff vector in its window is deferred (R364). -/
theorem execTakeoverDefer_defers (hs : s.grps[g].take.st = .search) : execTakeoverDefer g o s =
    .next (s.modTake g (fun x => { x.over with deferrals := min (x.deferrals + 1) (2 ^ 32 - 1) })) :=
  if_pos ⟨hs, s.searchLate g hl⟩

/-- A handback is searched for anew (R364). -/
theorem execTakeoverDefer_again (hs : s.grps[g].take.st = .handback) (hi : s.issuing g = true) : execTakeoverDefer g o s =
    .next (s.modTake g (fun x => { x with handAddr := o, phaseTick := s.tick })) := by
  refine (if_neg ?_).trans (if_pos ⟨hs, s.searchLate g hl, hi⟩)
  rintro ⟨hn, -⟩
  rw [hs] at hn
  nomatch hn

end

/-- A calibration that ends within its 300 µs, with the ADC free, is judged by the channel's results (R362, R366). -/
theorem execCarryDone_judges (res : List TuneRes) (o : Option Nat) (hs : s.grps[g].take.st = .carry) (ht : s.tuned g = false) (ha : s.adcBusy g = false)
    (hl : s.tick ≤ s.grps[g].take.phaseTick + 4000 * 300) : execCarryDone g res o s =
      .next ((s.applyAll (res.filter (fun r => r.chan == chanOf g s.grps[g].take.cand.val))).modTake g (fun x => if x.direct then x.over else { x with st := .handback, handAddr := o, phaseTick := s.tick })) := by
  have hlate : (!s.grps[g].take.direct && s.phaseOver g 300) = false := by
    rw [s.phaseOver_false g 300 hl, Bool.and_false]
  simp only [execCarryDone, hs, ht, ha, hlate, bne_self_eq_false, Bool.false_and, Bool.or_self, Bool.false_eq_true, if_false]

/-- 100 ns after the burst's end a carried pin is handed back without a handoff vector (R365). -/
theorem execHandbackAfterBurst_returns (e : Fin 16) (t : Nat) (hc : s.grps[g].take.carried = some e) (he : s.grps[g].take.endAt = some t)
    (ht : (t + 100 * 2048) / 512 ≤ s.tick) : execHandbackAfterBurst g s =
      .next (s.modTake g (fun x => { x.over with carried := none, takeovers := min (x.takeovers + 1) (2 ^ 32 - 1) })) := by
  have hns : nsF 100 = 100 * 2048 := by decide
  simp only [execHandbackAfterBurst, hc, he, hns, (s.due_iff _).2 ht, if_true]
  rfl

end

/-- Settles O33: one lemma for each event of Tuning, and for each way that it can go. -/
theorem tuningEventsActAsTheirRulesSay : Obligations.TuningEventsActAsTheirRulesSay := by
  refine ⟨?_, execReflectDone_answers, ?_, ?_, execEdgeCellStarved_starves, ?_, ?_, ?_, ?_, ?_, ?_⟩
  · intro res s f fs d ds hs hd
    refine ⟨execTuneFullDieDone_faults res s f fs d hs ds hd, execTuneFullDieDone_gone res s f fs d hs ds hd, fun hf hg ht ha => ?_⟩
    have hw := s.dieDue f d ht ha
    cases ds with
    | nil => exact ⟨fun hne => absurd rfl hne, fun _ g gs hr => execTuneFullDieDone_ends res s f fs d hs hf hg hd hw g gs hr⟩
    | cons e es => exact ⟨fun _ => execTuneFullDieDone_applies res s f fs d hs hf hg e es hd hw, fun hnil => nomatch hnil⟩
  · intro ok s h hs
    exact ⟨by rintro rfl; exact execCalStoreDone_stores s h hs, by rintro rfl; exact execCalStoreDone_fails s h hs⟩
  · intro p cell meas gain s hv ht hg hu
    have hj := execGapCalibration_judges p cell meas gain s hv ht hg hu
    exact ⟨fun hk => hj.trans (if_pos hk), fun hk => hj.trans (if_neg (Nat.not_le.2 hk))⟩
  · intro g s hv hf ht hi hc hd
    exact ⟨execTakeoverCycle_direct g s hv hf ht hi hc hd, execTakeoverCycle_prepares g s hv hf ht hi hc hd⟩
  · intro g r o s hp ht hl ha
    have hj := execTakeoverPrepareDone_judges g s r o hp ht hl ha
    exact ⟨fun hr => hj.trans (if_pos hr), fun hr => hj.trans (if_neg hr)⟩
  · intro g s hd ht hn
    exact ⟨execHandoff_takes g s hd ht hn, execHandoff_returns g s hd ht hn⟩
  · intro g o s late hl
    exact ⟨execTakeoverDefer_defers g s o hl, execTakeoverDefer_again g s o hl⟩
  · exact fun g res o s hs ht ha hl => execCarryDone_judges g s res o hs ht ha hl
  · exact fun g s e t hc he ht => execHandbackAfterBurst_returns g s e t hc he ht

end Sys2Proof.Machine
end

section
/-! O36, O37: the commands of the enclave, firmware update, and the expiries and zeroization of the enclave (R419 to R437, R449). -/

namespace Sys2Proof.Machine

open Sys2Proof

/-! ### OFFICER_AUTH (R426 to R428) -/

section
variable (h : Hdr) (q : Pkt) (a : State)

/-- CHALLENGE answers 32 random bytes and keeps them. -/
theorem officerBody_challenges (hop : q.a0 1 0 = 0) (hu : q.units = 0) : officerBody h q a =
    ((a.random 32).2.modCtx h.mb (fun x => { x with challenge := (a.random 32).1, challengeTick := a.tick })).reply h 0 0 0 (a.random 32).1 :=
  (if_pos hop).trans (State.unlessFail_of_none _ _ _ ((lenFail_none q 0).2 hu))

/-- PROVE is judged. -/
theorem officerBody_proves (hop : q.a0 1 0 = 1) : officerBody h q a = a.prove h q := (if_neg (by omega)).trans (if_pos hop)

/-- POLICY sets and records the masks. -/
theorem officerBody_sets_policy (hop : q.a0 1 0 = 2) (hu : q.units = 0) : officerBody h q a =
    (a.modSec (fun x => { x with expertOk := q.a1 7 0, cycleOk := q.a1 15 8, policyRec := some (q.a1 7 0, q.a1 15 8), policyValid := true, otp := { x.otp with policySet := true } })).ok h :=
  (if_neg (by omega)).trans ((if_neg (by omega)).trans ((if_pos hop).trans (State.unlessFail_of_none _ _ _ ((lenFail_none q 0).2 hu))))

/-- RELINQUISH gives the role up. -/
theorem officerBody_relinquishes (hop : q.a0 1 0 = 3) (hu : q.units = 0) : officerBody h q a = (a.modCtx h.mb (fun x => { x with officer := false })).ok h :=
  (if_neg (by omega)).trans ((if_neg (by omega)).trans ((if_neg (by omega)).trans (State.unlessFail_of_none _ _ _ ((lenFail_none q 0).2 hu))))

/-- A lockout after a failed PROVE is in force (R427). -/
def State.lockedOut (a : State) : Bool := match a.sec.lockTick with | none => false | some t => decide (a.tick < t + secT 1)

/-- No lockout is in force a second after the failure. -/
theorem State.lockedOut_false (hl : ∀ t, a.sec.lockTick = some t → t + 4000000000 ≤ a.tick) : a.lockedOut = false := by
  unfold State.lockedOut
  cases ht : a.sec.lockTick with
  | none => rfl
  | some t => exact decide_eq_false (Nat.not_lt.2 (hl t ht))

/-- The state and role checks of PROVE, in their order (R426, R427). -/
def State.proveFail (a : State) (h : Hdr) (q : Pkt) : Option Fail :=
  firstFail [lenFail q 467, failIf a.lockedOut 0x090 0xD023, failIf (q.b0 8 && a.sec.otp.officerHash.isSome) 0x030 0xD002,
    failIf ((List.finRange 8).any (fun d => d != h.mb && a.officer d)) 0x010 0xD010, failIf (q.b0 8 && !(a.sole { h with context := 0 })) 0x041 0x2003]

/-- PROVE passes them with no lockout, no other officer, and PROVISION by the only open context on a device without an officer key. -/
theorem State.proveFail_none (hu : q.units = 467) (hl : ∀ t, a.sec.lockTick = some t → t + 4000000000 ≤ a.tick)
    (ho : ∀ d : Fin 8, d ≠ h.mb → a.officer d = false) (hp : q.b0 8 = true → a.sec.otp.officerHash = none ∧ a.sole { h with context := 0 } = true) :
    a.proveFail h q = none := by
  have hheld : (List.finRange 8).any (fun d => d != h.mb && a.officer d) = false := List.any_eq_false.2 fun d _ => by
    rw [Bool.and_eq_true, bne_iff_ne]
    rintro ⟨hd, hod⟩
    exact absurd (ho d hd) (by rw [hod]; decide)
  simp only [State.proveFail, firstFail_cons, firstFail_nil, lenFail_none, failIf_none, hu, a.lockedOut_false hl, hheld, true_and, and_true]
  cases hb : q.b0 8 with
  | false => exact ⟨rfl, rfl⟩
  | true =>
    obtain ⟨hn, hs⟩ := hp hb
    rw [hn, hs]
    exact ⟨rfl, rfl⟩

/-- What a PROVE that passes those checks comes to: its challenge is used up, and signature and key decide (R426, R427). -/
theorem State.prove_judges (hf : a.proveFail h q = none) : a.prove h q =
    let u := a.modCtx h.mb (fun y => { y with challenge := [] })
    if (a.challengeOk h.mb && Config.verify (q.body.take 1312) (a.ctxs[h.mb].challenge ++ le 8 Config.serial ++ le 1 h.mb.val) ((q.body.drop 0x520).take 2420) &&
        (if q.b0 8 then true else a.sec.otp.officerHash == some (Config.sha3 (q.body.take 1312)))) = true then
      ((if q.b0 8 then u.modSec (fun z => { z with otp := { z.otp with officerHash := some (Config.sha3 (q.body.take 1312)) } }) else u).modCtx h.mb (fun y => { y with officer := true })).ok h
    else ((u.modSec (fun z => { z with lockTick := some a.tick })).authReport h.mb.val 0xD022).refuse h (0x090, 0xD022) := by
  have he : a.prove h q = match a.proveFail h q with
    | some f => a.refuse h f
    | none => _ := rfl
  rw [he, hf]

/-- With a valid challenge, a signature that verifies, and the officer's key or a new one, the sender becomes the officer (R426). -/
theorem State.prove_succeeds (hf : a.proveFail h q = none) (hc : a.challengeOk h.mb = true)
    (hv : Config.verify (q.body.take 1312) (a.ctxs[h.mb].challenge ++ le 8 Config.serial ++ le 1 h.mb.val) ((q.body.drop 0x520).take 2420) = true)
    (hk : q.b0 8 = true ∨ a.sec.otp.officerHash = some (Config.sha3 (q.body.take 1312))) : a.prove h q =
    let u := a.modCtx h.mb (fun y => { y with challenge := [] })
    ((if q.b0 8 then u.modSec (fun z => { z with otp := { z.otp with officerHash := some (Config.sha3 (q.body.take 1312)) } }) else u).modCtx h.mb (fun y => { y with officer := true })).ok h := by
  have hkey : (if q.b0 8 then true else a.sec.otp.officerHash == some (Config.sha3 (q.body.take 1312))) = true := by
    rcases hk with hk | hk
    · rw [if_pos hk]
    · rw [hk, beq_self_eq_true, ite_self]
  refine (a.prove_judges h q hf).trans (if_pos ?_)
  rw [hc, hv, hkey]
  rfl

/-! ### ATTEST, SEAL_OPEN and DEBUG_UNLOCK (R429, R434, R435) -/

/-- REPORT answers the signed report while the attestation seed is there (R434). -/
theorem attestBody_reports (hb : q.b0 0 = false) (hu : q.units = 4) (hg : a.sec.otp.seedGone = false) : attestBody h q a =
    a.reply h 0 0 0 (a.report256 h q.body ++ Config.sign (a.report256 h q.body) ++ zeros 4) := by
  refine (if_neg (Bool.eq_false_iff.1 hb)).trans (State.unlessFail_of_none _ _ _ ?_)
  rw [firstFail_cons, firstFail_cons]
  exact ⟨(lenFail_none q 4).2 hu, failIf_pass hg _ _, firstFail_nil⟩

/-- CERT answers the certificates (R434). -/
theorem attestBody_certifies (hb : q.b0 0 = true) (hu : q.units = 0) (hc : Config.certOk = true) : attestBody h q a = a.reply h 0 0 0 Config.certChain := by
  refine (if_pos hb).trans (State.unlessFail_of_none _ _ _ ?_)
  rw [firstFail_cons, firstFail_cons]
  exact ⟨(lenFail_none q 0).2 hu, failIf_pass (by rw [hc]; rfl) _ _, firstFail_nil⟩

/-- OFFER of a device that keeps its seed, with ZEROIZE_N high and a good key pair, answers a signed key and nonce (R429). -/
theorem State.sealOffer_offers (hu : q.units = 0) (hg : a.sec.otp.seedGone = false) (hz : a.sec.zeroPin = false) (hk : Config.kemPairOk a.sec.drbg = true) :
    a.sealOffer h q =
      let r := (a.modSec (fun x => { x with drbg := x.drbg + 1 })).random 32
      (r.2.modCtx h.mb (fun x => { x with session := { x.session with offered := true, offerTick := a.tick, kemSeed := a.sec.drbg, nonceD := r.1 } })).reply h 0 0 0
        (Config.kemKey a.sec.drbg ++ r.1 ++ Config.sign (Config.kemKey a.sec.drbg ++ r.1 ++ le 8 Config.serial ++ le 1 h.mb.val) ++ zeros 4) := by
  have hf : firstFail [lenFail q 0, failIf a.sec.otp.seedGone 0x090 0xD02C, failIf a.sec.zeroPin 0x090 0xD02D] = none := by
    simp only [firstFail_cons, firstFail_nil, lenFail_none, failIf_none, hu, hg, hz, and_self]
  simp only [State.sealOffer, hf, hk, if_true]

/-- ACCEPT of a valid offer whose secret decapsulates opens the session with keys from both nonces, and is answered sealed (R429). -/
theorem State.sealAccept_opens (ss : List Byte) (hu : q.units = 140) (hg : a.sec.otp.seedGone = false) (ho : a.ctxs[h.mb].session.isOpen = false)
    (hf : a.ctxs[h.mb].session.offered = true) (ht : a.tick < a.ctxs[h.mb].session.offerTick + 4000000000 * 10)
    (hs : Config.kemDecap a.ctxs[h.mb].session.kemSeed (q.body.take 1088) = some ss) : a.sealAccept h q =
      let x := a.ctxs[h.mb].session
      let nh := (q.body.drop 1088).take 32
      let n := a.sec.nextSession
      let k := Config.shake64 (ss ++ x.nonceD ++ nh ++ Config.sha3 (Config.kemKey x.kemSeed))
      let u := (a.modSec (fun z => { z with nextSession := nextSeq n })).modCtx h.mb (fun y => { y with session := { y.session with isOpen := true, session := n, kH2d := k.take 32, kD2h := (k.drop 32).take 32, lastH2d := 0, nextD2h := 1, offered := false, kemSeed := 0, nonceD := [] } })
      u.pushEntry h.mb h.ring { hdr := { h with sess := n }, ts := a.nowSI, payload := nh, wrap := true, finishes := true } := by
  have hv : (!(a.ctxs[h.mb].session.offered && decide (a.tick < a.ctxs[h.mb].session.offerTick + secT 10))) = false := by
    rw [hf, Bool.true_and, Bool.not_eq_false']
    exact decide_eq_true ht
  have hp : firstFail [lenFail q 140, failIf a.sec.otp.seedGone 0x090 0xD02C, failIf a.ctxs[h.mb].session.isOpen 0x010 0xD011,
      failIf (!(a.ctxs[h.mb].session.offered && decide (a.tick < a.ctxs[h.mb].session.offerTick + secT 10))) 0x090 0xD024] = none := by
    simp only [firstFail_cons, firstFail_nil, lenFail_none, failIf_none, hu, hg, ho, hv, and_self]
  simp only [State.sealAccept, hp, hs]

/-- CLOSE lets the session close once nothing sealed is in flight (R429). -/
theorem sealBody_closes (hop : q.a0 1 0 = 2) (hu : q.units = 0) (hg : a.sec.otp.seedGone = false) : sealBody h q a =
    (a.modCtx h.mb (fun x => { x with session := { x.session with closing := some h } })).settle h.mb := by
  refine (if_neg (by omega)).trans ((if_neg (by omega)).trans ((if_pos hop).trans (State.unlessFail_of_none _ _ _ ?_)))
  rw [firstFail_cons, firstFail_cons]
  exact ⟨(lenFail_none q 0).2 hu, failIf_pass hg _ _, firstFail_nil⟩

/-- A token that verifies starts the zeroization that comes before debug access (R435). -/
theorem debugBody_starts (hu : q.units = 512) (hk : a.tokenOk h.mb q.body = true) : debugBody h q a =
    ((a.modCtx h.mb (fun x => { x with challenge := [] })).modSec (fun x => { x with debugHdr := some (h, rd q.body 8 4 % 4) })).startZero 0 :=
  (State.unlessFail_of_none _ _ _ ((lenFail_none q 512).2 hu)).trans (if_pos hk)

end

/-- Settles O36: each command is `completes_of_body` with the lemma about its body and the OP of its row. -/
theorem securityCommandsComplete : Obligations.SecurityCommandsComplete := by
  refine ⟨fun c p => ?_, fun c p => ?_, fun c p => ?_, fun c p => ?_, fun c p => ?_, fun c p => ?_, fun c p => ?_, fun c p => ?_, fun c p => ?_,
    fun c p => ?_, fun c p => ?_⟩
  · refine completes_of_body _ c 0xD01 _ _ _ noFail noFail officerBody (fun _ => rfl) ?_
    intro h bs a q hu
    exact ⟨rfl, rfl, officerBody_challenges h q a (Pkt.a0_of_row p q 1 0 0 rfl (by decide) (by decide) (by decide)) hu⟩
  · refine completes_of_body _ c 0xD01 _ _ _ noFail noFail officerBody (fun _ => rfl) ?_
    intro h bs a q hu
    exact ⟨rfl, rfl, officerBody_sets_policy h q a (Pkt.a0_of_row p q 1 0 2 rfl (by decide) (by decide) (by decide)) hu⟩
  · refine completes_of_body _ c 0xD01 _ _ _ noFail noFail officerBody (fun _ => rfl) ?_
    intro h bs a q hu
    exact ⟨rfl, rfl, officerBody_relinquishes h q a (Pkt.a0_of_row p q 1 0 3 rfl (by decide) (by decide) (by decide)) hu⟩
  · refine completes_of_body _ c 0xD01 _ _ _ noFail noFail officerBody (fun _ => rfl) ?_
    rintro h bs a q ⟨hu, hl, ho, hp, hc, hv, hk⟩
    have hop : q.a0 1 0 = 1 := Pkt.a0_of_row p q 1 0 1 rfl (by decide) (by decide) (by decide)
    exact ⟨rfl, rfl, (officerBody_proves h q a hop).trans (a.prove_succeeds h q (a.proveFail_none h q hu hl ho hp) hc hv hk)⟩
  · refine completes_of_body _ c 0xD02 _ _ _ noFail noFail attestBody (fun _ => rfl) ?_
    rintro h bs a q ⟨hu, hg⟩
    exact ⟨rfl, rfl, attestBody_reports h q a (Pkt.b0_of_row_zero p q 0 rfl (by decide)) hu hg⟩
  · refine completes_of_body _ c 0xD02 _ _ _ noFail noFail attestBody (fun _ => rfl) ?_
    rintro h bs a q ⟨hu, hc⟩
    exact ⟨rfl, rfl, attestBody_certifies h q a (Pkt.b0_of_row_one p q 0 rfl (by decide)) hu hc⟩
  · refine completes_of_body _ c 0xD03 _ _ _ noFail noFail sealBody (fun _ => rfl) ?_
    rintro h bs a q ⟨hu, hg, hz, hk⟩
    have hop : q.a0 1 0 = 0 := Pkt.a0_of_row p q 1 0 0 rfl (by decide) (by decide) (by decide)
    exact ⟨rfl, rfl, (if_pos hop).trans (a.sealOffer_offers h q hu hg hz hk)⟩
  · refine completes_of_body _ c 0xD03 _ _ _ noFail noFail sealBody (fun _ => rfl) ?_
    rintro h bs a q ⟨hu, hg, ho, hf, ht, hs⟩
    have hop : q.a0 1 0 = 1 := Pkt.a0_of_row p q 1 0 1 rfl (by decide) (by decide) (by decide)
    obtain ⟨ss, hss⟩ := Option.isSome_iff_exists.1 hs
    exact ⟨rfl, rfl, ss, hss, (if_neg (by omega)).trans ((if_pos hop).trans (a.sealAccept_opens h q ss hu hg ho hf ht hss))⟩
  · refine completes_of_body _ c 0xD03 _ _ _ noFail noFail sealBody (fun _ => rfl) ?_
    rintro h bs a q ⟨hu, hg⟩
    exact ⟨rfl, rfl, sealBody_closes h q a (Pkt.a0_of_row p q 1 0 2 rfl (by decide) (by decide) (by decide)) hu hg⟩
  · refine completes_of_body _ c 0xD04 _ _ _ noFail noFail zeroizeBody (fun _ => rfl) ?_
    intro h bs a q hu
    exact ⟨rfl, rfl, State.unlessFail_of_none _ _ _ ((lenFail_none q 0).2 hu)⟩
  · refine completes_of_body _ c 0xD06 _ _ _ noFail noFail debugBody (fun _ => rfl) ?_
    rintro h bs a q ⟨hu, hk⟩
    exact ⟨rfl, rfl, debugBody_starts h q a hu hk⟩

/-! ### FW_UPDATE (R424) -/

section
variable (h : Hdr) (q : Pkt) (a : State)

/-- An operation of FW_UPDATE other than REVOKE, with its payload's length right and the flash free, starts (R424). -/
theorem fwUpdateBody_starts (hop : q.a0 1 0 ≠ 3) (hb : a.flashBusy = false)
    (hl : (if q.a0 1 0 = 0 then q.payload.isEmpty || decide (32768 < q.units) || decide (2 ^ 24 < q.arg1.toNat + q.body.length) else decide (q.units ≠ 0)) = false) :
    fwUpdateBody h q a = a.modSec (fun x =>
      if q.a0 1 0 = 0 then (if x.runB then { x with fwHdr := some (h, q.a0 1 0), imgA := x.imgA.write false q.arg1.toNat q.body } else { x with fwHdr := some (h, q.a0 1 0), imgB := x.imgB.write true q.arg1.toNat q.body })
      else if q.a0 1 0 = 2 then { x with fwHdr := some (h, q.a0 1 0), otp := { x.otp with counter := max x.otp.counter (min 64 x.running.svn) } }
      else { x with fwHdr := some (h, q.a0 1 0) }) := by
  refine (if_neg hop).trans (State.unlessFail_of_none _ _ _ ?_)
  rw [firstFail_cons, firstFail_cons]
  exact ⟨failIf_pass hl _ _, failIf_pass hb _ _, firstFail_nil⟩

/-- A chunk of 1 byte to 256 KiB that ends within 16 MiB has a right length (R424). -/
theorem fwChunk_fits (hp : q.payload ≠ []) (hu : q.units ≤ 32768) (he : q.arg1.toNat + q.body.length ≤ 2 ^ 24) :
    (q.payload.isEmpty || decide (32768 < q.units) || decide (2 ^ 24 < q.arg1.toNat + q.body.length)) = false := by
  have hn : q.payload.isEmpty = false := by rw [← Bool.not_eq_true, List.isEmpty_iff]; exact hp
  rw [hn, decide_eq_false (Nat.not_lt.2 hu), decide_eq_false (Nat.not_lt.2 he)]
  rfl

/-- REVOKE of a slot other than the running image's revokes it where another slot is left (R424). -/
theorem fwUpdateBody_revokes (hop : q.a0 1 0 = 3) (hu : q.units = 0) (h2 : q.arg1.toNat ≤ 2) (hr : q.arg1.toNat ≠ a.sec.running.slot)
    (hi : ∃ i, i < 3 ∧ i ≠ q.arg1.toNat ∧ a.sec.otp.slotGone i = false) : fwUpdateBody h q a =
      (a.modSec (fun x => { x with otp := { x.otp with revoked := vmod x.otp.revoked (fin 3 q.arg1.toNat) (fun _ => true) } })).ok h := by
  obtain ⟨i, hi3, hne, hg⟩ := hi
  have hleft : ((List.range 3).filter (fun i => i != q.arg1.toNat && !a.sec.otp.slotGone i)).isEmpty = false := by
    rw [← Bool.not_eq_true, List.isEmpty_iff]
    refine List.ne_nil_of_mem (a := i) (List.mem_filter.2 ⟨List.mem_range.2 hi3, ?_⟩)
    rw [hg, bne_iff_ne.2 hne]
    rfl
  refine (if_pos hop).trans (State.unlessFail_of_none _ _ _ ?_)
  rw [firstFail_cons, firstFail_cons]
  refine ⟨(lenFail_none q 0).2 hu, failIf_pass ?_ _ _, firstFail_nil⟩
  rw [hleft, decide_eq_false (Nat.not_lt.2 h2), beq_eq_false_iff_ne.2 hr]
  rfl

end

/-! ### What ends by itself (R424, R426, R427, R429, R436, R437) -/

/-- The operation ends with OK, or for VERIFY with SEC_FAIL where the other image is not valid (R424). -/
theorem execFwUpdateDone_answers (s : State) (h : Hdr) (op : Nat) (hh : s.sec.fwHdr = some (h, op)) : execFwUpdateDone s =
    .next (if op = 1 ∧ s.sec.otp.valid s.sec.spare = false then (s.modSec (fun x => { x with fwHdr := none })).refuse h (0x090, 0xD020) else (s.modSec (fun x => { x with fwHdr := none })).ok h) := by
  simp only [execFwUpdateDone, hh, Bool.and_eq_true, decide_eq_true_eq, Bool.not_eq_true']

/-- A challenge that has expired is forgotten (R426). -/
theorem execChallengeExpire_ends (c : Fin 8) (s : State) (hc : s.challengeOk c = false) :
    execChallengeExpire c s = .next (s.modCtx c (fun x => { x with challenge := [] })) :=
  congrArg Host.Outcome.next (if_neg (Bool.eq_false_iff.1 hc))

/-- From start-up step 3 on the pin starts a session zeroization (R437, R449). -/
theorem execZeroizeNAssert_starts (s : State) (h3 : 3 ≤ s.power.stepDone) :
    execZeroizeNAssert s = .next ((s.modSec (fun x => { x with zeroPin := true })).startZero 0) :=
  congrArg Host.Outcome.next (if_pos h3)

/-- Before start-up step 3 the zeroization waits (R437, R449). -/
theorem execZeroizeNAssert_waits (s : State) (h3 : s.power.stepDone < 3) :
    execZeroizeNAssert s = .next (s.modSec (fun x => { x with zeroPin := true, zeroLater := true })) :=
  congrArg Host.Outcome.next (if_neg (Nat.not_le.2 h3))

/-- A lockout ends a second after the failed PROVE (R427). -/
theorem execLockoutExpire_ends (s : State) (t : Nat) (hl : s.sec.lockTick = some t) (ht : t + 4000000000 ≤ s.tick) :
    execLockoutExpire s = .next (s.modSec (fun x => { x with lockTick := none })) := by
  have hd : t + secT 1 ≤ s.tick := ht
  simp only [execLockoutExpire, hl, hd, if_true]

/-- An offer ends 10 s after it was made (R429). -/
theorem execOfferExpire_ends (c : Fin 8) (s : State) (ho : s.ctxs[c].session.offered = true) (ht : s.ctxs[c].session.offerTick + 4000000000 * 10 ≤ s.tick) :
    execOfferExpire c s = .next (s.modCtx c (fun y => { y with session := { y.session with offered := false, kemSeed := 0, nonceD := [] } })) := by
  refine congrArg Host.Outcome.next (if_pos ?_)
  rw [ho, Bool.true_and]
  exact decide_eq_true ht

section
variable (s : State) (l : Nat) (hz : s.sec.zeroing = some l) (hr : s.sealedRuns = false)
include hz hr

/-- The erasure ends once no sealed burst runs, and its commands complete (R436). -/
theorem execZeroizeDone_completes (hd : s.sec.debugHdr = none) : execZeroizeDone s =
    .next (s.sec.zeroHdrs.foldl (fun t h => t.ok h) (s.eraseSealed.modSec (fun x => { x with zeroing := none, zeroHdrs := [], debugHdr := none }))) := by
  simp only [execZeroizeDone, hz, hr, hd, Bool.false_eq_true, if_false]

/-- A DEBUG_UNLOCK that waited for it opens access (R435). -/
theorem execZeroizeDone_unlocks (h : Hdr) (sc : Nat) (hd : s.sec.debugHdr = some (h, sc)) : execZeroizeDone s =
    .next (((s.sec.zeroHdrs.foldl (fun t h => t.ok h) (s.eraseSealed.modSec (fun x => { x with zeroing := none, zeroHdrs := [], debugHdr := none }))).modSec
      (fun x => { x with approved := false, debug := true, debugScope := sc })).ok h) := by
  simp only [execZeroizeDone, hz, hr, hd, Bool.false_eq_true, if_false]

end

/-- Settles O37: FW_UPDATE by `completes_of_body`, each expiry and end by what its command does where its time has come. -/
theorem firmwareAndEnclaveEventsComplete : Obligations.FirmwareAndEnclaveEventsComplete := by
  refine ⟨fun c p => ?_, fun c p => ?_, fun c p => ?_, fun c p => ?_, execFwUpdateDone_answers, execChallengeExpire_ends, execLockoutExpire_ends, execOfferExpire_ends,
    ?_, fun _ => rfl, ?_⟩
  · refine completes_of_body _ c 0xD05 _ _ _ noFail noFail fwUpdateBody (fun _ => rfl) ?_
    rintro h bs a q ⟨hp, hu, he, hb⟩
    have hop : q.a0 1 0 = 0 := Pkt.a0_of_row p q 1 0 0 rfl (by decide) (by decide) (by decide)
    refine ⟨rfl, rfl, (fwUpdateBody_starts h q a (by omega) hb ((if_pos hop).trans (fwChunk_fits q hp hu he))).trans ?_⟩
    simp only [hop, if_true]
  · refine completes_of_body _ c 0xD05 _ _ _ noFail noFail fwUpdateBody (fun _ => rfl) ?_
    rintro h bs a q ⟨hu, hb⟩
    have hop : q.a0 1 0 = 1 := Pkt.a0_of_row p q 1 0 1 rfl (by decide) (by decide) (by decide)
    refine ⟨rfl, rfl, (fwUpdateBody_starts h q a (by omega) hb ((if_neg (by omega)).trans (decide_eq_false (not_not.2 hu)))).trans ?_⟩
    simp only [hop, one_ne_zero, OfNat.one_ne_ofNat, if_false]
  · refine completes_of_body _ c 0xD05 _ _ _ noFail noFail fwUpdateBody (fun _ => rfl) ?_
    rintro h bs a q ⟨hu, hb⟩
    have hop : q.a0 1 0 = 2 := Pkt.a0_of_row p q 1 0 2 rfl (by decide) (by decide) (by decide)
    refine ⟨rfl, rfl, (fwUpdateBody_starts h q a (by omega) hb ((if_neg (by omega)).trans (decide_eq_false (not_not.2 hu)))).trans ?_⟩
    simp only [hop, two_ne_zero, if_false, if_true]
  · refine completes_of_body _ c 0xD05 _ _ _ noFail noFail fwUpdateBody (fun _ => rfl) ?_
    rintro h bs a q ⟨hu, h2, hr, hi⟩
    exact ⟨rfl, rfl, fwUpdateBody_revokes h q a (Pkt.a0_of_row p q 1 0 3 rfl (by decide) (by decide) (by decide)) hu h2 hr hi⟩
  · exact fun s => ⟨execZeroizeNAssert_starts s, execZeroizeNAssert_waits s⟩
  · exact fun s l hz hr => ⟨execZeroizeDone_completes s l hz hr, execZeroizeDone_unlocks s l hz hr⟩

end Sys2Proof.Machine
end
